-- ==== Sys2Proof/Word.lean ====
section
/-!
DEFINITION. The plain words of the model: bytes, texts and service keys.
-/

namespace Sys2Proof

/-- One byte on a serial port. -/
abbrev Byte := BitVec 8

/-- The characters of a text, one code each (R54). -/
abbrev Text := List Byte

/-- A service's identity as the characters carried (R17: 1..8 characters A–Z, 0–9 when well-formed). -/
abbrev Key := List Byte

end Sys2Proof
end

