-- ==== Sys2Proof/Syntax.lean ====
section
/-!
DEFINITION. The commands the part takes: one constructor of `Instr` for each row of spec/opcode_table.json, and the
operands they carry. A numeric field of a request is a plain number, so that a value out of its range can be carried
and refused (R180); a number of a port that physically exists (a string, a field line) is a `Fin`.
-/

namespace Sys2Proof

/-! ### Named alternatives -/

/-- R17: the five statuses of a service. -/
inductive Status | scheduled | delayed | cancelled | departing | departed
  deriving DecidableEq, Repr, Inhabited

/-- R167: the two levels of a field line. -/
inductive Level | high | low
  deriving DecidableEq, Repr, Inhabited

/-- R2: the period of the master pulse. -/
inductive SyncPeriod | second | minute
  deriving DecidableEq, Repr, Inhabited

/-- R61: the two kinds of board. -/
inductive BoardKind | list | platform
  deriving DecidableEq, Repr, Inhabited

/-- R91: the line rates of a wall string, in units of 62.5 kbit/s: 62.5, 125 and 250. -/
inductive WallRate | r62 | r125 | r250
  deriving DecidableEq, Repr, Inhabited

/-- R132: the line rates of the cue link, in kbit/s. -/
inductive CueRate | r100 | r200 | r400
  deriving DecidableEq, Repr, Inhabited

/-- R132: 12 bits or 16 bits per phrase. -/
inductive PhraseWidth | narrow | wide
  deriving DecidableEq, Repr, Inhabited

/-- R153: a dial of 720 positions, or of 1440. -/
inductive ClockKind | minute | halfMinute
  deriving DecidableEq, Repr, Inhabited

/-- R153: the polarity of an impulse. -/
inductive Polarity | positive | negative
  deriving DecidableEq, Repr, Inhabited

/-- R107: the two kinds of notice rule. -/
inductive RuleKind | head | term
  deriving DecidableEq, Repr, Inhabited

/-- R183: the classes of reports. -/
inductive ReportClass
  | dispatch | serviceEvicted | watch | rule | cue | moduleState | clockLine | time | override | feed | inputEdge
  deriving DecidableEq, Repr, Inhabited

/-- R167: the role of a field line, with the platform number of DISPATCH and the clock line of SENSE as carried. -/
inductive Role
  | unused | dispatch (platform : Nat) | overrideKey | sync | paOverride | playBusy | sense (clock : Nat)
  deriving DecidableEq, Repr, Inhabited

/-- R131: the slots of a cue template. -/
inductive CueSlot
  | platform | oldPlatform | dest | via | schedTime | expTime | delayMin | callingPoints | coaches
  deriving DecidableEq, Repr, Inhabited

/-! ### Operands -/

/-- A platform designator (R17): a number 1..40 and a suffix 0 (none), 1 (A) or 2 (B), as 11.7 codes it. -/
structure Designator where
  num : Nat
  suffix : Nat
  deriving DecidableEq, Repr, Inhabited

/-- A message time (R41): hours, minutes, seconds and the day indicator. -/
structure MsgTime where
  h : Nat
  m : Nat
  s : Nat
  day : Int
  deriving DecidableEq, Repr, Inhabited

/-- What SERVICE PUT carries for one field (11.7): its flag in the presence set and its flag in the none set.
`strayNone` is a none flag for a field that is not present. -/
inductive Carried (α : Type) | absent | strayNone | none | value (a : α)
  deriving DecidableEq, Repr, Inhabited

/-- A field of a configuration section whose values are named: left out, a code that names no value, or a value. -/
inductive Arg (α : Type) | omitted | unknown | is (a : α)
  deriving DecidableEq, Repr, Inhabited

/-- The head of a request: its tag, and (R180) whether the payload has the length its layout gives; `misfit` holds the
length expected (0 where no length fits) when it has not. -/
structure ReqHead where
  tag : Byte
  misfit : Option Nat
  deriving DecidableEq, Repr, Inhabited

/-- The fields of SERVICE PUT, in the order of its field table (2.4, 11.7). -/
structure PutReq where
  key : Key
  cls : Carried Nat
  destination : Carried Nat
  via : Carried Nat
  scheduled : Carried MsgTime
  expected : Carried MsgTime
  status : Carried (Option Status)
  platform : Carried Designator
  effective : Carried MsgTime
  calling : Carried (List Nat)
  coaches : Carried Nat
  actual : Carried MsgTime
  deriving DecidableEq, Repr, Inhabited

/-- The CONFIGURE GENERAL section (R2, R18, R40, R63, R186); a field left out keeps its stored value (R180). -/
structure GeneralReq where
  c0 : Option Nat
  period : Arg SyncPeriod
  overdue : Option Nat
  retain : Option Nat
  abandon : Option Nat
  window : Option Nat
  departing : Option Nat
  tolerance : Option Nat
  flashTime : Option Nat
  startText : Option Nat
  degradedText : Option Nat
  overrideText : Option Nat
  feedTimeout : Option Nat
  deriving DecidableEq, Repr, Inhabited

/-- The CONFIGURE BOARD section (R61). -/
structure BoardReq where
  enabled : Arg Bool
  string : Option Nat
  first : Option Nat
  rows : Option Nat
  kind : Arg BoardKind
  platforms : Option (List Nat)
  classes : Option (List Nat)
  horizon : Option Nat
  fixed : Option Nat
  period : Option Nat
  showDue : Option Bool
  showExpected : Option Bool
  showCoaches : Option Bool
  deriving DecidableEq, Repr, Inhabited

/-- The CONFIGURE STRING section (R91). -/
structure StringReq where
  enabled : Arg Bool
  rate : Arg WallRate
  deriving DecidableEq, Repr, Inhabited

/-- The CONFIGURE LINE section (R168); a filter is OFF (`none`) or a sample period in ms. Edge reports that are neither on
nor off are `unknown` (log 49). -/
structure LineReq where
  role : Arg Role
  active : Arg Level
  filter : Arg (Option Nat)
  reports : Arg Bool
  lockout : Option Nat
  deriving DecidableEq, Repr, Inhabited

/-- The indicated field of CONFIGURE CLOCK LINE (R154): KEEP or a dial reading. -/
inductive Indicated | keep | reading (h m s : Nat)
  deriving DecidableEq, Repr, Inhabited

/-- The CONFIGURE CLOCK LINE section (R154); a polarity `is none` is KEEP. -/
structure ClockReq where
  active : Arg Bool
  kind : Arg ClockKind
  indicated : Arg Indicated
  polarity : Arg (Option Polarity)
  width : Option Nat
  gap : Option Nat
  hold : Option Nat
  deriving DecidableEq, Repr, Inhabited

/-- The CONFIGURE CUE LINK section (R132); a field left out keeps its stored value. The zone map is a list of
(platform number, zone set); `overrideTemplate` is absent, none, or a template number. -/
structure CueLinkReq where
  enabled : Arg Bool
  rate : Arg CueRate
  width : Arg PhraseWidth
  numberBase : Option Nat
  hourBase : Option Nat
  minuteBase : Option Nat
  suffixA : Option Nat
  suffixB : Option Nat
  truncation : Option Nat
  zones : Option (List (Nat × List Nat))
  overrideTemplate : Option (Option Nat)
  resumeDelay : Option Nat
  deriving DecidableEq, Repr, Inhabited

/-- One item of TEXT LOAD (4.2): the whole new content of one entry. -/
structure TextItem where
  index : Nat
  text : Text
  phrase : Option Nat
  deriving DecidableEq, Repr, Inhabited

/-- R108: the eleven predicates, each present or absent. -/
structure Preds where
  status : Option (List Status)
  cls : Option (List Nat)
  platform : Option (List Nat)
  destination : Option Nat
  calling : Option Nat
  delay : Option (Nat × Nat)
  countdown : Option (Nat × Nat)
  changed : Option Nat
  stale : Option Bool
  unsettled : Option Bool
  actual : Option Bool
  deriving DecidableEq, Repr, Inhabited

/-- What RULE PUT carries for the predicates (R108): a status `none` names none of the five, and a field `unknown` carries
neither of its two values. -/
structure PredsReq where
  status : Option (List (Option Status))
  cls : Option (List Nat)
  platform : Option (List Nat)
  destination : Option Nat
  calling : Option Nat
  delay : Option (Nat × Nat)
  countdown : Option (Nat × Nat)
  changed : Option Nat
  stale : Arg Bool
  unsettled : Arg Bool
  actual : Arg Bool
  deriving DecidableEq, Repr, Inhabited

/-- R107: the WATCH action. -/
inductive Watch | timeout (period : Nat) | count (threshold : Nat)
  deriving DecidableEq, Repr, Inhabited

/-- The record RULE PUT carries (R107, R119). A watch `unknown` has a mode that is neither TIMEOUT nor COUNT, and an enabled
flag `unknown` is neither yes nor no (log 49). -/
structure RuleReq where
  kind : Arg RuleKind
  enabled : Arg Bool
  preds : PredsReq
  terms : Option (List Nat)
  priority : Option Nat
  notice : Option Nat
  banner : Option (Nat × List Nat)
  cue : Option Nat
  watch : Arg Watch
  report : Bool
  deriving DecidableEq, Repr, Inhabited

/-- R131: one item of a cue template as stored. -/
inductive CueItem | phrase (code : Nat) | slot (s : CueSlot)
  deriving DecidableEq, Repr, Inhabited

/-- R131: where a cue's zones come from. -/
inductive ZoneSource | fixed (zones : List Nat) | platform
  deriving DecidableEq, Repr, Inhabited

/-- The record TEMPLATE PUT carries (R131); an item `none` names neither a phrase nor a slot. -/
structure TemplateReq where
  items : List (Option CueItem)
  priority : Option Nat
  validity : Option Nat
  zones : Arg ZoneSource
  needsShown : Option Bool
  requiresFeed : Option Bool
  withdrawOnClear : Option Bool
  deadline : Option Bool
  deriving DecidableEq, Repr, Inhabited

/-- R38: the order SERVICE LIST names. -/
inductive ListOrder | table | board (b : Nat) | unknown
  deriving DecidableEq, Repr, Inhabited

/-- R98: the result in a module's reply; FAULT carries the module's code 1..255. -/
inductive ModResult | ok | fault (code : Byte)
  deriving DecidableEq, Repr, Inhabited

/-- R98: a module reply as received on a string. -/
structure ModReply where
  address : Nat
  sequence : Byte
  result : ModResult
  checkGood : Bool
  deriving DecidableEq, Repr, Inhabited

/-! ### Requests -/

/-- The names of the requests (R180). -/
inductive ReqName
  | identify | configureGeneral | configureBoard | configureString | configureLine | configureClockLine
  | configureCueLink | textLoad | servicePut | serviceDrop | serviceGet | serviceList | rulePut | ruleDrop
  | templatePut | cueAsk | timeSet | timeGet | boardGet | overrideSet | status | reportMask | restart
  deriving DecidableEq, Repr, Inhabited

/-- R180: a request with its fields, as it keeps its place in the inbound queue until it is served. -/
inductive Request
  | identify
  | configureGeneral (r : GeneralReq)
  | configureBoard (n : Nat) (r : BoardReq)
  | configureString (n : Nat) (r : StringReq)
  | configureLine (n : Nat) (r : LineReq)
  | configureClockLine (n : Nat) (r : ClockReq)
  | configureCueLink (r : CueLinkReq)
  | textLoad (items : List TextItem)
  | servicePut (r : PutReq)
  | serviceDrop (key : Key)
  | serviceGet (key : Key)
  | serviceList (order : ListOrder) (start : Nat)
  | rulePut (n : Nat) (r : RuleReq)
  | ruleDrop (n : Nat)
  | templatePut (n : Nat) (r : TemplateReq)
  | cueAsk (n : Nat) (key : Option Key)
  | timeSet (hour minute second millis : Nat)
  | timeGet
  | boardGet (n : Nat)
  | overrideSet (on : Option Bool)
  | status
  | reportMask (classes : List (Option ReportClass))
  | restart
  deriving DecidableEq, Repr, Inhabited

/-- The name of a request. -/
def Request.name : Request → ReqName
  | .identify => .identify
  | .configureGeneral _ => .configureGeneral
  | .configureBoard _ _ => .configureBoard
  | .configureString _ _ => .configureString
  | .configureLine _ _ => .configureLine
  | .configureClockLine _ _ => .configureClockLine
  | .configureCueLink _ => .configureCueLink
  | .textLoad _ => .textLoad
  | .servicePut _ => .servicePut
  | .serviceDrop _ => .serviceDrop
  | .serviceGet _ => .serviceGet
  | .serviceList _ _ => .serviceList
  | .rulePut _ _ => .rulePut
  | .ruleDrop _ => .ruleDrop
  | .templatePut _ _ => .templatePut
  | .cueAsk _ _ => .cueAsk
  | .timeSet _ _ _ _ => .timeSet
  | .timeGet => .timeGet
  | .boardGet _ => .boardGet
  | .overrideSet _ => .overrideSet
  | .status => .status
  | .reportMask _ => .reportMask
  | .restart => .restart

/-- R180 step 2: what a payload spells by its request's layout: the request, or, where its length does not fit, the length
expected (0 where no length fits). -/
inductive Reading | misfit (expected : Nat) | request (r : Request)
  deriving DecidableEq, Repr, Inhabited

/-! ### Commands -/

/-- The commands: one constructor for each row of spec/opcode_table.json, in the table's order. -/
inductive Instr
  /-- POWER_ON (R1). -/
  | powerOn
  /-- HOST_FRAME (R178): bytes received on the host link, in order. -/
  | hostFrame (bytes : List Byte)
  /-- FRAME_TIMEOUT (R178). -/
  | frameTimeout
  /-- HOST_FRAME_SENT (R181). -/
  | hostFrameSent
  /-- IDENTIFY (R184). -/
  | identify (h : ReqHead)
  /-- CONFIGURE_GENERAL (R180). -/
  | configureGeneral (h : ReqHead) (r : GeneralReq)
  /-- CONFIGURE_BOARD (R61). -/
  | configureBoard (h : ReqHead) (n : Nat) (r : BoardReq)
  /-- CONFIGURE_STRING (R91). -/
  | configureString (h : ReqHead) (n : Nat) (r : StringReq)
  /-- CONFIGURE_LINE (R168). -/
  | configureLine (h : ReqHead) (n : Nat) (r : LineReq)
  /-- CONFIGURE_CLOCK_LINE (R154). -/
  | configureClockLine (h : ReqHead) (n : Nat) (r : ClockReq)
  /-- CONFIGURE_CUE_LINK (R132). -/
  | configureCueLink (h : ReqHead) (r : CueLinkReq)
  /-- TEXT_LOAD (R55). -/
  | textLoad (h : ReqHead) (items : List TextItem)
  /-- SERVICE_PUT (R20). -/
  | servicePut (h : ReqHead) (r : PutReq)
  /-- SERVICE_DROP (R37). -/
  | serviceDrop (h : ReqHead) (key : Key)
  /-- SERVICE_GET (R38). -/
  | serviceGet (h : ReqHead) (key : Key)
  /-- SERVICE_LIST (R38). -/
  | serviceList (h : ReqHead) (order : ListOrder) (start : Nat)
  /-- RULE_PUT (R119). -/
  | rulePut (h : ReqHead) (n : Nat) (r : RuleReq)
  /-- RULE_DROP (R121). -/
  | ruleDrop (h : ReqHead) (n : Nat)
  /-- TEMPLATE_PUT (R131). -/
  | templatePut (h : ReqHead) (n : Nat) (r : TemplateReq)
  /-- CUE_ASK (R135). -/
  | cueAsk (h : ReqHead) (n : Nat) (key : Option Key)
  /-- TIME_SET (R6). -/
  | timeSet (h : ReqHead) (hour minute second millis : Nat)
  /-- TIME_GET (R8). -/
  | timeGet (h : ReqHead)
  /-- BOARD_GET (R90). -/
  | boardGet (h : ReqHead) (n : Nat)
  /-- OVERRIDE_SET (R174): ON, OFF, or (`none`) any other value. -/
  | overrideSet (h : ReqHead) (on : Option Bool)
  /-- STATUS (R185). -/
  | status (h : ReqHead)
  /-- REPORT_MASK (R183): the classes to enable; `none` is a class name the part does not know. -/
  | reportMask (h : ReqHead) (classes : List (Option ReportClass))
  /-- RESTART (R187). -/
  | restart (h : ReqHead)
  /-- SECOND_EVENT (R4). -/
  | secondEvent
  /-- EDGE (R171): the filtered level of a line changes to the level given. -/
  | edge (line : Fin 16) (level : Level)
  /-- SYNC_LOST (R12). -/
  | syncLost
  /-- LOCKOUT_END (R172). -/
  | lockoutEnd (line : Fin 16)
  /-- DEPARTING_TIMER_END (R29). -/
  | departingTimerEnd (key : Key)
  /-- PAGE_EXPIRY (R71). -/
  | pageExpiry (board : Fin 16)
  /-- FLASH_END (R76). -/
  | flashEnd (key : Key)
  /-- WALL_FRAME_SENT (R97). -/
  | wallFrameSent (string : Fin 4)
  /-- MODULE_REPLY (R98). -/
  | moduleReply (string : Fin 4) (r : ModReply)
  /-- REPLY_TIMEOUT (R99). -/
  | replyTimeout (string : Fin 4)
  /-- WATCH_EXPIRY (R126). -/
  | watchExpiry (slot : Fin 24)
  /-- WATCH_COUNT (R128). -/
  | watchCount (slot : Fin 24)
  /-- END_OF_TRANSMISSION (R144). -/
  | endOfTransmission
  /-- ACCEPT_WINDOW_END (R145). -/
  | acceptWindowEnd
  /-- MAXIMUM_PLAY_TIME_END (R146). -/
  | maximumPlayTimeEnd
  /-- RESUME_DELAY_END (R147). -/
  | resumeDelayEnd
  /-- IMPULSE_END (R160). -/
  | impulseEnd (line : Fin 4)
  /-- GAP_END (R159). -/
  | gapEnd (line : Fin 4)
  /-- FEED_LOST (R186). -/
  | feedLost
  /-- FILTER_SAMPLE (R170): the raw level the sample finds. -/
  | filterSample (line : Fin 16) (level : Level)
  deriving DecidableEq, Repr, Inhabited

end Sys2Proof
end

