-- ==== Sys2Proof/Config.lean ====
section
/-!
DEFINITION. What an implementation fixes: the capacities the manual states (R184), and the constants it leaves open,
which have no body, so that nothing can be proved of their values.
-/

namespace Sys2Proof.Config

/-- R184: services in the table. -/
abbrev maxServices : Nat := 192
/-- R184: calling points of a service. -/
abbrev maxCalling : Nat := 20
/-- R184: text entries. -/
abbrev textEntries : Nat := 1024
/-- R184: characters of a text. -/
abbrev maxText : Nat := 32
/-- R184: items of one TEXT LOAD (R55). -/
abbrev maxItems : Nat := 16
/-- R184: frames in a string's queue. -/
abbrev maxQueue : Nat := 48
/-- R184: modules of a string. -/
abbrev maxModule : Nat := 63
/-- R184: places in the rule table. -/
abbrev ruleCount : Nat := 64
/-- R184: cue templates. -/
abbrev templateCount : Nat := 64
/-- R184: watch slots. -/
abbrev slotCount : Nat := 24
/-- R184: entries in the cue queue. -/
abbrev maxCues : Nat := 32
/-- R184: phrases of one cue. -/
abbrev maxPhrases : Nat := 48
/-- R184: places of the inbound queue. -/
abbrev maxInbound : Nat := 4
/-- R177: places of the BUSY list. -/
abbrev maxBusy : Nat := 4
/-- R184: places of the report queue. -/
abbrev maxReports : Nat := 24
/-- R97: the module reply timeout in ms. -/
abbrev replyTimeout : Nat := 20
/-- R132: the accept window in ms. -/
abbrev acceptWindow : Nat := 500
/-- R132: the maximum play time in ms. -/
abbrev maxPlay : Nat := 120000
/-- R178: the time limit of a host frame in ms. -/
abbrev frameLimit : Nat := 50
/-- R177: bytes of the longest payload of a host frame. -/
abbrev maxPayload : Nat := 1024
/-- Seconds of a service day. -/
abbrev day : Int := 86400
/-- Convention "Service seconds" (spec/00): the least stored time. -/
abbrev minTime : Int := -43200
/-- Convention "Service seconds" (spec/00): the greatest stored time. -/
abbrev maxTime : Int := 129599

/-- The host line rate is a strap read at power-on (R177): 115.2 kbit/s or 460.8 kbit/s. -/
inductive HostRate | r115 | r460
  deriving DecidableEq, Repr, Inhabited

/-- R184: the strapped host line rate. The manual gives no default: free (log 12). -/
opaque hostRate : HostRate

/-- R184: the silicon revision number. The manual gives no value: free (log 12). -/
opaque siliconRevision : Nat

/-- R180: the request a kind code names, if it names one. The manual numbers no kinds: free (log 4). -/
opaque kindName : Byte → Option ReqName

/-- R180 step 2: what a payload spells, for the requests whose layout 11.7 does not give byte by byte: free (log 4). -/
opaque layout : ReqName → List Byte → Reading

/-- 11.7: the status a status byte of SERVICE PUT names, if it names one. The manual gives no codes: free (log 4). -/
opaque statusCode : Byte → Option Status

/-- R96: the fields a row frame carries, each with a tag of its own, in the order of the rule's table. -/
inductive WallField
  | rowKind | key | scheduled | expected | destination | via | platform | remark | due | notice | flash | coaches
  | columns | calling | text
  deriving DecidableEq, Repr, Inhabited

/-- R73, R75: the three kinds of row that a ROW frame carries. -/
inductive RowKind | service | calling | banner
  deriving DecidableEq, Repr, Inhabited

/-- R49: the seven remarks, without their figures. -/
inductive RemarkKind | cancelled | departing | awaiting | due | delayed | onTime | expected
  deriving DecidableEq, Repr, Inhabited

/-- R96: the kind character of a row frame, ROW (`true`) or BLANK. The manual gives no codes: free (log 20). -/
opaque wallKindCode : Bool → Byte

/-- R96: the tag character of a field. The manual gives no codes: free (log 20). -/
opaque wallTag : WallField → Byte

/-- R96: the value of the field "row kind". The manual gives no codes: free (log 20). -/
opaque rowKindCode : RowKind → Byte

/-- R96: the first character of the field "remark". The manual gives no codes: free (log 20). -/
opaque remarkCode : RemarkKind → Byte

/-- R96: the value of the field "flash", set or clear. The manual gives no codes: free (log 20). -/
opaque flashCode : Bool → Byte

/-- R96: the value of the field "columns shown", from the flags of DUE, EXPECTED and COACHES. The manual gives no codes:
free (log 20). -/
opaque columnsCode : Bool → Bool → Bool → Byte

end Sys2Proof.Config
end

