-- ==== Sys2Proof/WellFormed.lean ====
section
/-!
DEFINITION. Which commands can be carried at all: the limits that the layouts of 11.7 and 6.3 put on operands. A value
that can be carried and is out of its range is well-formed; the part refuses it (R180).
-/

namespace Sys2Proof

/-- The bytes of a field of SERVICE PUT (11.7): `size` when it carries a value. -/
def carriedBytes {α : Type} (size : α → Nat) : Carried α → Nat
  | .value a => size a
  | _ => 0

/-- Whether what a field carries, if anything, fits its bytes. -/
def carriedFits {α : Type} (fits : α → Bool) : Carried α → Bool
  | .value a => fits a
  | _ => true

/-- A value of one byte. -/
def fitsByte (n : Nat) : Bool := n < 256

/-- A value of two bytes. -/
def fitsWord (n : Nat) : Bool := n < 65536

/-- A message time in 4 bytes, the day a signed byte (11.7). -/
def fitsTime (t : MsgTime) : Bool := fitsByte t.h && fitsByte t.m && fitsByte t.s && -128 ≤ t.day && t.day ≤ 127

/-- A platform designator in 2 bytes (11.7). -/
def fitsDesignator (d : Designator) : Bool := fitsByte d.num && fitsByte d.suffix

/-- The payload bytes of SERVICE PUT (11.7). -/
def putBytes (r : PutReq) : Nat :=
  1 + r.key.length + 2 + 2 + carriedBytes (fun _ => 1) r.cls + carriedBytes (fun _ => 2) r.destination
    + carriedBytes (fun _ => 2) r.via + carriedBytes (fun _ => 4) r.scheduled + carriedBytes (fun _ => 4) r.expected
    + carriedBytes (fun _ => 1) r.status + carriedBytes (fun _ => 2) r.platform + carriedBytes (fun _ => 4) r.effective
    + carriedBytes (fun is => 1 + 2 * is.length) r.calling + carriedBytes (fun _ => 1) r.coaches
    + carriedBytes (fun _ => 4) r.actual

/-- SERVICE PUT: each field fits its bytes, and the payload fits a frame (11.7). -/
def putFits (r : PutReq) : Bool :=
  fitsByte r.key.length && carriedFits fitsByte r.cls && carriedFits fitsWord r.destination && carriedFits fitsWord r.via
    && carriedFits fitsTime r.scheduled && carriedFits fitsTime r.expected && carriedFits fitsDesignator r.platform
    && carriedFits fitsTime r.effective && carriedFits (fun is => fitsByte is.length && is.all fitsWord) r.calling
    && carriedFits fitsByte r.coaches && carriedFits fitsTime r.actual && putBytes r ≤ Config.maxPayload

/-- The payload bytes of TEXT LOAD (11.7). -/
def textBytes (items : List TextItem) : Nat := 1 + (items.map fun x => 5 + x.text.length).sum

/-- TEXT LOAD: each item fits its bytes (0xFFFF stands for no phrase code), and the payload fits a frame (11.7). -/
def textFits (items : List TextItem) : Bool :=
  fitsByte items.length && textBytes items ≤ Config.maxPayload
    && items.all fun x => fitsWord x.index && fitsByte x.text.length &&
      match x.phrase with | some p => p < 65535 | none => true

/-- The expected length a BAD_LENGTH reply names is a payload length (R178, R180), or 0 where none fits: a computed length above
the longest payload is not named (log 4). -/
def headFits (h : ReqHead) : Bool :=
  match h.misfit with
  | some n => n ≤ Config.maxPayload
  | none => true

/-- A request whose payload fits its layout carries operands that fit (a misfit payload is never read). -/
def requestFits (h : ReqHead) (operands : Bool) : Bool := headFits h && (h.misfit.isSome || operands)

/-- A module reply: one character of address, and a fault code 1..255 (R98). -/
def replyFits (r : ModReply) : Bool :=
  fitsByte r.address && match r.result with | .fault c => c != 0 | .ok => true

/-- Whether a command can be carried. -/
def Instr.wellFormed : Instr → Bool
  | .powerOn => true
  | .hostFrame _ => true
  | .frameTimeout => true
  | .hostFrameSent => true
  | .identify h => requestFits h true
  | .configureGeneral h _ => requestFits h true
  | .configureBoard h _ _ => requestFits h true
  | .configureString h _ _ => requestFits h true
  | .configureLine h _ _ => requestFits h true
  | .configureClockLine h _ _ => requestFits h true
  | .configureCueLink h _ => requestFits h true
  | .textLoad h items => requestFits h (textFits items)
  | .servicePut h r => requestFits h (putFits r)
  | .serviceDrop h key => requestFits h (fitsByte key.length)
  | .serviceGet h key => requestFits h (fitsByte key.length)
  | .serviceList h _ _ => requestFits h true
  | .rulePut h _ _ => requestFits h true
  | .ruleDrop h _ => requestFits h true
  | .templatePut h _ _ => requestFits h true
  | .cueAsk h _ _ => requestFits h true
  | .timeSet h _ _ _ _ => requestFits h true
  | .timeGet h => requestFits h true
  | .boardGet h _ => requestFits h true
  | .overrideSet h _ => requestFits h true
  | .status h => requestFits h true
  | .reportMask h _ => requestFits h true
  | .restart h => requestFits h true
  | .secondEvent => true
  | .edge _ _ => true
  | .syncLost => true
  | .lockoutEnd _ => true
  | .departingTimerEnd _ => true
  | .pageExpiry _ => true
  | .flashEnd _ => true
  | .wallFrameSent _ => true
  | .moduleReply _ r => replyFits r
  | .replyTimeout _ => true
  | .watchExpiry _ => true
  | .watchCount _ => true
  | .endOfTransmission => true
  | .acceptWindowEnd => true
  | .maximumPlayTimeEnd => true
  | .resumeDelayEnd => true
  | .impulseEnd _ => true
  | .gapEnd _ => true
  | .feedLost => true
  | .filterSample _ _ => true

end Sys2Proof
end

