-- ==== Sys2Proof/Decode.lean ====
section
/-!
DEFINITION. Commands from table words. No row of spec/opcode_table.json has bits, so no word spells a command.
-/

namespace Sys2Proof

/-- The command a word spells by the bits of the table: none, because the table gives no row any bits. -/
def decodeTableWord (_nbits _w : Nat) : Option Instr := none

end Sys2Proof
end

