-- ==== Sys2Proof/Machine/Types.lean ====
section
/-!
DEFINITION. The records the ten blocks hold, block by block, and what replies and reports carry. Plain data throughout.
-/

namespace Sys2Proof.Machine

/-! ### Timebase (chapter 1) -/

/-- R1: the timebase states. -/
inductive TbState | unset | free | locked | holdover
  deriving DecidableEq, Repr, Inhabited

/-- R1: the timebase. The fraction is `secPos` ms of elapsed count into a second that lasts `secLen` ms (R13). -/
structure Timebase where
  state : TbState
  t : Int
  secPos : Nat
  secLen : Nat
  tHigh : Int
  slew : Int
  rejected : List Int
  lastPulse : Option Nat
  superviseFrom : Option Nat
  c0 : Nat
  period : SyncPeriod
  deriving DecidableEq, Repr, Inhabited

/-- R15: what called for a step. -/
inductive StepCause | timeSet | sync
  deriving DecidableEq, Repr, Inhabited

/-- R9: what a step event carries. -/
structure StepInfo where
  oldT : Int
  newT : Int
  requested : Int
  applied : Int
  cause : StepCause
  clamped : Bool
  changeover : Bool
  deriving DecidableEq, Repr, Inhabited

/-! ### Text store (chapter 4) -/

/-- R53: one text entry. -/
structure TextEntry where
  text : Text
  phrase : Option Nat
  deriving DecidableEq, Repr, Inhabited

/-! ### Field inputs (chapter 10) -/

/-- R167: one field line. `lockoutEnd` is the elapsed-count reading at which the lockout remaining reaches 0. -/
structure FieldLine where
  role : Role
  active : Level
  filter : Option Nat
  reports : Bool
  lockout : Nat
  raw : Level
  filtered : Level
  disagree : Nat
  lockoutEnd : Option Nat
  mark : Bool
  deriving DecidableEq, Repr, Inhabited

/-- R167: the line records and the override record. -/
structure Fiu where
  lines : List FieldLine
  forced : Bool
  keys : Bool
  override : Bool
  deriving DecidableEq, Repr, Inhabited

/-- R173, R175: the cause an OVERRIDE report carries. -/
inductive OverrideCause | keys | forced | restart
  deriving DecidableEq, Repr, Inhabited

/-! ### Service table (chapter 2) -/

/-- R17: a service record, with the sets and the count that other blocks keep with it: the held-rule set (R110), the
confirmation set (R84), each in ascending order, and the flash count (R76). -/
structure Service where
  key : Key
  seq : BitVec 32
  cls : Nat
  destination : Nat
  via : Option Nat
  scheduled : Int
  expected : Option Int
  status : Status
  current : Option Designator
  previous : Option Designator
  staged : Option (Designator × Int)
  changeTime : Option Int
  calling : List Nat
  coaches : Option Nat
  actual : Option Int
  lastUpdate : Int
  stale : Bool
  unsettled : Bool
  timer : Option Nat
  held : List Nat
  conf : List Nat
  flash : Nat
  deriving DecidableEq, Repr, Inhabited

/-- R18, R19: the table, the admission sequence counter and the configuration. -/
structure Svt where
  services : List Service
  counter : BitVec 32
  overdue : Nat
  retain : Nat
  abandon : Nat
  window : Nat
  departing : Nat
  deriving DecidableEq, Repr, Inhabited

/-- R31: the marks of a record change event. -/
inductive Mark
  | created | times | status | platformChange | staged | withdrawn | expectedCarried | stale | other
  | stagedApplied | dispatch | departingEnded | unsettled | rebase
  deriving DecidableEq, Repr, Inhabited

/-! ### Row content (chapter 5) -/

/-- R42: a displayed clock time hh:mm. -/
structure HourMin where
  hour : Nat
  minute : Nat
  deriving DecidableEq, Repr, Inhabited

/-- R49: the remark, with the figures it carries. -/
inductive Remark
  | cancelled | departing | awaiting | due | delayed | onTime | expected (text : HourMin) (delay : Nat)
  deriving DecidableEq, Repr, Inhabited

/-- R48: the DUE column. -/
inductive DueText | word | figure (c : Nat) | blank
  deriving DecidableEq, Repr, Inhabited

/-- R73: the fields of a SERVICE row. The platform text is "-" for `none`, and otherwise the designator written out. -/
structure ServiceRow where
  key : Key
  scheduled : HourMin
  expected : Option HourMin
  destination : Text
  via : Option Text
  platform : Option Designator
  remark : Remark
  due : DueText
  notice : Option Text
  flash : Bool
  coaches : Option Nat
  showDue : Bool
  showExpected : Bool
  showCoaches : Bool
  deriving DecidableEq, Repr, Inhabited

/-- R73, R75: the content of a row. -/
inductive RowContent
  | service (row : ServiceRow)
  | calling (key : Key) (points : List Text)
  | banner (text : Text)
  | blank
  deriving DecidableEq, Repr, Inhabited

/-- R77: the state of one module address. `outstanding` is oldest first; `onWall` is `none` while unknown. -/
structure Cell where
  desired : RowContent
  outstanding : List RowContent
  onWall : Option RowContent
  released : Bool
  heldBack : Bool
  deriving DecidableEq, Repr, Inhabited

/-- R61: a board record as stored. -/
structure BoardRec where
  enabled : Bool
  string : Nat
  first : Nat
  rows : Nat
  kind : BoardKind
  platforms : List Nat
  classes : List Nat
  horizon : Nat
  fixed : Nat
  period : Nat
  showDue : Bool
  showExpected : Bool
  showCoaches : Bool
  deriving DecidableEq, Repr, Inhabited

/-- R68: the presentations. -/
inductive Presentation | normal | startUp | override
  deriving DecidableEq, Repr, Inhabited

/-- R69, R90: where a board's banner comes from. -/
inductive BannerSource | none | degraded | rule (n : Nat)
  deriving DecidableEq, Repr, Inhabited

/-- R65: a configured board and its dynamic state, each as last derived. -/
structure Board where
  record : BoardRec
  eligible : List Key
  presentation : Presentation
  banner : BannerSource
  page : Nat
  pageCount : Nat
  timer : Nat
  deriving DecidableEq, Repr, Inhabited

/-- R63, R65: the Board Composer. `cells` holds, for each string, one cell for each address 1..63 in order. -/
structure Bcp where
  boards : List (Option Board)
  cells : List (List Cell)
  flashTime : Nat
  startText : Nat
  degradedText : Nat
  overrideText : Nat
  tolerance : Nat
  recompose : Bool
  deriving DecidableEq, Repr, Inhabited

/-! ### Wall strings (chapter 6) -/

/-- R93: a frame: its module address and its content; a BLANK frame is one whose content is BLANK (R80). -/
structure WallFrame where
  address : Nat
  content : RowContent
  deriving DecidableEq, Repr, Inhabited

/-- R92: the line activity. `sending` holds the moment the transmission ends, in µs of elapsed count; `awaiting` the
elapsed-count reading at which the reply timer runs out. -/
inductive LineActivity | idle | sending (dueMicros : Nat) | awaiting (due : Nat)
  deriving DecidableEq, Repr, Inhabited

/-- R101: the health of a module. -/
inductive Health | unknown | ok | fault (code : Byte) | noReply
  deriving DecidableEq, Repr, Inhabited

/-- R100: the result of a completion. -/
inductive FrameResult | ok | fault (code : Byte) | noReply
  deriving DecidableEq, Repr, Inhabited

/-- R94: the answer to an offer. -/
inductive OfferAnswer | queued | replaced | refused
  deriving DecidableEq, Repr, Inhabited

/-- R92, R102: one wall string. `inFlight` holds the frame and its sequence. -/
structure WallString where
  enabled : Bool
  rate : WallRate
  opRate : WallRate
  activity : LineActivity
  inFlight : Option (WallFrame × Byte)
  queue : List WallFrame
  seq : Byte
  drain : Bool
  health : List Health
  sent : BitVec 32
  repliesOk : BitVec 32
  repliesFault : BitVec 32
  timeouts : BitVec 32
  stray : BitVec 32
  coalesced : BitVec 32
  refused : BitVec 32
  peak : Nat
  deriving DecidableEq, Repr, Inhabited

/-! ### Notice rules (chapter 7) -/

/-- R107: a rule record as stored. -/
structure Rule where
  kind : RuleKind
  enabled : Bool
  preds : Preds
  terms : List Nat
  priority : Nat
  notice : Option Nat
  banner : Option (Nat × List Nat)
  cue : Option Nat
  watch : Option Watch
  report : Bool
  deriving DecidableEq, Repr, Inhabited

/-- R124: the mode of a watch slot. -/
inductive SlotMode | timeout (period remaining : Nat) | count (threshold n : Nat)
  deriving DecidableEq, Repr, Inhabited

/-- R124: a bound watch slot. `fresh`: started since the last second event's evaluation began (R115 step 3). -/
structure Slot where
  head : Nat
  key : Key
  mode : SlotMode
  fresh : Bool
  deriving DecidableEq, Repr, Inhabited

/-- R107: the Notice Rule Engine. -/
structure Nre where
  rules : List (Option Rule)
  slots : List (Option Slot)
  ruleTime : Int
  deriving DecidableEq, Repr, Inhabited

/-! ### Announcement cues (chapter 8) -/

/-- R131: a cue template as stored. -/
structure Template where
  items : List CueItem
  priority : Nat
  validity : Nat
  zones : ZoneSource
  needsShown : Bool
  requiresFeed : Bool
  withdrawOnClear : Bool
  deadline : Bool
  deriving DecidableEq, Repr, Inhabited

/-- R133: who asked for a cue. -/
inductive CueSource | rule (head : Nat) | host | override
  deriving DecidableEq, Repr, Inhabited

/-- R133: the state of an entry. -/
inductive CueState | queued | held | sending | awaitAccept | playing
  deriving DecidableEq, Repr, Inhabited

/-- R133: a cue entry. Its cue key is the pair (template number, service key). `resolved` is absent before selection. -/
structure CueEntry where
  number : Nat
  template : Template
  key : Option Key
  serviceSeq : Option (BitVec 32)
  priority : Nat
  source : CueSource
  state : CueState
  seq : BitVec 32
  latest : Int
  resolved : Option (Option Designator)
  unobserved : Bool
  deriving DecidableEq, Repr, Inhabited

/-- R143: a cue frame, with its check. -/
structure CueFrame where
  zones : List Nat
  priority : Nat
  phrases : List Nat
  check : BitVec 16
  deriving DecidableEq, Repr, Inhabited

/-- 8.6: the link states, with the moment the transmission ends (µs of elapsed count), the accept window ends or the
maximum play time ends (ms of elapsed count). -/
inductive LinkState
  | disabled | idle | sending (dueMicros : Nat) | awaitAccept (due : Nat) | playing (due : Nat) | blocked
  deriving DecidableEq, Repr, Inhabited

/-- R132: the configuration of the cue link. `zones` holds the zone set of platforms 1..40 in order. -/
structure CueConfig where
  enabled : Bool
  rate : CueRate
  width : PhraseWidth
  numberBase : Nat
  hourBase : Nat
  minuteBase : Nat
  suffixA : Nat
  suffixB : Nat
  truncation : Nat
  zones : List (List Nat)
  overrideTemplate : Option Nat
  resumeDelay : Nat
  deriving DecidableEq, Repr, Inhabited

/-- R133: the Cue Controller. The queue is held in its order (priority descending, enqueue sequence ascending). -/
structure Cuc where
  templates : List (Option Template)
  cfg : CueConfig
  queue : List CueEntry
  counter : BitVec 32
  link : LinkState
  frame : Option CueFrame
  disablePending : Bool
  opRate : CueRate
  opWidth : PhraseWidth
  busy : Bool
  paOverride : Bool
  resume : Nat
  deriving DecidableEq, Repr, Inhabited

/-- R152: the reasons of CUE_DROPPED. -/
inductive DropReason
  | override | noTemplate | expired | displaced | full | degraded | unresolved | notAccepted | overrideEnded
  deriving DecidableEq, Repr, Inhabited

/-- R152: the outcomes of CUE_DONE. -/
inductive DoneOutcome | played | superseded | unobserved
  deriving DecidableEq, Repr, Inhabited

/-- R134: what became of an enqueue request. -/
inductive EnqueueOutcome
  | refusedOverride | noTemplate | merged (seq : BitVec 32) | late | admitted (seq : BitVec 32) | full
  deriving DecidableEq, Repr, Inhabited

/-! ### Slave clocks (chapter 9) -/

/-- R153: the states of a clock line. -/
inductive ClockState | unconfigured | waiting | running | catchup | holding | faulted
  deriving DecidableEq, Repr, Inhabited

/-- R153: the drive activity, with the elapsed-count reading at which the width or the gap ends. -/
inductive Drive | idle | driving (due : Nat) | gap (due : Nat)
  deriving DecidableEq, Repr, Inhabited

/-- R166: the cause a CLOCK_LINE_STATE report carries. -/
inductive ClockCause | configure | timeSet | step | impulse | boundary
  deriving DecidableEq, Repr, Inhabited

/-- R154: an accepted section, in the form in which it is applied (R155). -/
structure ClockSection where
  active : Bool
  kind : ClockKind
  position : Option Nat
  polarity : Option Polarity
  width : Nat
  gap : Nat
  hold : Nat
  clampedWidth : Bool
  clampedGap : Bool
  deriving DecidableEq, Repr, Inhabited

/-- R153: a clock line record. `impulseSense` is the sense line of the impulse being driven (R156); `decide` and
`waiting` hold a step's decision (R164) and a section (R155) that wait for that impulse to end. -/
structure ClockLine where
  state : ClockState
  kind : ClockKind
  indicated : Nat
  polarity : Polarity
  width : Nat
  gap : Nat
  hold : Nat
  sense : Option Nat
  miss : Nat
  drive : Drive
  pending : Bool
  seen : Bool
  impulseSense : Option Nat
  decide : Bool
  waiting : Option ClockSection
  deriving DecidableEq, Repr, Inhabited

/-! ### Reports (chapters 1 to 11) -/

/-- The reports, each with what its chapter says it carries. -/
inductive ReportBody
  /-- R15: the first TIME SET. -/
  | timeSteppedInitial
  /-- R15. -/
  | timeStepped (info : StepInfo)
  | syncRejected (offset : Int) (held : Nat)
  | syncLost (elapsed : Nat)
  | syncRegained (previous : TbState) (offset : Int) (agreement : Bool)
  | changeover (c0 : Nat) (fromStep : Bool)
  /-- R28. -/
  | dispatchCaptured (key : Key) (line platform : Nat) (actual : Int)
  | dispatchUnmatched (line platform : Nat)
  /-- R172. -/
  | dispatchIgnored (line platform remaining : Nat)
  /-- R36. -/
  | serviceEvicted (key : Key) (status : Status) (k : Int)
  /-- R101. -/
  | moduleState (string address : Nat) (previous new : Health) (sequence : Byte)
  /-- R129. -/
  | ruleHolds (head priority : Nat) (key : Key) (t : Int)
  | watchFull (head : Nat) (key : Key)
  | watchExpired (head : Nat) (key : Key) (period : Nat)
  | watchCount (head : Nat) (key : Key) (threshold : Nat)
  /-- R152. -/
  | cueDropped (number : Nat) (key : Option Key) (source : CueSource) (reason : DropReason) (seq : Option (BitVec 32))
  | cueDone (number : Nat) (key : Option Key) (source : CueSource) (seq : BitVec 32) (outcome : DoneOutcome)
      (resolved : Option (Option Designator))
  | cueStuck (number : Nat) (key : Option Key) (seq : BitVec 32)
  /-- R166. -/
  | clockLineState (line : Nat) (previous new : ClockState) (cause : ClockCause) (indicated : Nat)
      (target d : Option Nat)
  | clockLineFault (line indicated : Nat) (target : Option Nat) (polarity : Polarity) (sense : Option Nat)
  /-- R176: the time is t and its fraction, absent while UNSET. -/
  | inputEdge (line : Nat) (role : Role) (activating : Bool) (time : Option (Int × Nat))
  | overrideEntered (cause : OverrideCause) (keys forced : Bool)
  | overrideExited (cause : OverrideCause) (keys forced : Bool)
  /-- R186. -/
  | feedLost (timeout : Nat)
  | feedRestored
  deriving DecidableEq, Repr, Inhabited

/-- R182: a queued report with its number and class. -/
structure Report where
  number : BitVec 16
  cls : ReportClass
  body : ReportBody
  deriving DecidableEq, Repr, Inhabited

/-! ### Replies (R180) -/

/-- R180: the result codes. -/
inductive Result
  | ok | clamped | badKind | badLength | badField | notFound | tableFull | inUse | state | busy
  deriving DecidableEq, Repr, Inhabited

/-- The fields a reply may name. -/
inductive FieldId
  -- SERVICE PUT
  | key | cls | destination | via | scheduled | expected | status | platform | effective | calling | coaches | actual
  -- CONFIGURE GENERAL
  | c0 | syncPeriod | overdue | retain | abandon | window | departing | tolerance | flashTime | startText
  | degradedText | overrideText | feedTimeout
  -- CONFIGURE BOARD
  | boardNumber | enabled | string | firstModule | rows | kind | platformFilter | classFilter | horizon | fixedRows
  | pagePeriod
  -- CONFIGURE STRING, LINE, CLOCK LINE
  | stringNumber | lineRate | lineNumber | role | activeLevel | filter | edgeReports | lockout
  | clockLine | active | indicated | polarity | width | gap | hold
  -- CONFIGURE CUE LINK
  | phraseWidth | numberBase | hourBase | minuteBase | suffixA | suffixB | truncation | zoneMap | overrideTemplate
  | resumeDelay
  -- TEXT LOAD
  | itemCount | item (position index : Nat)
  -- RULE PUT, TEMPLATE PUT, CUE ASK
  | ruleNumber | predicate (i : Nat) | terms | priority | notice | banner | cue | watch | reportAction
  | templateNumber | items | validity | zoneSource
  -- SERVICE LIST, TIME SET, OVERRIDE SET, REPORT MASK
  | order | startIndex | hour | minute | second | millis | overrideValue | reportClass
  -- STATE
  | timebase | disablePending | overrideReason | expiredReason
  deriving DecidableEq, Repr, Inhabited

/-- R38: a stored time read back: service seconds, day indicator and clock seconds. -/
structure TimeView where
  seconds : Int
  day : Int
  clock : Int
  deriving DecidableEq, Repr, Inhabited

/-- R38: the copy of a record that SERVICE GET carries. -/
structure ServiceView where
  key : Key
  seq : BitVec 32
  cls : Nat
  destination : Nat
  via : Option Nat
  scheduled : TimeView
  expected : Option TimeView
  status : Status
  current : Option Designator
  previous : Option Designator
  staged : Option (Designator × TimeView)
  changeTime : Option TimeView
  calling : List Nat
  coaches : Option Nat
  actual : Option TimeView
  lastUpdate : TimeView
  stale : Bool
  unsettled : Bool
  timer : Option Nat
  k : Int
  held : List Nat
  conf : List Nat
  deriving DecidableEq, Repr, Inhabited

/-- R90: one row of a BOARD GET reply. -/
structure RowView where
  onWall : Option RowContent
  outstanding : Nat
  dirty : Bool
  released : Bool
  heldBack : Bool
  deriving DecidableEq, Repr, Inhabited

/-- R90: the BOARD GET reply. -/
structure BoardView where
  record : BoardRec
  online : Bool
  presentation : Presentation
  banner : BannerSource
  eligible : Nat
  page : Nat
  pageCount : Nat
  rows : List RowView
  deriving DecidableEq, Repr, Inhabited

/-- R8: the TIME GET snapshot; the clock time is in ms of the clock, absent while UNSET. -/
structure TimeSnapshot where
  state : TbState
  clock : Option Int
  t : Int
  fraction : Nat
  tHigh : Int
  slew : Int
  c0 : Nat
  period : SyncPeriod
  deriving DecidableEq, Repr, Inhabited

/-- R102: a string's part of STATUS. -/
structure StringView where
  enabled : Bool
  rate : WallRate
  opRate : WallRate
  activity : LineActivity
  drain : Bool
  length : Nat
  peak : Nat
  sent : BitVec 32
  repliesOk : BitVec 32
  repliesFault : BitVec 32
  timeouts : BitVec 32
  stray : BitVec 32
  coalesced : BitVec 32
  refused : BitVec 32
  health : List Health
  deriving DecidableEq, Repr, Inhabited

/-- R123: a loaded rule's part of STATUS. -/
structure RuleView where
  kind : RuleKind
  enabled : Bool
  priority : Nat
  holders : Nat
  deriving DecidableEq, Repr, Inhabited

/-- R123: a bound watch slot's part of STATUS. -/
structure SlotView where
  head : Nat
  key : Key
  mode : SlotMode
  deriving DecidableEq, Repr, Inhabited

/-- R152: an entry's part of STATUS. -/
structure CueView where
  number : Nat
  key : Option Key
  source : CueSource
  priority : Nat
  state : CueState
  seq : BitVec 32
  latest : Int
  deriving DecidableEq, Repr, Inhabited

/-- R166: a clock line's part of STATUS. A position also reads as a dial (hours, minutes, seconds). -/
structure ClockView where
  state : ClockState
  kind : ClockKind
  indicated : Nat
  indicatedDial : Nat × Nat × Nat
  target : Option Nat
  targetDial : Option (Nat × Nat × Nat)
  d : Option Nat
  polarity : Polarity
  width : Nat
  gap : Nat
  hold : Nat
  sense : Option Nat
  miss : Nat
  drive : Drive
  pending : Bool
  deriving DecidableEq, Repr, Inhabited

/-- R176: a field line's part of STATUS. -/
structure LineView where
  role : Role
  activeLevel : Level
  filter : Option Nat
  reports : Bool
  lockout : Nat
  raw : Level
  filtered : Level
  active : Bool
  remaining : Option Nat
  mark : Bool
  deriving DecidableEq, Repr, Inhabited

/-- R185: the STATUS reply, section by section. -/
structure StatusView where
  timebase : TbState
  validCount : Nat
  tableEmpty : Bool
  override : Bool
  degraded : Bool
  feedTimeout : Nat
  feedCount : Nat
  mask : List ReportClass
  reportNumber : BitVec 16
  reportsLost : Bool
  inbound : Nat
  busy : Nat
  badChecks : BitVec 32
  badLengths : BitVec 32
  frameTimeouts : BitVec 32
  busyReplies : BitVec 32
  overruns : BitVec 32
  strings : List StringView
  rules : List (Option RuleView)
  slots : List (Option SlotView)
  link : LinkState
  disablePending : Bool
  resume : Nat
  playBusy : Bool
  paOverride : Bool
  cues : List CueView
  clocks : List ClockView
  lines : List LineView
  forced : Bool
  keys : Bool
  overrideActive : Bool
  deriving DecidableEq, Repr, Inhabited

/-- R184: the capacities IDENTIFY states, in the order of the rule. -/
structure Capacities where
  services : Nat
  callingPoints : Nat
  textEntries : Nat
  textLength : Nat
  boards : Nat
  boardRows : Nat
  strings : Nat
  modules : Nat
  frameQueue : Nat
  rules : Nat
  terms : Nat
  slots : Nat
  templates : Nat
  items : Nat
  cues : Nat
  phrases : Nat
  clocks : Nat
  lines : Nat
  inbound : Nat
  reports : Nat
  payload : Nat
  deriving DecidableEq, Repr, Inhabited

/-- What a reply carries after its result code (R180 and each request's rule). -/
inductive ReplyBody
  | nothing
  /-- BAD_LENGTH: the length expected. -/
  | length (n : Nat)
  /-- BAD_FIELD, NOT_FOUND, STATE: the field or reason named. -/
  | field (f : FieldId)
  /-- IN_USE: the number of the holder (a board, a field line, a HEAD). -/
  | holder (n : Nat)
  | identity (family part : List Byte) (revision : Nat) (rate : Config.HostRate) (capacities : Capacities)
  /-- R7. -/
  | stepped (requested applied : Int) (clamped changeover : Bool)
  | time (v : TimeSnapshot)
  | service (v : ServiceView)
  /-- R38. -/
  | keys (total start : Nat) (keys : List Key)
  /-- R120. -/
  | rule (r : Rule) (holders : Nat)
  | template (t : Template)
  | merged (seq : BitVec 32)
  | admitted (seq : BitVec 32)
  | board (v : BoardView)
  | override (forced keys active : Bool)
  | status (v : StatusView)
  | mask (classes : List ReportClass)
  /-- R166: the record as stored after the section has taken effect. -/
  | clock (v : ClockView)
  deriving DecidableEq, Repr, Inhabited

/-- R180: a reply: its result code, the clamped fields with the values stored, and its content. -/
structure Reply where
  result : Result
  clamped : List (FieldId × Nat)
  body : ReplyBody
  deriving DecidableEq, Repr, Inhabited

/-! ### Host link (chapter 11) -/

/-- R178: the receiver. `got` holds the bytes received since the start byte, in order; `start` is its moment. In BODY
the first two of them are the length bytes and `need` counts the bytes still to come. -/
inductive Receiver
  | hunt
  | length (start : Nat) (got : List Byte)
  | body (start : Nat) (need : Nat) (got : List Byte)
  deriving DecidableEq, Repr, Inhabited

/-- R180: what a well-formed frame is to be served as: a kind that names no request, a request whose payload does not fit
its layout (with the length expected), or a request. -/
inductive Frame | unknown (kind : Byte) | misfit (name : ReqName) (expected : Nat) | request (r : Request)
  deriving DecidableEq, Repr, Inhabited

/-- R180: how far a request has come. -/
inductive Progress | waiting | inService | answered (r : Reply)
  deriving DecidableEq, Repr, Inhabited

/-- R179: a place of the inbound queue. `arrival` numbers the frames in their order of arrival. -/
structure Inbound where
  arrival : Nat
  tag : Byte
  frame : Frame
  progress : Progress
  restart : Bool
  deriving DecidableEq, Repr, Inhabited

/-- R179: a place of the BUSY list. -/
structure BusyPlace where
  arrival : Nat
  tag : Byte
  frame : Frame
  deriving DecidableEq, Repr, Inhabited

/-- R181: the frame the transmitter is sending: a reply (named by its frame's arrival), a BUSY reply, or the oldest
report of the queue. -/
inductive Sending | reply (arrival : Nat) | busy (arrival : Nat) | report
  deriving DecidableEq, Repr, Inhabited

/-- R177: the Host Link Unit. -/
structure Hlu where
  rx : Receiver
  inbound : List Inbound
  busy : List BusyPlace
  reports : List Report
  mask : List ReportClass
  number : BitVec 16
  lost : Bool
  feedTimeout : Nat
  feedCount : Nat
  degraded : Bool
  badChecks : BitVec 32
  badLengths : BitVec 32
  frameTimeouts : BitVec 32
  busyReplies : BitVec 32
  overruns : BitVec 32
  tx : Option Sending
  arrivals : Nat
  deriving DecidableEq, Repr, Inhabited

end Sys2Proof.Machine
end

