-- ==== Sys2Proof/Machine/State.lean ====
section
/-!
DEFINITION. The whole state of the part, plain data, and its value right after power-on.
-/

namespace Sys2Proof.Machine

/-- What the work of an event reads and never writes: the elapsed count (R3), the timebase, the text store and the
field inputs. -/
structure Base where
  elapsed : Nat
  tbs : Timebase
  txs : List TextEntry
  fiu : Fiu
  deriving DecidableEq, Repr, Inhabited

/-- The blocks among which the work of an event runs. -/
structure Work where
  svt : Svt
  bcp : Bcp
  wsc : List WallString
  nre : Nre
  cuc : Cuc
  hlu : Hlu
  deriving DecidableEq, Repr, Inhabited

/-- The state of the part and the queue of the commands that wait, first in first out. -/
structure State where
  base : Base
  work : Work
  scd : List ClockLine
  pending : List Instr
  deriving DecidableEq, Repr, Inhabited

/-- No command stops the part: the manual gives every command its effect. There is no fault. -/
inductive Fault
  deriving DecidableEq, Repr

/-- Why a command has no meaning. -/
inductive Refusal
  /-- Raised by an arm of `exec` whose command is not modelled yet: safe. No arm raises it. -/
  | notModelled (mnemonic : String)
  deriving DecidableEq, Repr

/-- R1: the timebase after power-on. -/
def Timebase.reset : Timebase where
  state := .unset
  t := 0
  secPos := 0
  secLen := 1000
  tHigh := 0
  slew := 0
  rejected := []
  lastPulse := none
  superviseFrom := none
  c0 := 150
  period := .minute

/-- R167: a field line after power-on. Its raw level is an input; LOW here is a DESIGN CHOICE (log 11). -/
def FieldLine.reset : FieldLine where
  role := .unused
  active := .high
  filter := none
  reports := false
  lockout := 10
  raw := .low
  filtered := .low
  disagree := 0
  lockoutEnd := none
  mark := false

/-- R167: the field inputs after power-on. -/
def Fiu.reset : Fiu where
  lines := List.replicate 16 FieldLine.reset
  forced := false
  keys := false
  override := false

/-- R18, R19: the service table after power-on. -/
def Svt.reset : Svt where
  services := []
  counter := 0
  overdue := 30
  retain := 10
  abandon := 360
  window := 300
  departing := 60

/-- R65, R77: a module address after power-on. -/
def Cell.reset : Cell where
  desired := .blank
  outstanding := []
  onWall := none
  released := false
  heldBack := false

/-- R40, R63, R65: the Board Composer after power-on. -/
def Bcp.reset : Bcp where
  boards := List.replicate 16 none
  cells := List.replicate 4 (List.replicate Config.maxModule Cell.reset)
  flashTime := 30
  startText := 0
  degradedText := 1
  overrideText := 2
  tolerance := 1
  recompose := false

/-- R92, R102: a wall string after power-on. -/
def WallString.reset : WallString where
  enabled := false
  rate := .r125
  opRate := .r125
  activity := .idle
  inFlight := none
  queue := []
  seq := 0
  drain := false
  health := List.replicate Config.maxModule .unknown
  sent := 0
  repliesOk := 0
  repliesFault := 0
  timeouts := 0
  stray := 0
  coalesced := 0
  refused := 0
  peak := 0

/-- R107, R124: the Notice Rule Engine after power-on. -/
def Nre.reset : Nre where
  rules := List.replicate Config.ruleCount none
  slots := List.replicate Config.slotCount none
  ruleTime := 0

/-- R132: the cue link's configuration after power-on. -/
def CueConfig.reset : CueConfig where
  enabled := false
  rate := .r200
  width := .wide
  numberBase := 0
  hourBase := 0
  minuteBase := 0
  suffixA := 0
  suffixB := 0
  truncation := 0
  zones := List.replicate 40 []
  overrideTemplate := none
  resumeDelay := 3

/-- R133: the Cue Controller after power-on. -/
def Cuc.reset : Cuc where
  templates := List.replicate Config.templateCount none
  cfg := CueConfig.reset
  queue := []
  counter := 0
  link := .disabled
  frame := none
  disablePending := false
  opRate := .r200
  opWidth := .wide
  busy := false
  paOverride := false
  resume := 0

/-- R153: a clock line after power-on. -/
def ClockLine.reset : ClockLine where
  state := .unconfigured
  kind := .minute
  indicated := 0
  polarity := .positive
  width := 300
  gap := 700
  hold := 60
  sense := none
  miss := 0
  drive := .idle
  pending := false
  seen := false
  impulseSense := none
  decide := false
  waiting := none

/-- R183: all the classes of reports, in the order of the rule. -/
def allClasses : List ReportClass :=
  [.dispatch, .serviceEvicted, .watch, .rule, .cue, .moduleState, .clockLine, .time, .override, .feed, .inputEdge]

/-- R177: the Host Link Unit after power-on. -/
def Hlu.reset : Hlu where
  rx := .hunt
  inbound := []
  busy := []
  reports := []
  mask := allClasses
  number := 0
  lost := false
  feedTimeout := 60
  feedCount := 0
  degraded := false
  badChecks := 0
  badLengths := 0
  frameTimeouts := 0
  busyReplies := 0
  overruns := 0
  tx := none
  arrivals := 0

/-- The machine right after power-on: every field at the value the chapters state. -/
def State.reset : State where
  base := { elapsed := 0, tbs := Timebase.reset, txs := List.replicate Config.textEntries ⟨[], none⟩, fiu := Fiu.reset }
  work := { svt := Svt.reset, bcp := Bcp.reset, wsc := List.replicate 4 WallString.reset, nre := Nre.reset,
            cuc := Cuc.reset, hlu := Hlu.reset }
  scd := List.replicate 4 ClockLine.reset
  pending := []

end Sys2Proof.Machine
end

