-- ==== Sys2Proof/Machine/Ops.lean ====
section
/-!
DEFINITION. The operations every block shares: ordered lists, access to records, the raising of a report (R182).
-/

namespace Sys2Proof.Machine

/-! ### Ordered lists -/

/-- `n` put into an ascending list without repeats. -/
def insertNat (n : Nat) : List Nat → List Nat
  | [] => [n]
  | m :: ms => if n < m then n :: m :: ms else if n = m then m :: ms else m :: insertNat n ms

/-- `a` put before the first element it precedes. -/
def insertBy {α : Type} (before : α → α → Bool) (a : α) : List α → List α
  | [] => [a]
  | x :: xs => if before a x then a :: x :: xs else x :: insertBy before a xs

/-- The list in the order of `before`. -/
def sortBy {α : Type} (before : α → α → Bool) : List α → List α
  | [] => []
  | x :: xs => insertBy before x (sortBy before xs)

/-- Whether no member occurs twice. -/
def distinct : List Nat → Bool
  | [] => true
  | x :: xs => !xs.contains x && distinct xs

/-- Whether a list is a non-empty set of numbers lo..hi. -/
def isSetIn (lo hi : Nat) (xs : List Nat) : Bool := !xs.isEmpty && xs.all fun x => lo ≤ x && x ≤ hi

/-- `v` brought to the nearer end of lo..hi (spec/00, "Numbers and ranges"). -/
def clamp (lo hi v : Nat) : Nat := max lo (min hi v)

/-- The first element that fails a list of named checks. -/
def firstFailing {α : Type} : List (α × Bool) → Option α
  | [] => none
  | (f, bad) :: rest => if bad then some f else firstFailing rest

/-! ### The check (R178) -/

/-- R178: one bit of the CRC with the polynomial x^16 + x^12 + x^5 + 1. -/
def crcShift (c : BitVec 16) : BitVec 16 := if c.msb then (c <<< 1) ^^^ 0x1021 else c <<< 1

/-- R178: one byte of the CRC, most significant bit first. -/
def crcByte (c : BitVec 16) (x : Byte) : BitVec 16 :=
  crcShift (crcShift (crcShift (crcShift (crcShift (crcShift (crcShift (crcShift (c ^^^ (x ++ (0 : BitVec 8))))))))))

/-- R178: the CRC-16 of bytes, from the starting value 0xFFFF. -/
def crc16 (xs : List Byte) : BitVec 16 := xs.foldl crcByte 0xFFFF

/-- Two bytes as a number, the most significant first (R177). -/
def word (x y : Byte) : Nat := 256 * x.toNat + y.toNat

/-! ### Fields of requests -/

/-- The value a named field takes, with its default when left out. -/
def argOr {α : Type} (d : α) : Arg α → α
  | .is a => a
  | _ => d

/-- Whether a field names no value. -/
def argUnknown {α : Type} : Arg α → Bool
  | .unknown => true
  | _ => false

/-- Whether a required field names no value or is missing. -/
def argMissing {α : Type} : Arg α → Bool
  | .is _ => false
  | _ => true

/-- Whether a field, when carried, lies outside lo..hi. -/
def outside (lo hi : Nat) : Option Nat → Bool
  | some v => !(lo ≤ v && v ≤ hi)
  | none => false

/-- Whether a required field is missing or lies outside lo..hi. -/
def outsideRequired (lo hi : Nat) : Option Nat → Bool
  | some v => !(lo ≤ v && v ≤ hi)
  | none => true

/-! ### The clock (R1) -/

/-- R13: the millisecond fraction. -/
def Timebase.fraction (tb : Timebase) : Nat := 1000 * tb.secPos / tb.secLen

/-- spec/00, "qualified": in any state other than UNSET. -/
def Timebase.qualified (tb : Timebase) : Bool := tb.state != .unset

/-- R1: the clock milliseconds. -/
def Timebase.clockMillis (tb : Timebase) : Int :=
  ((tb.t + 60 * tb.c0) * 1000 + tb.fraction) % 86400000

/-- R1: the clock seconds. -/
def Timebase.clockSeconds (tb : Timebase) : Nat := (tb.clockMillis / 1000).toNat

/-- R2: the sync period in ms. -/
def periodMillis : SyncPeriod → Nat
  | .second => 1000
  | .minute => 60000

/-! ### Records -/

/-- The record with a key. -/
def Svt.find (v : Svt) (key : Key) : Option Service := v.services.find? fun x => x.key == key

/-- The table with the record of a key changed. -/
def Svt.update (key : Key) (f : Service → Service) (v : Svt) : Svt :=
  { v with services := v.services.map fun x => if x.key == key then f x else x }

/-- The record with a key, changed. -/
def Work.updateService (key : Key) (f : Service → Service) (w : Work) : Work :=
  { w with svt := w.svt.update key f }

/-- The text entry of an index; an index out of the store reads as empty (R53). -/
def textEntry (txs : List TextEntry) (i : Nat) : TextEntry := txs.getD i ⟨[], none⟩

/-- The rule of a place, if it holds one. -/
def Nre.rule (n : Nre) (i : Nat) : Option Rule := n.rules.getD i none

/-- The template of a place, if it holds one. -/
def Cuc.template (c : Cuc) (i : Nat) : Option Template := c.templates.getD i none

/-- The string of a number; there are four. -/
def Work.string (w : Work) (s : Nat) : WallString := w.wsc.getD s WallString.reset

/-- One string changed. -/
def Work.setString (s : Nat) (f : WallString → WallString) (w : Work) : Work := { w with wsc := w.wsc.modify s f }

/-- The board of a number, if it is configured. -/
def Work.board (w : Work) (n : Nat) : Option Board := w.bcp.boards.getD n none

/-- One board changed. -/
def Work.setBoard (n : Nat) (f : Board → Board) (w : Work) : Work :=
  { w with bcp := { w.bcp with boards := w.bcp.boards.modify n (Option.map f) } }

/-- R77: the cell of a module address 1..63 of a string. -/
def Work.cell (w : Work) (s a : Nat) : Cell := (w.bcp.cells.getD s []).getD (a - 1) Cell.reset

/-- One cell changed. -/
def Work.setCell (s a : Nat) (f : Cell → Cell) (w : Work) : Work :=
  { w with bcp := { w.bcp with cells := w.bcp.cells.modify s fun cs => cs.modify (a - 1) f } }

/-! ### Reports (R182, R183) -/

/-- R183: the class of a report. -/
def ReportBody.cls : ReportBody → ReportClass
  | .timeSteppedInitial | .timeStepped .. | .syncRejected .. | .syncLost .. | .syncRegained .. | .changeover .. => .time
  | .dispatchCaptured .. | .dispatchUnmatched .. | .dispatchIgnored .. => .dispatch
  | .serviceEvicted .. => .serviceEvicted
  | .moduleState .. => .moduleState
  | .ruleHolds .. => .rule
  | .watchFull .. | .watchExpired .. | .watchCount .. => .watch
  | .cueDropped .. | .cueDone .. | .cueStuck .. => .cue
  | .clockLineState .. | .clockLineFault .. => .clockLine
  | .inputEdge .. => .inputEdge
  | .overrideEntered .. | .overrideExited .. => .override
  | .feedLost .. | .feedRestored => .feed

/-- R182: a report raised by a block. A masked report leaves no trace; a report that finds the queue full is lost, but
its number is used. -/
def Hlu.raise (r : ReportBody) (h : Hlu) : Hlu :=
  if h.mask.contains r.cls then
    if h.reports.length < Config.maxReports then
      { h with number := h.number + 1, reports := h.reports ++ [⟨h.number + 1, r.cls, r⟩] }
    else
      { h with number := h.number + 1, lost := true }
  else h

/-- R182, among the blocks. -/
def Work.raise (r : ReportBody) (w : Work) : Work := { w with hlu := w.hlu.raise r }

/-- Several reports, in order. -/
def Work.raiseAll (rs : List ReportBody) (w : Work) : Work := rs.foldl (fun w r => w.raise r) w

/-- The state with its blocks changed. -/
def State.mapWork (f : Work → Work) (s : State) : State := { s with work := f s.work }

/-- The state with its timebase changed. -/
def State.mapTbs (f : Timebase → Timebase) (s : State) : State := { s with base := { s.base with tbs := f s.base.tbs } }

/-! ### Replies (R180) -/

/-- OK with nothing more. -/
def Reply.ok : Reply := ⟨.ok, [], .nothing⟩

/-- OK with content. -/
def Reply.okWith (b : ReplyBody) : Reply := ⟨.ok, [], b⟩

/-- BAD_FIELD naming a field. -/
def Reply.badField (f : FieldId) : Reply := ⟨.badField, [], .field f⟩

/-- NOT_FOUND naming a field. -/
def Reply.notFound (f : FieldId) : Reply := ⟨.notFound, [], .field f⟩

/-- STATE naming a field or reason. -/
def Reply.state (f : FieldId) : Reply := ⟨.state, [], .field f⟩

/-- IN_USE naming the holder. -/
def Reply.inUse (n : Nat) : Reply := ⟨.inUse, [], .holder n⟩

/-- OK, or CLAMPED when some field was clamped. -/
def Reply.clampedOr (cs : List (FieldId × Nat)) (b : ReplyBody) : Reply :=
  if cs.isEmpty then ⟨.ok, [], b⟩ else ⟨.clamped, cs, b⟩

end Sys2Proof.Machine
end

