-- ==== Sys2Proof/Machine/Clock.lean ====
section
/-!
DEFINITION. The Slave Clock Driver (chapter 9): one line at a time, each operation with the reports it raises.
-/

namespace Sys2Proof.Machine

/-! ### Positions (R153, R154, R157) -/

/-- R153: N, the positions of a dial. -/
def dialSize : ClockKind → Nat
  | .minute => 720
  | .halfMinute => 1440

/-- R157: the seconds between two boundaries of a kind. -/
def boundarySeconds : ClockKind → Nat
  | .minute => 60
  | .halfMinute => 30

/-- R158: h, the hold window in dial steps. -/
def holdSteps (k : ClockKind) (hold : Nat) : Nat :=
  match k with
  | .minute => hold
  | .halfMinute => 2 * hold

/-- R157: the target position at a clock second. -/
def targetAt (k : ClockKind) (clock : Nat) : Nat := clock / boundarySeconds k % dialSize k

/-- R157: whether a second event is a boundary of a kind. -/
def isBoundary (k : ClockKind) (clock : Nat) : Bool := clock % boundarySeconds k == 0

/-- R153: a position as a dial reading (hours 12, 1..11, minutes, seconds). -/
def dialOf (k : ClockKind) (p : Nat) : Nat × Nat × Nat :=
  let m := match k with | .minute => p | .halfMinute => p / 2
  (if m / 60 = 0 then 12 else m / 60, m % 60, match k with | .minute => 0 | .halfMinute => 30 * (p % 2))

/-- R154: whether a dial reading fits a kind. -/
def readingFits (k : ClockKind) (h m s : Nat) : Bool :=
  h ≤ 23 && m ≤ 59 && (s == 0 || (k == .halfMinute && s == 30))

/-- R154: the position of a dial reading. -/
def positionOf (k : ClockKind) (h m s : Nat) : Nat :=
  match k with
  | .minute => 60 * (h % 12) + m
  | .halfMinute => 2 * (60 * (h % 12) + m) + (if s = 30 then 1 else 0)

/-- R157: d, the steps by which a line is behind a target. -/
def ClockLine.distance (target : Nat) (l : ClockLine) : Nat :=
  (target + dialSize l.kind - l.indicated) % dialSize l.kind

/-- R157: d against the target at a clock second. -/
def ClockLine.behind (clock : Nat) (l : ClockLine) : Nat := l.distance (targetAt l.kind clock)

/-- R157, R165: the target a line has: none while the timebase is UNSET, and none when UNCONFIGURED or WAITING. -/
def ClockLine.target (tb : Timebase) (l : ClockLine) : Option Nat :=
  if tb.qualified && l.state != .unconfigured && l.state != .waiting then some (targetAt l.kind tb.clockSeconds) else none

/-- R153: the output of a line: OFF (`none`), POSITIVE or NEGATIVE. -/
def ClockLine.output (l : ClockLine) : Option Polarity :=
  match l.drive with
  | .driving _ => some l.polarity
  | _ => none

/-- R159: the opposite polarity. -/
def flip : Polarity → Polarity
  | .positive => .negative
  | .negative => .positive

/-- Whether a line is driving an impulse. -/
def ClockLine.isDriving (l : ClockLine) : Bool :=
  match l.drive with
  | .driving _ => true
  | _ => false

/-! ### Decision and impulses (R158, R159, R166) -/

/-- R166: the report of a change of state from `old`, none when the state is as it was. -/
def stateReport (n : Nat) (tb : Timebase) (old : ClockState) (cause : ClockCause) (l : ClockLine) : List ReportBody :=
  if old = l.state then []
  else [.clockLineState n old l.state cause l.indicated (l.target tb) ((l.target tb).map fun g => l.distance g)]

/-- R159: an impulse started, when the line is IDLE, an impulse is pending and the state drives. -/
def ClockLine.start (elapsed : Nat) (l : ClockLine) : ClockLine :=
  if l.drive = .idle ∧ l.pending = true ∧ (l.state = .running ∨ l.state = .catchup) then
    { l with pending := false, drive := .driving (elapsed + l.width), seen := false, impulseSense := l.sense }
  else l

/-- R158: the state a distance calls for. -/
def decisionState (k : ClockKind) (hold d : Nat) : ClockState :=
  if d = 0 then .running else if d + holdSteps k hold < dialSize k then .catchup else .holding

/-- R158: the decision, with impulse pending; `fresh` is a decision at a configuration (log 8). -/
def ClockLine.decided (clock : Nat) (fresh : Bool) (l : ClockLine) : ClockLine :=
  let st := decisionState l.kind l.hold (l.behind clock)
  { l with state := st, pending := st = .catchup && (l.pending || fresh || l.state ≠ .catchup) }

/-- R158, R166: the decision with its report. -/
def ClockLine.decideFor (n : Nat) (tb : Timebase) (cause : ClockCause) (l : ClockLine) : ClockLine × List ReportBody :=
  let l' := l.decided tb.clockSeconds (cause = .configure)
  (l', stateReport n tb l.state cause l')

/-- R155: the fields of a section stored, with the miss count 0 and nothing pending. -/
def ClockLine.store (x : ClockSection) (l : ClockLine) : ClockLine :=
  { l with
    kind := x.kind, width := x.width, gap := x.gap, hold := x.hold
    indicated := x.position.getD l.indicated
    polarity := x.polarity.getD l.polarity
    miss := 0, pending := false, decide := false, waiting := none }

/-- R155 step 5: the state after a section. -/
def ClockLine.configured (n : Nat) (tb : Timebase) (x : ClockSection) (l : ClockLine) : ClockLine × List ReportBody :=
  let l1 := l.store x
  if x.active = false then
    let l2 := { l1 with state := .unconfigured }
    (l2, stateReport n tb l.state .configure l2)
  else if tb.qualified then l1.decideFor n tb .configure
  else
    let l2 := { l1 with state := .waiting }
    (l2, stateReport n tb l.state .configure l2)

/-- R155: a section applied to a line that is not driving; an impulse it calls for starts if the line is IDLE. -/
def ClockLine.apply (n elapsed : Nat) (tb : Timebase) (x : ClockSection) (l : ClockLine) : ClockLine × List ReportBody :=
  let r := l.configured n tb x
  (r.1.start elapsed, r.2)

/-- R160: whether the impulse being driven counts as seen. -/
def ClockLine.impulseSeen (l : ClockLine) : Bool := l.impulseSense.isNone || l.seen

/-- R160: the impulse counted: position, miss count, polarity, and the gap. -/
def ClockLine.count (elapsed : Nat) (l : ClockLine) : ClockLine :=
  { l with
    indicated := if l.impulseSeen then (l.indicated + 1) % dialSize l.kind else l.indicated
    miss := if l.impulseSeen then 0 else l.miss + 1
    polarity := flip l.polarity
    drive := .gap (elapsed + l.gap)
    impulseSense := none }

/-- R160: the state after the judgement; `l` is the line before it. -/
def ClockLine.judge (n elapsed : Nat) (tb : Timebase) (l : ClockLine) : ClockLine × List ReportBody :=
  let l1 := l.count elapsed
  if l.state = .running ∨ l.state = .catchup then
    if l1.miss = 3 then
      ({ l1 with state := .faulted, pending := false },
        [.clockLineFault n l1.indicated (l1.target tb) l.polarity l.impulseSense])
    else if l1.behind tb.clockSeconds = 0 then
      let l2 := { l1 with state := .running }
      (l2, stateReport n tb l.state .impulse l2)
    else if l.state = .catchup then ({ l1 with pending := true }, [])
    else l1.decideFor n tb .impulse
  else (l1, [])

/-- R164: whether a step event decides a line. -/
def ClockLine.decidable (l : ClockLine) : Bool := l.state == .running || l.state == .catchup || l.state == .holding

/-- R164: the decision a step event left to the end of the impulse; its report carries the cause STEP (log 45). -/
def ClockLine.lateDecision (n : Nat) (tb : Timebase) (l : ClockLine) : ClockLine × List ReportBody :=
  if l.decide then
    if l.decidable then ({ l with decide := false } : ClockLine).decideFor n tb .step
    else ({ l with decide := false }, [])
  else (l, [])

/-- R155: the section that waited for the impulse to end. -/
def ClockLine.lateSection (n elapsed : Nat) (tb : Timebase) (l : ClockLine) : ClockLine × List ReportBody :=
  match l.waiting with
  | some x => l.apply n elapsed tb x
  | none => (l, [])

/-- R160, R164, R155: the end of an impulse's width: the judgement, then a step's decision, then a waiting section, each with
its own report; the gap has the length G of the impulse it follows (log 46). -/
def ClockLine.impulseEnds (n elapsed : Nat) (tb : Timebase) (l : ClockLine) : ClockLine × List ReportBody :=
  if l.isDriving then
    let a := l.judge n elapsed tb
    let c := a.1.lateDecision n tb
    let e := c.1.lateSection n elapsed tb
    (e.1, a.2 ++ c.2 ++ e.2)
  else (l, [])

/-- R159: the end of a gap. -/
def ClockLine.gapEnds (elapsed : Nat) (l : ClockLine) : ClockLine :=
  match l.drive with
  | .gap _ => ({ l with drive := .idle } : ClockLine).start elapsed
  | _ => l

/-! ### Time events (R157, R161 to R165) -/

/-- R161 to R163: a second event at a line; only a boundary of its kind does anything. -/
def ClockLine.second (elapsed : Nat) (tb : Timebase) (n : Nat) (l : ClockLine) : ClockLine × List ReportBody :=
  if isBoundary l.kind tb.clockSeconds then
    match l.state with
    | .running => (({ l with pending := true } : ClockLine).start elapsed, [])
    | .holding =>
      if l.behind tb.clockSeconds = 0 then
        let l' := { l with state := .running }
        (l', stateReport n tb .holding .boundary l')
      else (l, [])
    | _ => (l, [])
  else (l, [])

/-- R164: a step event at a line; its reports carry the cause STEP, whatever called for the step (log 45). -/
def ClockLine.step (elapsed : Nat) (tb : Timebase) (n : Nat) (l : ClockLine) : ClockLine × List ReportBody :=
  if l.decidable then
    if l.isDriving then ({ l with decide := true }, [])
    else
      let r := l.decideFor n tb .step
      (r.1.start elapsed, r.2)
  else (l, [])

/-- R165: the initial step event at a line; its reports carry the cause TIME SET (log 45). -/
def ClockLine.initialStep (elapsed : Nat) (tb : Timebase) (n : Nat) (l : ClockLine) : ClockLine × List ReportBody :=
  if l.state = .waiting then
    let r := l.decideFor n tb .timeSet
    (r.1.start elapsed, r.2)
  else (l, [])

/-! ### Sense (R156) -/

/-- R156: an activating edge of the sense line. -/
def ClockLine.sensed (l : ClockLine) : ClockLine := if l.isDriving then { l with seen := true } else l

/-- R156: a new sense line; the impulse being driven is then judged as having none. -/
def ClockLine.setSense (k : Option Nat) (l : ClockLine) : ClockLine :=
  if l.sense = k then l
  else { l with sense := k, impulseSense := none }

/-! ### Reading (R166) -/

/-- R166: a line's part of STATUS, and the record a configuration reply carries, which is taken to have the same items
(log 47). -/
def ClockLine.view (tb : Timebase) (l : ClockLine) : ClockView where
  state := l.state
  kind := l.kind
  indicated := l.indicated
  indicatedDial := dialOf l.kind l.indicated
  target := l.target tb
  targetDial := (l.target tb).map (dialOf l.kind)
  d := (l.target tb).map fun g => l.distance g
  polarity := l.polarity
  width := l.width
  gap := l.gap
  hold := l.hold
  sense := l.sense
  miss := l.miss
  drive := l.drive
  pending := l.pending

/-! ### The four lines -/

/-- Every line changed by an event, in ascending line number, with all the reports in that order (R166). -/
def mapLinesFrom (f : Nat → ClockLine → ClockLine × List ReportBody) : Nat → List ClockLine → List ClockLine × List ReportBody
  | _, [] => ([], [])
  | n, l :: ls =>
    let a := f n l
    let r := mapLinesFrom f (n + 1) ls
    (a.1 :: r.1, a.2 ++ r.2)

/-- An event taken by every clock line. -/
def State.clockEvent (f : Nat → ClockLine → ClockLine × List ReportBody) (s : State) : State :=
  let r := mapLinesFrom f 0 s.scd
  { s with scd := r.1, work := s.work.raiseAll r.2 }

/-- The clock line of a number. -/
def State.clock (s : State) (n : Nat) : ClockLine := s.scd.getD n ClockLine.reset

/-- One clock line changed by an event, with its reports. -/
def State.oneClock (n : Nat) (f : ClockLine → ClockLine × List ReportBody) (s : State) : State :=
  { s with scd := s.scd.set n (f (s.clock n)).1, work := s.work.raiseAll (f (s.clock n)).2 }

end Sys2Proof.Machine
end

