-- ==== Sys2Proof/Machine/Arith.lean ====
section
/-!
DEFINITION. Departure arithmetic (chapter 3): the conversions of times and the figures the public reads. None is stored.
-/

namespace Sys2Proof.Machine

/-- R41 steps 2 and 3, R6 step 1: a clock time in seconds, placed in the service day that begins at C0. -/
def dayBase (c0 : Nat) (clockSeconds : Nat) : Int :=
  let base : Int := (clockSeconds : Int) - 60 * c0
  if base < 0 then base + Config.day else base

/-- R41: a message time in service seconds, or none where it is refused. -/
def convertTime (c0 : Nat) (m : MsgTime) : Option Int :=
  if m.h ≤ 23 && m.m ≤ 59 && m.s ≤ 59 && -1 ≤ m.day && m.day ≤ 1 then
    let v := dayBase c0 (3600 * m.h + 60 * m.m + m.s) + Config.day * m.day
    if Config.minTime ≤ v && v ≤ Config.maxTime then some v else none
  else none

/-- R42: the displayed clock time of a value in service seconds. -/
def displayed (c0 : Nat) (x : Int) : HourMin :=
  let v := (x + 60 * c0) % Config.day
  { hour := (v / 3600).toNat, minute := (v % 3600 / 60).toNat }

/-- R38: a stored time read back. -/
def timeView (c0 : Nat) (x : Int) : TimeView :=
  let d := x / Config.day
  { seconds := x, day := d, clock := ((x - Config.day * d) + 60 * c0) % Config.day }

/-- R43: the displayed scheduled minute. -/
def schedMinute (s : Int) : Int := s / 60

/-- R44: the displayed expected minute. -/
def expMinute (e : Int) : Int := (e + 30) / 60

/-- R43: the scheduled text. -/
def schedText (c0 : Nat) (x : Service) : HourMin := displayed c0 (60 * schedMinute x.scheduled)

/-- R44: the expected text, absent when E is absent. -/
def expText (c0 : Nat) (x : Service) : Option HourMin := x.expected.map fun e => displayed c0 (60 * expMinute e)

/-- R45: the delay minutes. -/
def delayMinutes (s : Int) (e : Option Int) : Nat :=
  match e with
  | none => 0
  | some e => if e < s then 0 else (max 0 (expMinute e - schedMinute s)).toNat

/-- R45 of a record. -/
def Service.delay (x : Service) : Nat := delayMinutes x.scheduled x.expected

/-- R46: the ordering key. -/
def orderingKey (s : Int) (e : Option Int) : Int :=
  match e with
  | none => s
  | some e => max s e

/-- R46 of a record. -/
def Service.k (x : Service) : Int := orderingKey x.scheduled x.expected

/-- R47: the countdown from the time to departure. -/
def countdown (delta : Int) : Nat := if delta > 0 then ((delta + 59) / 60).toNat else 0

/-- R49: the remark; the first line of the rule's table that holds. -/
def remark (c0 tolerance : Nat) (t : Int) (x : Service) : Remark :=
  if x.status = .cancelled then .cancelled
  else if x.status = .departing then .departing
  else if x.stale then .awaiting
  else if x.k - t ≤ 0 ∧ (x.status = .scheduled ∨ x.status = .delayed) then .due
  else if x.status = .delayed ∧ x.expected = none then .delayed
  else if x.delay ≤ tolerance then .onTime
  else if x.delay ≤ 999 then
    match expText c0 x with
    | some e => .expected e x.delay
    | none => .delayed
  else .delayed

/-- R48: the DUE column. -/
def dueText (r : Remark) (delta : Int) : DueText :=
  if r = .cancelled ∨ r = .departing then .blank
  else if delta ≤ 0 then .word
  else if countdown delta ≤ 99 then .figure (countdown delta)
  else .blank

/-- R19, R35: table order, ascending K and then ascending admission sequence (as unsigned numbers). -/
def Service.before (x y : Service) : Bool := x.k < y.k || (x.k == y.k && x.seq.toNat < y.seq.toNat)

/-- R19: the records in table order. -/
def Svt.ordered (v : Svt) : List Service := sortBy Service.before v.services

/-- The keys of the records in table order, for events that take several records (R111). -/
def Svt.keys (v : Svt) : List Key := v.ordered.map Service.key

end Sys2Proof.Machine
end

