-- ==== Sys2Proof/Machine/Wall.lean ====
section
/-!
DEFINITION. Wall strings (chapter 6): the frame queue, one frame on the line, module health. Every operation here is on
one string alone.
-/

namespace Sys2Proof.Machine

/-! ### Frame length (R96) -/

/-- R96: the characters of a platform text, "-" or number and suffix. -/
def platformChars : Option Designator → Nat
  | none => 1
  | some p => (if p.num < 10 then 1 else 2) + (if p.suffix = 0 then 0 else 1)

/-- R96: the characters of an optional text field. -/
def optionChars : Option Text → Nat
  | none => 0
  | some t => 2 + t.length

/-- R96: the characters of the DUE column. -/
def dueChars : DueText → Nat
  | .word => 3
  | .figure c => if c < 10 then 1 else 2
  | .blank => 0

/-- R96: L, the characters of a frame with this content. -/
def frameLength : RowContent → Nat
  | .service r =>
    6 + 3 + (2 + r.key.length) + 7 + (if r.expected.isSome then 7 else 0) + (2 + r.destination.length)
      + optionChars r.via + (2 + platformChars r.platform)
      + (match r.remark with | .expected .. => 11 | _ => 3)
      + (2 + dueChars r.due) + optionChars r.notice + 3 + (if r.coaches.isSome then 3 else 0) + 3
  | .calling k ps => 6 + 3 + (2 + k.length) + 2 + (ps.map fun p => 1 + p.length).sum
  | .banner t => 6 + 3 + (2 + t.length)
  | .blank => 6

/-! ### The characters of a frame (R96, 11.7) -/

/-- A character that is a digit. -/
def digitChar (n : Nat) : Byte := BitVec.ofNat 8 (0x30 + n % 10)

/-- R96: "hh:mm". -/
def hourMinText (x : HourMin) : Text :=
  [digitChar (x.hour / 10), digitChar x.hour, 0x3A, digitChar (x.minute / 10), digitChar x.minute]

/-- A figure of one or two digits. -/
def figureText (n : Nat) : Text := if n < 10 then [digitChar n] else [digitChar (n / 10), digitChar n]

/-- R96: a platform text: "-", or number and suffix. -/
def platformText : Option Designator → Text
  | none => [0x2D]
  | some p => figureText p.num ++ (if p.suffix = 0 then [] else [BitVec.ofNat 8 (0x40 + p.suffix)])

/-- R96: the DUE column: "Due", a figure, or nothing. -/
def dueColumn : DueText → Text
  | .word => [0x44, 0x75, 0x65]
  | .figure c => figureText c
  | .blank => []

/-- R49: the kind of a remark. -/
def Remark.kind : Remark → Config.RemarkKind
  | .cancelled => .cancelled
  | .departing => .departing
  | .awaiting => .awaiting
  | .due => .due
  | .delayed => .delayed
  | .onTime => .onTime
  | .expected .. => .expected

/-- R96: the value of the field "remark": its kind, and for EXPECTED hh:mm and the delay figure as three digits. -/
def remarkValue (r : Remark) : List Byte :=
  Config.remarkCode r.kind ::
    match r with
    | .expected x d => hourMinText x ++ [digitChar (d / 100), digitChar (d / 10), digitChar d]
    | _ => []

/-- R96: a field of a row frame: its tag, its length and its value. -/
def wallField (f : Config.WallField) (v : List Byte) : List Byte := Config.wallTag f :: BitVec.ofNat 8 v.length :: v

/-- R96: a field that may be absent. -/
def wallOption (f : Config.WallField) (v : Option (List Byte)) : List Byte := (v.map (wallField f)).getD []

/-- R96: the fields of a frame, each field the content holds in the order of the rule's table. The count of the calling
points stands where another field has its length. -/
def contentFields : RowContent → List Byte
  | .service r =>
    wallField .rowKind [Config.rowKindCode .service] ++ wallField .key r.key
      ++ wallField .scheduled (hourMinText r.scheduled) ++ wallOption .expected (r.expected.map hourMinText)
      ++ wallField .destination r.destination ++ wallOption .via r.via ++ wallField .platform (platformText r.platform)
      ++ wallField .remark (remarkValue r.remark) ++ wallField .due (dueColumn r.due) ++ wallOption .notice r.notice
      ++ wallField .flash [Config.flashCode r.flash] ++ wallOption .coaches (r.coaches.map fun n => [BitVec.ofNat 8 n])
      ++ wallField .columns [Config.columnsCode r.showDue r.showExpected r.showCoaches]
  | .calling k ps =>
    wallField .rowKind [Config.rowKindCode .calling] ++ wallField .key k
      ++ Config.wallTag .calling :: BitVec.ofNat 8 ps.length :: ps.flatMap fun p => BitVec.ofNat 8 p.length :: p
  | .banner t => wallField .rowKind [Config.rowKindCode .banner] ++ wallField .text t
  | .blank => []

/-- 11.7: the characters of a frame that its check covers, the address through the last field. -/
def coveredChars (f : WallFrame) (seq : Byte) : List Byte :=
  BitVec.ofNat 8 f.address :: seq :: Config.wallKindCode (decide (f.content ≠ .blank)) :: contentFields f.content

/-- R96, 11.7: the characters of a frame with its sequence value: the start 0xD2, those the check covers, and the CRC-16 of
R178 over them, its first byte the more significant (log 40). Their number is `frameLength` (`frameChars_length`). The
codes of the tags, the kinds and the flags are free constants of Config; digits and letters are ASCII (log 20). -/
def frameChars (f : WallFrame) (seq : Byte) : List Byte :=
  let check := crc16 (coveredChars f seq)
  0xD2 :: (coveredChars f seq ++ [check.extractLsb' 8 8, check.extractLsb' 0 8])

/-- R95: one character in µs. -/
def wallCharMicros : WallRate → Nat
  | .r62 => 160
  | .r125 => 80
  | .r250 => 40

/-! ### The queue and the line (R94, R95) -/

/-- R95: a transmission starts when the string is enabled and not draining, the line IDLE and the queue not empty.
It lasts as long as the characters of the frame (R96) at the operating rate. -/
def WallString.start (elapsed : Nat) (s : WallString) : WallString :=
  if s.enabled && !s.drain && s.activity == .idle then
    match s.queue with
    | [] => s
    | f :: q =>
      { s with
        queue := q
        seq := s.seq + 1
        inFlight := some (f, s.seq + 1)
        activity := .sending (1000 * elapsed + (frameChars f (s.seq + 1)).length * wallCharMicros s.opRate)
        sent := s.sent + 1 }
  else s

/-- R94 case 2: the queued frame for the address replaced in its place. -/
def replaceFrame (a : Nat) (c : RowContent) (q : List WallFrame) : List WallFrame :=
  q.map fun f => if f.address == a then ⟨a, c⟩ else f

/-- R94: the answer to an offer, and the string after it. -/
def WallString.offer (elapsed a : Nat) (c : RowContent) (s : WallString) : WallString × OfferAnswer :=
  if !s.enabled || s.drain then ({ s with refused := s.refused + 1 }, .refused)
  else if s.queue.any (fun f => f.address == a) then
    (({ s with queue := replaceFrame a c s.queue, coalesced := s.coalesced + 1 } : WallString).start elapsed, .replaced)
  else if s.queue.length < Config.maxQueue then
    (({ s with queue := s.queue ++ [⟨a, c⟩], peak := max s.peak (s.queue.length + 1) } : WallString).start elapsed,
      .queued)
  else (({ s with refused := s.refused + 1 } : WallString).start elapsed, .refused)

/-- R95, R96: the characters on the line while a frame goes out. -/
def WallString.onLine (s : WallString) : Option (List Byte) :=
  match s.activity, s.inFlight with
  | .sending _, some (f, q) => some (frameChars f q)
  | _, _ => none

/-- R97: the last character has gone out; the reply timer starts at 20 ms. -/
def WallString.frameSent (elapsed : Nat) (s : WallString) : WallString :=
  match s.activity with
  | .sending _ => { s with activity := .awaiting (elapsed + Config.replyTimeout) }
  | _ => s

/-- R98: whether a reply received is accepted. -/
def WallString.accepts (r : ModReply) (s : WallString) : Bool :=
  match s.activity, s.inFlight with
  | .awaiting _, some (f, q) => r.checkGood && r.address == f.address && r.sequence == q
  | _, _ => false

/-- R98: whether the receiver listens. -/
def WallString.listening (s : WallString) : Bool :=
  match s.activity with
  | .sending _ => false
  | _ => true

/-- R98: a stray reply is counted and does nothing more. -/
def WallString.strayReply (s : WallString) : WallString := { s with stray := s.stray + 1 }

/-- R98: the result of a completion that an accepted reply gives. -/
def frameResult : ModResult → FrameResult
  | .ok => .ok
  | .fault c => .fault c

/-- R101: the health a completion sets. -/
def FrameResult.health : FrameResult → Health
  | .ok => .ok
  | .fault c => .fault c
  | .noReply => .noReply

/-- R101: the health entry of an address. -/
def WallString.healthOf (a : Nat) (s : WallString) : Health := s.health.getD (a - 1) .unknown

/-- R102: the count a completion adds to. -/
def WallString.countResult (r : FrameResult) (s : WallString) : WallString :=
  match r with
  | .ok => { s with repliesOk := s.repliesOk + 1 }
  | .fault _ => { s with repliesFault := s.repliesFault + 1 }
  | .noReply => { s with timeouts := s.timeouts + 1 }

/-- R100 steps 1 and 2 for the frame `f`: the line is IDLE, the health entry and the counts are updated. -/
def WallString.finishFrame (r : FrameResult) (f : WallFrame) (s : WallString) : WallString :=
  ({ s with inFlight := none, activity := .idle, health := s.health.set (f.address - 1) r.health } : WallString).countResult r

/-- R101: the report of step 2 of a completion, when the health entry changes. -/
def healthReport (n : Nat) (f : WallFrame) (seq : Byte) (r : FrameResult) (s : WallString) : List ReportBody :=
  if s.healthOf f.address = r.health then []
  else [.moduleState n f.address (s.healthOf f.address) r.health seq]

/-! ### Enable, disable, RESTART (R103, R104, R106) -/

/-- R103 steps 1 and 2. -/
def WallString.enable (s : WallString) : WallString := { s with enabled := true, opRate := s.rate }

/-- R104 steps 1 and 2. The discarded frames are the queue before. -/
def WallString.disable (s : WallString) : WallString := { s with enabled := false, queue := [] }

/-- R106: the queue is discarded, and a frame in flight sets drain pending. -/
def WallString.restart (s : WallString) : WallString :=
  { s with queue := [], drain := s.drain || s.inFlight.isSome }

/-- R102: the peak is read and becomes the present length. -/
def WallString.readPeak (s : WallString) : WallString := { s with peak := s.queue.length }

/-- R102: a string's part of STATUS. -/
def WallString.view (s : WallString) : StringView where
  enabled := s.enabled
  rate := s.rate
  opRate := s.opRate
  activity := s.activity
  drain := s.drain
  length := s.queue.length
  peak := s.peak
  sent := s.sent
  repliesOk := s.repliesOk
  repliesFault := s.repliesFault
  timeouts := s.timeouts
  stray := s.stray
  coalesced := s.coalesced
  refused := s.refused
  health := s.health

end Sys2Proof.Machine
end

