-- ==== Sys2Proof/Machine/Rows.lean ====
section
/-!
DEFINITION. What the boards should show (5.2 to 5.6) and which boards do not show a service yet (5.8): figures of the
Board Composer that are worked out from the state and change nothing.
-/

namespace Sys2Proof.Machine

/-! ### Boards (R64, R66, R68) -/

/-- R64: a board is ONLINE when it is configured and enabled and its string is enabled. -/
def Work.online (w : Work) (n : Nat) : Bool :=
  match w.board n with
  | some bd => bd.record.enabled && (w.string bd.record.string).enabled
  | none => false

/-- R66: whether a service is eligible for a board. -/
def isEligible (v : Svt) (t : Int) (r : BoardRec) (x : Service) : Bool :=
  (r.classes.isEmpty || r.classes.contains x.cls)
    && (r.platforms.isEmpty || (match x.current with | some p => r.platforms.contains p.num | none => false))
    && (x.status == .departing
      || (x.status != .departed && x.k - t ≤ 60 * r.horizon && t - x.k ≤ 60 * v.overdue))

/-- R68: the presentation of a board. -/
def presentationOf (b : Base) : Presentation :=
  if b.fiu.override then .override else if b.tbs.qualified then .normal else .startUp

/-- R67: the records of a board's eligible list, in table order; empty unless the presentation is NORMAL (R68). -/
def eligibleRecords (b : Base) (w : Work) (r : BoardRec) : List Service :=
  if presentationOf b = .normal then w.svt.ordered.filter (isEligible w.svt b.tbs.t r) else []

/-! ### Banners and notices (R69, R74) -/

/-- R110: the holder count of a rule. -/
def Svt.holders (v : Svt) (h : Nat) : Nat := v.services.countP fun x => x.held.contains h

/-- The best of the rules `hs` (in ascending number) that are loaded and satisfy `p`: the highest priority, and of equal
priorities the lowest number. -/
def bestRule (n : Nre) (p : Nat → Rule → Bool) : List Nat → Option (Nat × Rule)
  | [] => none
  | h :: hs =>
    match n.rule h, bestRule n p hs with
    | some r, best =>
      if r.kind == .head && p h r then
        match best with
        | some (g, q) => if q.priority > r.priority then some (g, q) else some (h, r)
        | none => some (h, r)
      else best
    | none, best => best

/-- R69: the banner the BCP chooses for a board in the NORMAL presentation. -/
def bannerSource (b : Base) (w : Work) (n : Nat) : BannerSource :=
  if presentationOf b ≠ .normal then .none
  else if w.hlu.degraded then .degraded
  else
    match bestRule w.nre (fun h r => (match r.banner with | some (_, bs) => bs.contains n | none => false)
        && w.svt.holders h > 0) (List.range Config.ruleCount) with
    | some (h, _) => .rule h
    | none => .none

/-- The text index of a banner. -/
def bannerText (w : Work) : BannerSource → Option Nat
  | .none => none
  | .degraded => some w.bcp.degradedText
  | .rule h => (w.nre.rule h).bind fun r => r.banner.map Prod.fst

/-- R69: B, 1 when a banner is chosen and the board can show it. -/
def bannerRows (r : BoardRec) (s : BannerSource) : Nat :=
  if s ≠ .none ∧ (r.kind = .list ∨ 3 ≤ r.rows) then 1 else 0

/-- R74: the text index of a service's notice. -/
def noticeIndex (n : Nre) (x : Service) : Option Nat :=
  (bestRule n (fun h r => r.notice.isSome && x.held.contains h) (List.range Config.ruleCount)).bind fun p => p.2.notice

/-! ### Assignment of rows (R70, R72) -/

/-- R70: F_e, the fixed rows in use. -/
def fixedRows (r : BoardRec) (bRows : Nat) : Nat := min r.fixed (r.rows - bRows)

/-- R70: P, the rotating rows. -/
def rotatingRows (r : BoardRec) (bRows : Nat) : Nat := r.rows - fixedRows r bRows - bRows

/-- R70: the page count for n services; 1 for a PLATFORM board (R90). -/
def countPages (r : BoardRec) (bRows n : Nat) : Nat :=
  let f := fixedRows r bRows
  let p := rotatingRows r bRows
  if r.kind = .platform ∨ p = 0 ∨ n ≤ f + p then 1 else (n - f + p - 1) / p

/-- What a row shows. -/
inductive RowSource
  | service (x : Service)
  | calling (x : Service)
  | banner (text : Nat)
  | blank
  deriving DecidableEq, Repr, Inhabited

/-- List position `i`, counted from 1, as a SERVICE row. -/
def positionSource (list : List Service) (i : Nat) : RowSource :=
  match list[i - 1]? with
  | some x => .service x
  | none => .blank

/-- R70: row `r` of a LIST board on page `page`. -/
def listRow (rec : BoardRec) (list : List Service) (banner : Option Nat) (bRows page r : Nat) : RowSource :=
  let f := fixedRows rec bRows
  let p := rotatingRows rec bRows
  if bRows = 1 ∧ r = rec.rows then (match banner with | some t => .banner t | none => .blank)
  else if r ≤ f then positionSource list r
  else positionSource list (f + page * p + (r - f))

/-- R72: row `r` of a PLATFORM board. -/
def platformRow (rec : BoardRec) (list : List Service) (banner : Option Nat) (bRows r : Nat) : RowSource :=
  if bRows = 1 ∧ r = rec.rows then (match banner with | some t => .banner t | none => .blank)
  else if r = 1 then positionSource list 1
  else if r = 2 then (match list.head? with | some x => .calling x | none => .blank)
  else positionSource list (r - 1)

/-- R68, R70, R72: row `r` of a board. -/
def rowSource (b : Base) (w : Work) (rec : BoardRec) (list : List Service) (src : BannerSource) (page r : Nat) : RowSource :=
  match presentationOf b with
  | .override => if r = 1 then .banner w.bcp.overrideText else .blank
  | .startUp => if r = 1 then .banner w.bcp.startText else .blank
  | .normal =>
    match rec.kind with
    | .list => listRow rec list (bannerText w src) (bannerRows rec src) page r
    | .platform => platformRow rec list (bannerText w src) (bannerRows rec src) r

/-! ### Content (R73, R75) -/

/-- R73: the SERVICE row of a service on a board. The via of an entry without characters is kept apart from an absent via
(log 42). -/
def serviceRow (b : Base) (w : Work) (rec : BoardRec) (x : Service) : ServiceRow :=
  let rk := remark b.tbs.c0 w.bcp.tolerance b.tbs.t x
  { key := x.key
    scheduled := schedText b.tbs.c0 x
    expected := expText b.tbs.c0 x
    destination := (textEntry b.txs x.destination).text
    via := x.via.map fun i => (textEntry b.txs i).text
    platform := x.current
    remark := rk
    due := dueText rk (x.k - b.tbs.t)
    notice := (noticeIndex w.nre x).map fun i => (textEntry b.txs i).text
    flash := x.flash > 0
    coaches := x.coaches
    showDue := rec.showDue
    showExpected := rec.showExpected
    showCoaches := rec.showCoaches }

/-- R73, R75: the content of a row. -/
def contentOf (b : Base) (w : Work) (rec : BoardRec) : RowSource → RowContent
  | .service x => .service (serviceRow b w rec x)
  | .calling x => .calling x.key (x.calling.map fun i => (textEntry b.txs i).text)
  | .banner i => .banner (textEntry b.txs i).text
  | .blank => .blank

/-- R57, R59: the text indexes a row reads, with notices and banners by the rule table as it stands (log 18). -/
def indexesOf (w : Work) : RowSource → List Nat
  | .service x => x.destination :: (x.via.toList ++ (noticeIndex w.nre x).toList)
  | .calling x => x.calling
  | .banner i => [i]
  | .blank => []

/-! ### Cells (R77, R78) -/

/-- R77: the queued content, that of the newest outstanding frame. -/
def Cell.queued (c : Cell) : Option RowContent := c.outstanding.getLast?

/-- R77: the reference content; `none` is unknown. -/
def Cell.reference (c : Cell) : Option RowContent :=
  match c.queued with
  | some q => some q
  | none => c.onWall

/-- R77: whether the row is dirty. -/
def Cell.dirty (c : Cell) : Bool := c.reference != some c.desired

/-- R82: the key of the service that occupies a row with this content. -/
def occupant : RowContent → Option Key
  | .service r => some r.key
  | _ => none

/-- R82: whether a row has a service in its on-wall content or in an outstanding frame. -/
def Cell.shows (k : Key) (c : Cell) : Bool :=
  (match c.onWall with | some r => occupant r == some k | none => false)
    || c.outstanding.any fun r => occupant r == some k

/-- R78: whether the difference between desired and reference content is urgent, for a board's eligible list. -/
def Cell.urgent (list : List Key) (c : Cell) : Bool :=
  match c.reference, c.desired with
  | none, _ => true
  | some (.banner _), _ => true
  | some (.service r), d =>
    !list.contains r.key
      || (match d with
          | .service e =>
            e.key == r.key
              && (e.platform != r.platform
                || ((e.remark == .cancelled) != (r.remark == .cancelled))
                || ((e.remark == .departing) != (r.remark == .departing))
                || (e.flash != r.flash))
          | _ => false)
  | some _, _ => false

/-- R77: whether row `r` of a board is a rotating row, by its presentation and banner as last derived. -/
def Board.rotating (bd : Board) (r : Nat) : Bool :=
  let f := fixedRows bd.record (bannerRows bd.record bd.banner)
  let p := rotatingRows bd.record (bannerRows bd.record bd.banner)
  bd.record.kind == .list && bd.presentation == .normal && f < r && r ≤ f + p

/-- R79: whether row `r` of a board is due. With a frame outstanding both parts are judged against that frame (log 44). -/
def Board.due (bd : Board) (r : Nat) (c : Cell) : Bool := c.dirty && (!bd.rotating r || c.released)

/-- R61: the module address of row `r`. -/
def BoardRec.address (rec : BoardRec) (r : Nat) : Nat := rec.first + r - 1

/-- The rows 1..R of a board. -/
def BoardRec.rowList (rec : BoardRec) : List Nat := (List.range rec.rows).map (· + 1)

/-- The cell of row `r` of a board. -/
def Work.rowCell (w : Work) (rec : BoardRec) (r : Nat) : Cell := w.cell rec.string (rec.address r)

/-! ### The confirmation set (R84, R136) -/

/-- R84: whether a row's on-wall content shows the service with its current platform. -/
def showsCurrent (x : Service) : Option RowContent → Bool
  | some (.service r) => r.key == x.key && r.platform == x.current
  | _ => false

/-- R84: whether board `n` is in the confirmation set of `x`, by the row assignment of its last derivation. -/
def Work.unconfirmed (w : Work) (x : Service) (n : Nat) : Bool :=
  w.online n &&
    match w.board n with
    | some bd => bd.record.rowList.any fun r =>
        occupant (w.rowCell bd.record r).desired == some x.key && !showsCurrent x (w.rowCell bd.record r).onWall
    | none => false

/-- R84, R136: the confirmation set of a service, as it stands now; ascending board numbers. -/
def Work.confirmation (w : Work) (x : Service) : List Nat := (List.range 16).filter (w.unconfirmed x)

end Sys2Proof.Machine
end

