-- ==== Sys2Proof/Machine/Cues.lean ====
section
/-!
DEFINITION. Announcement cues (chapter 8): the queue, selection, resolution and the cue link.
-/

namespace Sys2Proof.Machine

/-! ### The queue (R133) -/

/-- R133: queue order, priority descending and then enqueue sequence ascending (as unsigned numbers). -/
def CueEntry.before (x y : CueEntry) : Bool :=
  y.priority < x.priority || (x.priority == y.priority && x.seq.toNat < y.seq.toNat)

/-- R133: an entry waits while it is QUEUED or HELD. -/
def CueEntry.isWaiting (e : CueEntry) : Bool := e.state == .queued || e.state == .held

/-- R133: whether an entry has a cue key. -/
def CueEntry.hasKey (number : Nat) (key : Option Key) (e : CueEntry) : Bool := e.number == number && e.key == key

/-- The entries changed. -/
def Cuc.mapQueue (f : CueEntry → CueEntry) (c : Cuc) : Cuc := { c with queue := c.queue.map f }

/-- The entry of an enqueue sequence changed. -/
def Cuc.updateEntry (seq : BitVec 32) (f : CueEntry → CueEntry) (c : Cuc) : Cuc :=
  c.mapQueue fun e => if e.seq == seq then f e else e

/-- The entry of an enqueue sequence freed. -/
def Cuc.free (seq : BitVec 32) (c : Cuc) : Cuc := { c with queue := c.queue.filter fun e => e.seq != seq }

/-- The Cue Controller changed. -/
def Work.mapCuc (f : Cuc → Cuc) (w : Work) : Work := { w with cuc := f w.cuc }

/-- R133: the entry on the link, if there is one. -/
def Cuc.onLink (c : Cuc) : Option CueEntry := c.queue.find? fun e => !e.isWaiting

/-- R152: the report of an admitted entry dropped for a reason. -/
def dropReport (e : CueEntry) (r : DropReason) : ReportBody := .cueDropped e.number e.key e.source r (some e.seq)

/-- An admitted entry dropped, with its report. -/
def Work.dropEntry (e : CueEntry) (r : DropReason) (w : Work) : Work :=
  (w.mapCuc (Cuc.free e.seq)).raise (dropReport e r)

/-- The waiting entries that satisfy `p`, dropped in queue order with a report each. -/
def Work.dropWaiting (p : CueEntry → Bool) (r : DropReason) (w : Work) : Work :=
  (w.cuc.queue.filter fun e => e.isWaiting && p e).foldl (fun w e => w.dropEntry e r) w

/-! ### Resolution (R138, R141, R142) -/

/-- R138: the record an entry speaks of; none when it names no service or its service is gone. -/
def Work.entryService (w : Work) (e : CueEntry) : Option Service :=
  match e.key with
  | some k => w.svt.services.find? fun x => x.key == k && some x.seq == e.serviceSeq
  | none => none

/-- R141: the phrases of a platform. -/
def platformPhrases (cfg : CueConfig) (p : Designator) : List Nat :=
  (cfg.numberBase + p.num) ::
    (if p.suffix = 1 then [cfg.suffixA] else if p.suffix = 2 then [cfg.suffixB] else [])

/-- R141: the phrases of a displayed time. -/
def timePhrases (cfg : CueConfig) (t : HourMin) : List Nat := [cfg.hourBase + t.hour, cfg.minuteBase + t.minute]

/-- R141: the phrase codes of several text entries; unresolvable when any has none. An entry without characters that holds a
phrase code speaks it (R54), where R58 would read it as having none: the model's choice (log 48). -/
def textPhrases (txs : List TextEntry) : List Nat → Option (List Nat)
  | [] => some []
  | i :: is =>
    match (textEntry txs i).phrase, textPhrases txs is with
    | some p, some ps => some (p :: ps)
    | _, _ => none

/-- R141: the phrases of a slot for a service; none when unresolvable. -/
def slotPhrases (b : Base) (cfg : CueConfig) (x : Service) : CueSlot → Option (List Nat)
  | .platform => x.current.map (platformPhrases cfg)
  | .oldPlatform => x.previous.map (platformPhrases cfg)
  | .dest => textPhrases b.txs [x.destination]
  | .via => match x.via with | some i => textPhrases b.txs [i] | none => none
  | .schedTime => some (timePhrases cfg (schedText b.tbs.c0 x))
  | .expTime => (expText b.tbs.c0 x).map (timePhrases cfg)
  | .delayMin => if x.delay = 0 ∨ 999 < x.delay then none else some [cfg.numberBase + x.delay]
  | .callingPoints => textPhrases b.txs x.calling
  | .coaches => x.coaches.map fun n => [cfg.numberBase + n]

/-- R141: the phrases of an item; every slot is unresolvable without a service. -/
def itemPhrases (b : Base) (cfg : CueConfig) (x : Option Service) : CueItem → Option (List Nat)
  | .phrase c => some [c]
  | .slot s => x.bind fun x => slotPhrases b cfg x s

/-- R141: the phrases of a template's items, in order. -/
def allPhrases (b : Base) (cfg : CueConfig) (x : Option Service) : List CueItem → Option (List Nat)
  | [] => some []
  | i :: is =>
    match itemPhrases b cfg x i, allPhrases b cfg x is with
    | some p, some ps => some (p ++ ps)
    | _, _ => none

/-- R142: more than 48 phrases are cut to 47 and the truncation phrase. -/
def truncatePhrases (cfg : CueConfig) (ps : List Nat) : List Nat :=
  if ps.length > Config.maxPhrases then ps.take (Config.maxPhrases - 1) ++ [cfg.truncation] else ps

/-- R142: the zone set; none when it cannot be found. -/
def zoneSet (cfg : CueConfig) (x : Option Service) : ZoneSource → Option (List Nat)
  | .fixed zs => some zs
  | .platform =>
    match x.bind Service.current with
    | some p => let zs := cfg.zones.getD (p.num - 1) []; if zs.isEmpty then none else some zs
    | none => none

/-- R143: the zone set of a cue frame as one character: zone z stands for 2 to the power z − 1. -/
def zoneByte (zs : List Nat) : Byte := BitVec.ofNat 8 (zs.foldr (fun z n => 2 ^ (z - 1) + n) 0)

/-- R143: the phrases of a NARROW frame, 12 bits each, packed two to three characters; the last odd one takes two (log 41). -/
def narrowBytes : List Nat → List Byte
  | [] => []
  | [p] => [BitVec.ofNat 8 (p / 16), BitVec.ofNat 8 (p % 16 * 16)]
  | p :: q :: ps =>
    BitVec.ofNat 8 (p / 16) :: BitVec.ofNat 8 (p % 16 * 16 + q / 256) :: BitVec.ofNat 8 (q % 256) :: narrowBytes ps

/-- R143: the characters of the phrases. -/
def phraseBytes (width : PhraseWidth) (ps : List Nat) : List Byte :=
  match width with
  | .wide => ps.flatMap fun p => [BitVec.ofNat 8 (p / 256), BitVec.ofNat 8 (p % 256)]
  | .narrow => narrowBytes ps

/-- R143: the characters of a cue frame from the zone set through the phrases. -/
def cueFrameBytes (width : PhraseWidth) (zones : List Nat) (priority : Nat) (phrases : List Nat) : List Byte :=
  zoneByte zones :: BitVec.ofNat 8 priority :: BitVec.ofNat 8 phrases.length :: phraseBytes width phrases

/-- R143: a cue frame with its check, the CRC-16 of R178 over the zone set through the phrases. -/
def cueFrame (width : PhraseWidth) (zones : List Nat) (priority : Nat) (phrases : List Nat) : CueFrame :=
  ⟨zones, priority, phrases, crc16 (cueFrameBytes width zones priority phrases)⟩

/-- R141, R142: the cue frame an entry resolves to; none when it is unresolvable. -/
def resolve (b : Base) (w : Work) (e : CueEntry) : Option CueFrame :=
  let x := w.entryService e
  match allPhrases b w.cuc.cfg x e.template.items, zoneSet w.cuc.cfg x e.template.zones with
  | some ps, some zs =>
    if ps.isEmpty then none
    else some (cueFrame w.cuc.opWidth zs e.priority (truncatePhrases w.cuc.cfg ps))
  | _, _ => none

/-- R143: the characters of a cue frame. -/
def cueFrameChars (width : PhraseWidth) (f : CueFrame) : Nat :=
  let n := f.phrases.length
  6 + match width with
    | .wide => 2 * n
    | .narrow => 3 * (n / 2) + 2 * (n % 2)

/-- R143: one character in µs. -/
def cueCharMicros : CueRate → Nat
  | .r100 => 100
  | .r200 => 50
  | .r400 => 25

/-! ### Selection (R139, R140) -/

/-- R139: whether selection may take an entry now. -/
def Cuc.maySelect (c : Cuc) : Bool := c.link == .idle && !c.disablePending && !c.paOverride && c.resume == 0

/-- R140 step 4: the entry and the link become SENDING. -/
def Work.send (b : Base) (e : CueEntry) (f : CueFrame) (w : Work) : Work :=
  w.mapCuc fun c =>
    { c.updateEntry e.seq (fun e => { e with
        state := .sending, resolved := some ((w.entryService e).bind Service.current) }) with
      frame := some f
      link := .sending (1000 * b.elapsed + cueFrameChars c.opWidth f * cueCharMicros c.opRate) }

/-- R140 step 2: whether the interlock holds an entry back. -/
def Work.interlocked (w : Work) (e : CueEntry) : Bool :=
  e.template.needsShown &&
    match w.entryService e with
    | some x => !(w.confirmation x).isEmpty
    | none => false

/-- R140: one QUEUED entry taken in hand. -/
def Work.takeEntry (b : Base) (e : CueEntry) (w : Work) : Work :=
  if w.hlu.degraded && e.template.requiresFeed then w.dropEntry e .degraded
  else if w.interlocked e then w.mapCuc (Cuc.updateEntry e.seq fun e => { e with state := .held })
  else
    match resolve b w e with
    | none => w.dropEntry e .unresolved
    | some f => w.send b e f

/-- R139: the QUEUED entries in order, until one is on the link. -/
def Work.selectFrom (b : Base) : List CueEntry → Work → Work
  | [], w => w
  | e :: es, w =>
    if w.cuc.maySelect then Work.selectFrom b es (w.takeEntry b e) else w

/-- R139: whether selection considers an entry: QUEUED, and while override is active only those of the override. -/
def selectable (b : Base) (e : CueEntry) : Bool :=
  e.state == .queued && (!b.fiu.override || e.source == .override)

/-- R139: an attempt at selection. -/
def Work.select (b : Base) (w : Work) : Work :=
  if w.cuc.maySelect then Work.selectFrom b (w.cuc.queue.filter (selectable b)) w else w

/-! ### Entering the queue (R134, R136) -/

/-- R134 case 4: the latest start of a request. -/
def latestStart (t : Int) (tm : Template) (x : Option Service) : Int :=
  match x with
  | some x => if tm.deadline then min (t + tm.validity) x.k else t + tm.validity
  | none => t + tm.validity

/-- R134: the refusal report of a request. -/
def refusal (number : Nat) (key : Option Key) (source : CueSource) (r : DropReason) : ReportBody :=
  .cueDropped number key source r none

/-- R134 case 5: the entry admitted, HELD or QUEUED by R136. -/
def Work.enqueueNew (b : Base) (number : Nat) (key : Option Key) (source : CueSource) (tm : Template) (x : Option Service)
    (w : Work) : Work :=
  let held := tm.needsShown && (match x with | some x => !(w.confirmation x).isEmpty | none => false)
  let e : CueEntry :=
    { number, template := tm, key, serviceSeq := x.map Service.seq
      priority := if source = .override then 8 else tm.priority
      source, state := if held then .held else .queued
      seq := w.cuc.counter + 1, latest := latestStart b.tbs.t tm x, resolved := none, unobserved := false }
  w.mapCuc fun c => { c with counter := c.counter + 1, queue := insertBy CueEntry.before e c.queue }

/-- R134 case 3: the request merged into a waiting entry. -/
def mergeEntry (t : Int) (x : Option Service) (e : CueEntry) : CueEntry :=
  { e with
    latest := max e.latest (latestStart t e.template x)
    serviceSeq := match x with | some x => some x.seq | none => e.serviceSeq }

/-- R134 case 6: the waiting entry of the lowest priority, and of those the one with the greatest enqueue sequence: the
last waiting entry in queue order. -/
def Cuc.lastWaiting (c : Cuc) : Option CueEntry := (c.queue.filter CueEntry.isWaiting).getLast?

/-- R134: an enqueue request, and what became of it. Selection is attempted at the end (R139). -/
def Work.enqueue (b : Base) (number : Nat) (key : Option Key) (source : CueSource) (w : Work) : Work × EnqueueOutcome :=
  let x := key.bind w.svt.find
  let refuse := fun (r : DropReason) (o : EnqueueOutcome) => ((w.raise (refusal number key source r)).select b, o)
  if b.fiu.override && source != .override then refuse .override .refusedOverride
  else
    match w.cuc.template number with
    | none => refuse .noTemplate .noTemplate
    | some tm =>
      match w.cuc.queue.find? fun e => e.isWaiting && e.hasKey number key with
      | some e => ((w.mapCuc (Cuc.updateEntry e.seq (mergeEntry b.tbs.t x))).select b, .merged e.seq)
      | none =>
        if latestStart b.tbs.t tm x < b.tbs.t then refuse .expired .late
        else if w.cuc.queue.length < Config.maxCues then
          ((w.enqueueNew b number key source tm x).select b, .admitted (w.cuc.counter + 1))
        else
          match w.cuc.lastWaiting with
          | some e =>
            if e.priority < (if source = .override then 8 else tm.priority) then
              (((w.dropEntry e .displaced).enqueueNew b number key source tm x).select b, .admitted (w.cuc.counter + 1))
            else refuse .full .full
          | none => refuse .full .full

/-! ### Waiting entries and events (R136, R137, R138) -/

/-- R138: the waiting entries withdrawn that satisfy `p` and whose template copy has WITHDRAW_ON_CLEAR. -/
def Work.withdraw (b : Base) (p : CueEntry → Bool) (w : Work) : Work :=
  (w.mapCuc fun c => { c with queue := c.queue.filter fun e => !(e.isWaiting && e.template.withdrawOnClear && p e) }).select b

/-- R136: one confirmation change event: the service's set has become non-empty (`true`) or empty. -/
def Cuc.confirmChange (key : Key) (seq : BitVec 32) (nonEmpty : Bool) (c : Cuc) : Cuc :=
  c.mapQueue fun e =>
    if e.key == some key && e.serviceSeq == some seq then
      if nonEmpty then (if e.state == .queued && e.template.needsShown then { e with state := .held } else e)
      else if e.state == .held then { e with state := .queued } else e
    else e

/-- R136, R139: the confirmation change events of one delivery, and then one attempt at selection. -/
def Work.confirmChanges (b : Base) (evs : List (Key × BitVec 32 × Bool)) (w : Work) : Work :=
  if evs.isEmpty then w
  else (evs.foldl (fun w ev => w.mapCuc (Cuc.confirmChange ev.1 ev.2.1 ev.2.2)) w).select b

/-- R137: the waiting entries whose latest start is below t are dropped. -/
def Work.expireCues (b : Base) (w : Work) : Work := w.dropWaiting (fun e => e.latest < b.tbs.t) .expired

/-- R137: the second event. -/
def Work.cueSecond (b : Base) (w : Work) : Work :=
  ((w.expireCues b).mapCuc fun c => { c with resume := c.resume - 1 }).select b

/-- R137: the step event. -/
def Work.cueStep (b : Base) (w : Work) : Work := (w.expireCues b).select b

/-- R137: the changeover event. It ends without an attempt at selection (log 21). -/
def Work.cueChangeover (w : Work) : Work :=
  w.mapCuc (Cuc.mapQueue fun e => { e with latest := e.latest - Config.day })

/-! ### The link (R144 to R147) -/

/-- The state the link falls to when nothing is on it: BLOCKED while the playback unit is busy, else IDLE. -/
def Cuc.restLink (c : Cuc) : LinkState := if c.busy then .blocked else .idle

/-- R152: CUE_DONE of an entry. -/
def doneReport (e : CueEntry) (o : DoneOutcome) : ReportBody := .cueDone e.number e.key e.source e.seq o e.resolved

/-- The entry on the link freed with a report, and the link put to a state. -/
def Work.endEntry (r : CueEntry → ReportBody) (next : LinkState) (w : Work) : Work :=
  match w.cuc.onLink with
  | some e => ((w.mapCuc (Cuc.free e.seq)).raise (r e)).mapCuc fun c => { c with link := next, frame := none }
  | none => w.mapCuc fun c => { c with link := next, frame := none }

/-- R144: the last character of the cue frame has gone out. -/
def Work.cueSent (b : Base) (w : Work) : Work :=
  match w.cuc.link with
  | .sending _ =>
    if (w.cuc.onLink.map CueEntry.unobserved) = some true then
      ((w.endEntry (fun e => doneReport e .unobserved) (if w.cuc.disablePending then .disabled else w.cuc.restLink)).mapCuc
        fun c => { c with disablePending := false }).select b
    else
      (w.mapCuc fun c =>
        { c.mapQueue (fun e => if e.state == CueState.sending then { e with state := .awaitAccept } else e) with
          link := .awaitAccept (b.elapsed + Config.acceptWindow) }).select b
  | _ => w

/-- R145: the accept window ends without acceptance. -/
def Work.acceptEnd (b : Base) (w : Work) : Work :=
  match w.cuc.link with
  | .awaitAccept _ => (w.endEntry (fun e => dropReport e .notAccepted) w.cuc.restLink).select b
  | _ => w

/-- R146: the maximum play time ends. -/
def Work.playEnd (b : Base) (w : Work) : Work :=
  match w.cuc.link with
  | .playing _ => (w.endEntry (fun e => .cueStuck e.number e.key e.seq) .blocked).select b
  | _ => w

/-- R146: the outcome of a cue that has played. -/
def Work.playOutcome (w : Work) (e : CueEntry) : DoneOutcome :=
  match e.key, w.entryService e with
  | some _, none => .superseded
  | _, some x => if some x.current = e.resolved then .played else .superseded
  | none, none => .played

/-- R145, R146, R147: a change of the PLAY_BUSY level. -/
def Work.busyChange (b : Base) (level : Bool) (w : Work) : Work :=
  if w.cuc.busy = level then w
  else
    let w := w.mapCuc fun c => { c with busy := level }
    (match w.cuc.link, level with
      | .awaitAccept _, true =>
        w.mapCuc fun c =>
          { c.mapQueue (fun e => if e.state == CueState.awaitAccept then { e with state := .playing } else e) with
            link := .playing (b.elapsed + Config.maxPlay) }
      | .playing _, false => w.endEntry (fun e => doneReport e (w.playOutcome e)) .idle
      | .idle, true => w.mapCuc fun c => { c with link := .blocked }
      | .blocked, false => w.mapCuc fun c => { c with link := .idle }
      | _, _ => w).select b

/-- R147: a change of the PA_OVERRIDE level. -/
def Work.paChange (b : Base) (level : Bool) (w : Work) : Work :=
  if w.cuc.paOverride = level then w
  else
    (w.mapCuc fun c => { c with
      paOverride := level, resume := if level then 0 else c.cfg.resumeDelay }).select b

/-- R147: the resume count reaches 0, also while UNSET, where a count above 0 stands still (log 15). -/
def Work.resumeEnd (b : Base) (w : Work) : Work := (w.mapCuc fun c => { c with resume := 0 }).select b

/-! ### Override, enable, disable, RESTART (R148 to R151) -/

/-- R148: the override entry. -/
def Work.cueOverrideEntry (b : Base) (w : Work) : Work :=
  let w := w.dropWaiting (fun _ => true) .override
  match w.cuc.cfg.overrideTemplate with
  | some n => (w.enqueue b n none .override).1
  | none => w.select b

/-- R148: the override exit. -/
def Work.cueOverrideExit (b : Base) (w : Work) : Work :=
  (w.dropWaiting (fun e => e.source == .override) .overrideEnded).select b

/-- R149: the link enabled. -/
def Work.enableLink (b : Base) (w : Work) : Work :=
  (w.mapCuc fun c => { c with opRate := c.cfg.rate, opWidth := c.cfg.width, link := c.restLink }).select b

/-- R150, R151: the entry being sent is marked unobserved. -/
def Cuc.markUnobserved (c : Cuc) : Cuc :=
  c.mapQueue fun e => if e.state == .sending then { e with unobserved := true } else e

/-- R150: the link disabled. -/
def Work.disableLink (w : Work) : Work :=
  match w.cuc.link with
  | .disabled => w
  | .idle | .blocked => w.mapCuc fun c => { c with link := .disabled }
  | .sending _ => w.mapCuc fun c => { c.markUnobserved with disablePending := true }
  | .awaitAccept _ | .playing _ => w.endEntry (fun e => doneReport e .unobserved) .disabled

/-- R151: RESTART. -/
def Work.restartCues (w : Work) : Work :=
  let w := w.mapCuc fun c => { c with queue := c.queue.filter fun e => !e.isWaiting }
  match w.cuc.link with
  | .sending _ => w.mapCuc Cuc.markUnobserved
  | .awaitAccept _ | .playing _ => w.endEntry (fun e => doneReport e .unobserved) w.cuc.restLink
  | _ => w

end Sys2Proof.Machine
end

