-- ==== Sys2Proof/Machine/Board.lean ====
section
/-!
DEFINITION. The Board Composer at work (5.7 to 5.9): derivations, the one-row guard, offers, completions, and boards going
ONLINE and OFFLINE; with the completion of a frame on a string (R100).
-/

namespace Sys2Proof.Machine

/-! ### Offers (R80, R94) -/

/-- R80: a frame offered for an address, and the outstanding list after the answer. -/
def Work.offer (b : Base) (s a : Nat) (c : RowContent) (w : Work) : Work × OfferAnswer :=
  let p := (w.string s).offer b.elapsed a c
  let w := w.setString s fun _ => p.1
  match p.2 with
  | .queued => (w.setCell s a fun k => { k with outstanding := k.outstanding ++ [c] }, .queued)
  | .replaced => (w.setCell s a fun k => { k with outstanding := k.outstanding.dropLast ++ [c] }, .replaced)
  | .refused => (w, .refused)

/-- R80: the desired content of a row offered; an accepted offer clears the release flag. -/
def Work.offerDesired (b : Base) (rec : BoardRec) (r : Nat) (w : Work) : Work :=
  let p := w.offer b rec.string (rec.address r) (w.rowCell rec r).desired
  if p.2 = .refused then p.1.setCell rec.string (rec.address r) fun k => { k with heldBack := false }
  else p.1.setCell rec.string (rec.address r) fun k => { k with released := false, heldBack := false }

/-- R82: the other rows of the board that have the service `k` in their on-wall content or outstanding frames. -/
def Work.rowsShowing (rec : BoardRec) (r : Nat) (k : Key) (w : Work) : List Nat :=
  rec.rowList.filter fun q => q != r && (w.rowCell rec q).shows k

/-- R80, R82: one row offered if it is due, or held back by the guard with an interim BLANK. -/
def Work.offerRow (b : Base) (bd : Board) (w : Work) (r : Nat) : Work :=
  let rec' := bd.record
  let c := w.rowCell rec' r
  if bd.due r c then
    match occupant c.desired with
    | some k =>
      if (w.rowsShowing rec' r k).isEmpty then w.offerDesired b rec' r
      else
        let w := w.setCell rec'.string (rec'.address r) fun c => { c with heldBack := true }
        match c.reference with
        | some (.service row) => if row.key = k then w else (w.offer b rec'.string (rec'.address r) .blank).1
        | _ => w
    | none => w.offerDesired b rec' r
  else w

/-- R82: the dirty rows that stand in the way of row `r`, released. -/
def Work.guardRow (bd : Board) (w : Work) (r : Nat) : Work :=
  let c := w.rowCell bd.record r
  if bd.due r c then
    match occupant c.desired with
    | some k =>
      (w.rowsShowing bd.record r k).foldl (fun w q =>
        w.setCell bd.record.string (bd.record.address q) fun c => if c.dirty then { c with released := true } else c) w
    | none => w
  else w

/-- R82: the guard's releases, repeated until a chain of rows standing in each other's way is released whole. -/
def Work.guardReleases (bd : Board) (w : Work) : Work :=
  (List.range bd.record.rows).foldl (fun w _ => bd.record.rowList.foldl (Work.guardRow bd) w) w

/-- R80: the due rows of a board offered, in ascending row order. -/
def Work.offerRows (b : Base) (n : Nat) (w : Work) : Work :=
  match w.board n with
  | some bd => bd.record.rowList.foldl (Work.offerRow b bd) (w.guardReleases bd)
  | none => w

/-! ### Confirmation sets (R84) -/

/-- R84: the confirmation changes since the sets were last brought up to date, in table order. -/
def Work.confirmationEvents (w : Work) : List (Key × BitVec 32 × Bool) :=
  w.svt.ordered.filterMap fun x =>
    if (w.confirmation x).isEmpty = x.conf.isEmpty then none else some (x.key, x.seq, !(w.confirmation x).isEmpty)

/-- R84: every set brought up to date, without the events. -/
def Work.storeConfirmations (w : Work) : Work :=
  { w with svt := { w.svt with services := w.svt.services.map fun x => { x with conf := w.confirmation x } } }

/-- R84: the sets brought up to date and the changes delivered together, after those in `extra`. -/
def Work.refreshConfirmations (b : Base) (extra : List (Key × BitVec 32 × Bool)) (w : Work) : Work :=
  w.storeConfirmations.confirmChanges b (extra ++ w.confirmationEvents)

/-! ### Derivation (R67) -/

/-- R67 steps 1 and 2, R70: the board's list, presentation, banner and page; a return to NORMAL starts at page 0 (R68). -/
def Board.refresh (b : Base) (w : Work) (n : Nat) (bd : Board) : Board :=
  let list := eligibleRecords b w bd.record
  let src := bannerSource b w n
  let count := countPages bd.record (bannerRows bd.record src) list.length
  let returning := presentationOf b = .normal ∧ bd.presentation ≠ .normal
  { bd with
    eligible := list.map Service.key
    presentation := presentationOf b
    banner := src
    pageCount := count
    page := if returning ∨ count ≤ bd.page then 0 else bd.page
    timer := if returning then 0 else bd.timer }

/-- The services a board lists: those eligible now or, at a text change event (R59), those of its last derivation. -/
def Work.listed (b : Base) (bd : Board) (only : Option (List Nat)) (w : Work) : List Service :=
  match only with
  | none => eligibleRecords b w bd.record
  | some _ => bd.eligible.filterMap w.svt.find

/-- What row `r` of a board shows. -/
def Work.sourceOf (b : Base) (bd : Board) (only : Option (List Nat)) (w : Work) (r : Nat) : RowSource :=
  rowSource b w bd.record (w.listed b bd only) bd.banner bd.page r

/-- R59: whether a row reads an index of a changed set; without a changed set every row is derived. -/
def readsChanged (w : Work) (only : Option (List Nat)) (s : RowSource) : Bool :=
  match only with
  | none => true
  | some is => (indexesOf w s).any is.contains

/-- R67 step 4: the desired content of row `r`. -/
def Work.deriveRow (b : Base) (bd : Board) (only : Option (List Nat)) (w : Work) (r : Nat) : Work :=
  let src := w.sourceOf b bd only r
  if readsChanged w only src then
    w.setCell bd.record.string (bd.record.address r) fun c => { c with desired := contentOf b w bd.record src }
  else w

/-- R79: the release flag of row `r`: cleared when the row is not dirty, set on a rotating row that is urgent or dirty at a
page expiry (R71), and on every dirty row at a return to NORMAL (R68). A row with a frame outstanding is judged against that
frame (R77), at a reconfiguration, on becoming ONLINE and at an enable as well: a rotating row that differs from it in no
urgent way is not released, and waits for the page expiry (log 44). -/
def Work.releaseRow (bd : Board) (expired returning : Bool) (w : Work) (r : Nat) : Work :=
  w.setCell bd.record.string (bd.record.address r) fun c =>
    if !c.dirty then { c with released := false, heldBack := false }
    else if returning || (bd.rotating r && (expired || c.urgent bd.eligible)) then { c with released := true }
    else c

/-- R67: one derivation of board `n`, up to and including its offers. A text change event (R59) derives rows alone. -/
def Work.deriveBoard (b : Base) (only : Option (List Nat)) (expired : Bool) (n : Nat) (w : Work) : Work :=
  match w.board n with
  | some bd =>
    let bd' := if only.isNone then bd.refresh b w n else bd
    let returning := bd'.presentation == .normal && bd.presentation != .normal
    let w := w.setBoard n fun _ => bd'
    let w := bd'.record.rowList.foldl (Work.deriveRow b bd' only) w
    let w := bd'.record.rowList.foldl (Work.releaseRow bd' expired returning) w
    w.offerRows b n
  | none => w

/-- R67, R84: the ONLINE boards that satisfy `p` derived in ascending number, and then the confirmation sets. -/
def Work.deriveWith (b : Base) (only : Option (List Nat)) (expired : List Nat) (extra : List (Key × BitVec 32 × Bool))
    (p : Nat → Bool) (w : Work) : Work :=
  ((List.range 16).foldl (fun w' n => if w'.online n && p n then w'.deriveBoard b only (expired.contains n) n else w') w).refreshConfirmations b extra

/-- The ONLINE boards that satisfy `p` derived. -/
def Work.derive (b : Base) (p : Nat → Bool) (w : Work) : Work := w.deriveWith b none [] [] p

/-- Every ONLINE board derived. -/
def Work.deriveAll (b : Base) (w : Work) : Work := w.derive b fun _ => true

/-- Whether a board's eligible list, as last derived, holds a service. -/
def Work.lists (w : Work) (key : Key) (n : Nat) : Bool :=
  match w.board n with
  | some bd => bd.eligible.contains key
  | none => false

/-! ### Events (R76, R86, R87, R88, R59) -/

/-- R87: a record change event at the BCP: the flash count, then the boards the service is or could be on. -/
def Work.boardChange (b : Base) (key : Key) (platformChange : Bool) (w : Work) : Work :=
  let w := if platformChange then w.updateService key fun x => { x with flash := w.bcp.flashTime } else w
  if presentationOf b = .normal then
    w.derive b fun n => w.lists key n ||
      (match w.board n, w.svt.find key with
        | some bd, some x => isEligible w.svt b.tbs.t bd.record x
        | _, _ => false)
  else w

/-- R71: whether a board's page timer runs. -/
def Work.paging (w : Work) (n : Nat) : Bool :=
  w.online n &&
    match w.board n with
    | some bd => bd.record.kind == .list && bd.presentation == .normal
    | none => false

/-- R71: whether the page timer of a board reaches the page period at its next count. -/
def Work.pageEnds (w : Work) (n : Nat) : Bool :=
  w.paging n &&
    match w.board n with
    | some bd => bd.record.period ≤ bd.timer + 1
    | none => false

/-- R71: a page expiry: the timer returns to 0 and the page index advances, wrapping after the last page. -/
def Board.turnPage (bd : Board) : Board :=
  { bd with timer := 0, page := if bd.page + 1 < bd.pageCount then bd.page + 1 else 0 }

/-- R71, R86 step 2: one count of a board's page timer. -/
def Work.countPage (ends : List Nat) (w : Work) (n : Nat) : Work :=
  if w.paging n then
    w.setBoard n fun bd => if ends.contains n then bd.turnPage else { bd with timer := bd.timer + 1 }
  else w

/-- R76, R86 step 1: every flash count above 0 falls by one. -/
def Work.lowerFlashes (w : Work) : Work :=
  { w with svt := { w.svt with services := w.svt.services.map fun x => { x with flash := x.flash - 1 } } }

/-- R86: the second event at the BCP. -/
def Work.boardSecond (b : Base) (w : Work) : Work :=
  let w := w.lowerFlashes
  let ends := (List.range 16).filter w.pageEnds
  ((List.range 16).foldl (Work.countPage ends) w).deriveWith b none ends [] fun _ => true

/-- R71: PAGE_EXPIRY of one board, taken by itself. -/
def Work.expirePage (b : Base) (n : Nat) (w : Work) : Work :=
  if w.paging n then (w.setBoard n Board.turnPage).deriveWith b none [n] [] (· == n) else w

/-- R76: FLASH_END of one service, taken by itself. -/
def Work.endFlash (b : Base) (key : Key) (w : Work) : Work :=
  match w.svt.find key with
  | some x =>
    if x.flash > 0 then (w.updateService key fun x => { x with flash := 0 }).derive b (w.lists key) else w
  | none => w

/-- R59: whether a row of board `n` reads an index of the changed set. -/
def Work.textTouches (b : Base) (changed : List Nat) (w : Work) (n : Nat) : Bool :=
  match w.board n with
  | some bd => bd.record.rowList.any fun r => readsChanged w (some changed) (w.sourceOf b bd (some changed) r)
  | none => false

/-- R59: a text change event. -/
def Work.textChange (b : Base) (changed : List Nat) (w : Work) : Work :=
  w.deriveWith b (some changed) [] [] (w.textTouches b changed)

/-! ### Completions (R81, R100, R106) -/

/-- R81: whether an address is a row of an ONLINE board. -/
def Work.isOnlineRow (w : Work) (s a : Nat) : Bool :=
  (List.range 16).any fun n => w.online n &&
    match w.board n with
    | some bd => bd.record.string == s && bd.record.first ≤ a && a < bd.record.first + bd.record.rows
    | none => false

/-- R80: the due rows of every ONLINE board on a string offered, boards and rows ascending. -/
def Work.offersOn (b : Base) (s : Nat) (w : Work) : Work :=
  (List.range 16).foldl (fun w n =>
    if w.online n && (match w.board n with | some bd => bd.record.string == s | none => false)
    then w.offerRows b n else w) w

/-- R81: the completed frame recorded as on the wall. -/
def Work.recordCompletion (s a : Nat) (c : RowContent) (w : Work) : Work :=
  w.setCell s a fun k => { k with outstanding := k.outstanding.tail, onWall := some c }

/-- R81: what the BCP does in answer to a completion it has recorded. -/
def Work.answerCompletion (b : Base) (s a : Nat) (w : Work) : Work :=
  if w.isOnlineRow s a then
    ((w.setCell s a fun k => if k.dirty then k else { k with released := false, heldBack := false }).offersOn b s).refreshConfirmations b []
  else w

/-- R64, R65: every row of a board set to unknown. -/
def Work.forgetRows (rec : BoardRec) (w : Work) : Work :=
  rec.rowList.foldl (fun w r => w.setCell rec.string (rec.address r) fun c => { c with onWall := none }) w

/-- R65: the boards recomposed once the strings have drained: every row of every ONLINE board unknown, and derived. -/
def Work.recomposeBoards (b : Base) (w : Work) : Work :=
  let w := { w with bcp := { w.bcp with recompose := false } }
  ((List.range 16).foldl (fun w n =>
    if w.online n then (match w.board n with | some bd => w.forgetRows bd.record | none => w) else w) w).deriveAll b

/-- R106: the boards are recomposed when every string has drained. -/
def Work.drainCheck (b : Base) (w : Work) : Work :=
  if w.bcp.recompose && w.wsc.all (fun s => !s.drain) then w.recomposeBoards b else w

/-- R100 step 3, R106: the drain of a string ends. -/
def Work.endDrain (b : Base) (s : Nat) (w : Work) : Work :=
  if (w.string s).drain then (w.setString s fun t => { t with drain := false }).drainCheck b else w

/-- The drain-pending flag of a string written. -/
def Work.setDrain (s : Nat) (v : Bool) (w : Work) : Work := w.setString s fun t => { t with drain := v }

/-- R100 step 4, R106: the completion answered; the offers made in answer to a drain's own completion are refused, as
offers are while the drain is pending (log 27). -/
def Work.answerAfter (b : Base) (s a : Nat) (drained : Bool) (w : Work) : Work :=
  if drained then ((w.setDrain s true).answerCompletion b s a).setDrain s false else w.answerCompletion b s a

/-- R100: the in-flight frame of a string completes. Step 3 comes before the completion is recorded at step 4: where the end of
a drain recomposes the boards (R65), the draining frame still stands in its cell's outstanding list, so a row that it already
shows as desired is sent no frame (log 27, log 44). -/
def Work.complete (b : Base) (s : Nat) (r : FrameResult) (w : Work) : Work :=
  match (w.string s).inFlight with
  | none => w
  | some (f, q) =>
    let drained := (w.string s).drain
    let reports := healthReport s f q r (w.string s)
    let w := (w.setString s (WallString.finishFrame r f)).raiseAll reports
    let w := w.endDrain b s
    let w := (w.recordCompletion s f.address f.content).setString s (WallString.start b.elapsed)
    w.answerAfter b s f.address drained

/-! ### Boards going ONLINE and OFFLINE (R62, R64, R83) -/

/-- R64: a board that has become ONLINE, before it is derived; frames outstanding at its addresses stay
outstanding, and such a row is compared with its frame (log 44). -/
def Work.bringOnline (n : Nat) (w : Work) : Work :=
  match w.board n with
  | some bd => (w.forgetRows bd.record).setBoard n fun bd => { bd with page := 0, timer := 0 }
  | none => w

/-- R64: whether board `n` is configured, enabled and on string `s`. -/
def Work.enabledOn (w : Work) (s n : Nat) : Bool :=
  match w.board n with
  | some bd => bd.record.enabled && bd.record.string == s
  | none => false

/-- R83, R103: a string enabled, and its boards ONLINE. A row whose address still has a frame outstanding is offered when it is
due against that frame: a rotating row only on an urgent difference (log 44). -/
def Work.enableString (b : Base) (s : Nat) (w : Work) : Work :=
  let w := w.setString s WallString.enable
  ((List.range 16).foldl (fun w' n => if w.enabledOn s n then w'.bringOnline n else w') w).derive b (w.enabledOn s)

/-- R83, R104, R106: the discarded frames of a string taken out of the outstanding lists. -/
def Work.dropDiscarded (s : Nat) (fs : List WallFrame) (w : Work) : Work :=
  fs.foldl (fun w f => w.setCell s f.address fun c => { c with outstanding := c.outstanding.dropLast }) w

/-- R83, R104: a string disabled, and its boards OFFLINE. -/
def Work.disableString (b : Base) (s : Nat) (w : Work) : Work :=
  ((w.setString s WallString.disable).dropDiscarded s (w.string s).queue).refreshConfirmations b []

/-- R62: one BLANK frame offered to each row of a board that is being taken out of use. -/
def Work.blankRows (b : Base) (rec : BoardRec) (w : Work) : Work :=
  rec.rowList.foldl (fun w r => (w.offer b rec.string (rec.address r) .blank).1) w

/-- R62: the cells of a new record: unknown, not released or held back, and with the desired content BLANK until the board is
first derived (log 43). -/
def Work.claimRows (rec : BoardRec) (w : Work) : Work :=
  rec.rowList.foldl (fun w r => w.setCell rec.string (rec.address r) fun c =>
    { c with desired := .blank, onWall := none, released := false, heldBack := false }) w

/-- R62: an accepted CONFIGURE BOARD section applied. A row whose address still has a frame outstanding is compared with that
frame (R77): it is not offered where the two agree, and a rotating row only on an urgent difference (log 44). A board that is OFFLINE
after the section is not derived by it and stands like one never derived: no eligible service, no banner, page 0 of 1
(log 31). -/
def Work.putBoard (b : Base) (n : Nat) (rec : BoardRec) (w : Work) : Work :=
  let w :=
    match w.board n with
    | some old => if w.online n && !rec.enabled then w.blankRows b old.record else w
    | none => w
  let bd : Board :=
    { record := rec, eligible := [], presentation := presentationOf b, banner := .none, page := 0, pageCount := 1, timer := 0 }
  let w := { w with bcp := { w.bcp with boards := w.bcp.boards.set n (some bd) } }
  (w.claimRows rec).derive b (· == n)

/-! ### RESTART (R65, R106) -/

/-- R106: the queues discarded, drains begun, and the discarded frames taken out of the outstanding lists. -/
def Work.drainStrings (w : Work) : Work :=
  (List.range 4).foldl (fun w s =>
    (w.setString s WallString.restart).dropDiscarded s (w.string s).queue) w

/-- R65: the boards' dynamic state cleared: nothing on the wall is known, and the boards wait for the drains. The desired
content of a row is not in the rule's table: it stays as last derived until the next derivation of its board, so that until
then a service created again under its key can be one that the board assigns that row (R84): the model's choice (log 50). -/
def Work.clearBoards (w : Work) : Work :=
  let boards := w.bcp.boards.map (Option.map fun bd => { bd with eligible := [], page := 0, timer := 0 })
  let w := { w with bcp := { w.bcp with boards, recompose := true } }
  (List.range 16).foldl (fun w n =>
    match w.board n with
    | some bd =>
      bd.record.rowList.foldl (fun w r => w.setCell bd.record.string (bd.record.address r) fun c =>
        { c with onWall := none, released := false, heldBack := false }) w
    | none => w) w

end Sys2Proof.Machine
end

