-- ==== Sys2Proof/Machine/Notice.lean ====
section
/-!
DEFINITION. The Notice Rule Engine (chapter 7): predicates, evaluations and their edges, watch slots, and what a rule load
does; with the record change event (R31), which the engine and the Board Composer take.
-/

namespace Sys2Proof.Machine

/-! ### Predicates (R108, R109, R117, R118) -/

/-- Whether an optional condition is absent or holds. -/
def whenPresent {α : Type} (o : Option α) (p : α → Bool) : Bool :=
  match o with
  | none => true
  | some a => p a

/-- R108, R118: a countdown range judged over the rule times `a` to `c`: some whole number in C(c)..C(a) lies within it.
Judged normally, `a` and `c` are the one rule time. -/
def countdownHolds (a c : Int) (x : Service) (range : Nat × Nat) : Bool :=
  max range.1 (countdown (x.k - c)) ≤ min range.2 (countdown (x.k - a))

/-- R108: whether the predicates hold for a service at station time `t`, the countdown judged over `a` to `c`. -/
def predsHold (t a c : Int) (p : Preds) (x : Service) : Bool :=
  whenPresent p.status (fun ss => ss.contains x.status)
    && whenPresent p.cls (fun cs => cs.contains x.cls)
    && whenPresent p.platform (fun ns => match x.current with | some d => ns.contains d.num | none => false)
    && whenPresent p.destination (fun i => x.destination == i)
    && whenPresent p.calling (fun i => x.calling.contains i)
    && whenPresent p.delay (fun r => r.1 ≤ x.delay && x.delay ≤ r.2)
    && whenPresent p.countdown (countdownHolds a c x)
    && whenPresent p.changed (fun n => match x.changeTime with | some ct => t - ct ≤ (n : Int) | none => false)
    && whenPresent p.stale (fun v => x.stale == v)
    && whenPresent p.unsettled (fun v => x.unsettled == v)
    && whenPresent p.actual (fun v => x.actual.isSome == v)

/-- R108: whether the predicates include a time predicate. -/
def predsTimed (p : Preds) : Bool := p.countdown.isSome || p.changed.isSome

/-- R109: whether a listed TERM holds. -/
def Nre.termHolds (n : Nre) (t a c : Int) (x : Service) (i : Nat) : Bool :=
  match n.rule i with
  | some r => r.kind == .term && r.enabled && predsHold t a c r.preds x
  | none => false

/-- R109: whether a HEAD holds for a service. -/
def Nre.headHolds (n : Nre) (t a c : Int) (r : Rule) (x : Service) : Bool :=
  r.kind == .head && r.enabled && predsHold t a c r.preds x && r.terms.all (n.termHolds t a c x)

/-- R109: whether a HEAD is a time HEAD. -/
def Nre.timeHead (n : Nre) (r : Rule) : Bool :=
  predsTimed r.preds || r.terms.any fun i => match n.rule i with | some q => predsTimed q.preds | none => false

/-! ### Watch slots (R124, R125) -/

/-- The engine changed. -/
def Work.mapNre (f : Nre → Nre) (w : Work) : Work := { w with nre := f w.nre }

/-- The slots that satisfy `p` freed. -/
def Nre.freeSlots (p : Slot → Bool) (n : Nre) : Nre :=
  { n with slots := n.slots.map fun s => match s with | some x => if p x then none else some x | none => none }

/-- The bound slots changed. -/
def Nre.mapSlots (f : Slot → Slot) (n : Nre) : Nre := { n with slots := n.slots.map (Option.map f) }

/-- R125: the slot a WATCH action starts. -/
def newSlot (h : Nat) (key : Key) : Watch → Slot
  | .timeout p => ⟨h, key, .timeout p p, true⟩
  | .count th => ⟨h, key, .count th 0, true⟩

/-- R125: the lowest-numbered free slot taken, or WATCH_FULL. -/
def Work.startWatch (h : Nat) (key : Key) (wt : Watch) (w : Work) : Work :=
  match w.nre.slots.findIdx? Option.isNone with
  | some i => w.mapNre fun n => { n with slots := n.slots.set i (some (newSlot h key wt)) }
  | none => w.raise (.watchFull h key)

/-! ### Edges (R112, R113) -/

/-- R112: a rising edge of HEAD `h` for a service. -/
def Work.riseEdge (b : Base) (loud : Bool) (key : Key) (w : Work) (h : Nat) : Work :=
  match w.nre.rule h with
  | none => w
  | some r =>
    let w := w.updateService key fun x => { x with held := insertNat h x.held }
    let w := match r.watch with | some wt => w.startWatch h key wt | none => w
    let w := if loud then (match r.cue with | some c => (w.enqueue b c (some key) (.rule h)).1 | none => w) else w
    if loud && r.report then w.raise (.ruleHolds h r.priority key b.tbs.t) else w

/-- R113 steps 2 and 3: what a falling edge does beside the held set. -/
def Work.releaseHead (b : Base) (key : Key) (h : Nat) (w : Work) : Work :=
  let w := w.mapNre (Nre.freeSlots fun s => s.head == h && s.key == key)
  match (w.nre.rule h).bind Rule.cue with
  | some c => w.withdraw b (CueEntry.hasKey c (some key))
  | none => w

/-- R113: a falling edge of HEAD `h` for a service. -/
def Work.fallEdge (b : Base) (key : Key) (w : Work) (h : Nat) : Work :=
  (w.updateService key fun x => { x with held := x.held.filter (· != h) }).releaseHead b key h

/-! ### Evaluation (R110, R111) -/

/-- What the engine tells the Board Composer (R110): the services whose held set changed, and the boards of the banner
HEADs whose holder count passed between 0 and above 0 or whose record was replaced. -/
structure Told where
  keys : List Key
  boards : List Nat

/-- The notices of two changes together. -/
def Told.and (x y : Told) : Told := ⟨x.keys ++ y.keys, x.boards ++ y.boards⟩

/-- R88: the Board Composer takes what it is told. -/
def Work.tell (b : Base) (told : Told) (w : Work) : Work :=
  if told.keys.isEmpty && told.boards.isEmpty then w
  else w.derive b fun n => told.keys.any (fun k => w.lists k n) || told.boards.contains n

/-- The boards of a rule's banner. -/
def Rule.bannerBoards (r : Rule) : List Nat := (r.banner.map Prod.snd).getD []

/-- R110: the boards of the banner HEADs among `hs` whose holder count passed between 0 and above 0. -/
def passedZero (before after : Work) (hs : List Nat) : List Nat :=
  (hs.filter fun h => (before.svt.holders h == 0) != (after.svt.holders h == 0)).flatMap fun h =>
    ((after.nre.rule h).map Rule.bannerBoards).getD []

/-- R111: the HEADs of a group that stop holding for a service, ascending. -/
def Work.falling (b : Base) (group : Rule → Bool) (a c : Int) (x : Service) (w : Work) : List Nat :=
  (List.range Config.ruleCount).filter fun h => x.held.contains h &&
    match w.nre.rule h with
    | some r => group r && !w.nre.headHolds b.tbs.t a c r x
    | none => false

/-- R111: the HEADs of a group that start to hold for a service, ascending. -/
def Work.rising (b : Base) (group : Rule → Bool) (a c : Int) (x : Service) (w : Work) : List Nat :=
  (List.range Config.ruleCount).filter fun h => !x.held.contains h &&
    match w.nre.rule h with
    | some r => group r && w.nre.headHolds b.tbs.t a c r x
    | none => false

/-- R111: one evaluation of a service: falling edges and then rising edges, each in ascending rule number. -/
def Work.evaluate (b : Base) (group : Rule → Bool) (loud : Bool) (a c : Int) (key : Key) (w : Work) : Work :=
  match w.svt.find key with
  | none => w
  | some x =>
    (w.rising b group a c x).foldl (Work.riseEdge b loud key) ((w.falling b group a c x).foldl (Work.fallEdge b key) w)

/-- R110: what the Board Composer is to be told of one evaluation of a service. -/
def toldOf (key : Key) (before after : Work) : Told where
  keys := if (before.svt.find key).map Service.held != (after.svt.find key).map Service.held then [key] else []
  boards := passedZero before after (List.range Config.ruleCount)

/-- R110: an evaluation, and what the Board Composer is told of it. -/
def Work.evaluateTell (b : Base) (group : Rule → Bool) (loud : Bool) (a c : Int) (w : Work) (key : Key) : Work :=
  (w.evaluate b group loud a c key).tell b (toldOf key w (w.evaluate b group loud a c key))

/-- R114: the loud evaluation of every HEAD for a service, the countdown judged against the rule time as held. -/
def Work.evaluateChange (b : Base) (key : Key) (w : Work) : Work :=
  w.evaluateTell b (fun _ => true) true w.nre.ruleTime w.nre.ruleTime key

/-! ### Watch outcomes (R30, R126, R128) -/

/-- R30, R31: the record change event that setting a flag raises. -/
def Work.flagChange (b : Base) (key : Key) (w : Work) : Work := (w.boardChange b key false).evaluateChange b key

/-- R126: the expiry of a TIMEOUT slot. -/
def Work.expireSlot (b : Base) (i : Nat) (w : Work) : Work :=
  match w.nre.slots.getD i none with
  | some ⟨h, key, .timeout period _, _⟩ =>
    let clear := (w.svt.find key).map Service.stale = some false
    let w := (w.updateService key fun x => { x with stale := true }).raise (.watchExpired h key period)
    let w := w.mapNre fun n => { n with slots := n.slots.set i none }
    if clear then w.flagChange b key else w
  | _ => w

/-- R128: a COUNT slot reaches its threshold. -/
def Work.reachSlot (b : Base) (i : Nat) (w : Work) : Work :=
  match w.nre.slots.getD i none with
  | some ⟨h, key, .count th _, f⟩ =>
    let clear := (w.svt.find key).map Service.unsettled = some false
    let w := (w.updateService key fun x => { x with unsettled := true }).raise (.watchCount h key th)
    let w := w.mapNre fun n => { n with slots := n.slots.set i (some ⟨h, key, .count th 0, f⟩) }
    if clear then w.flagChange b key else w
  | _ => w

/-- Whether a slot is a COUNT slot at its threshold. -/
def slotReached : Option Slot → Bool
  | some ⟨_, _, .count th n, _⟩ => th ≤ n
  | _ => false

/-- Whether a slot is a TIMEOUT slot at 0. -/
def slotEnded : Option Slot → Bool
  | some ⟨_, _, .timeout _ 0, _⟩ => true
  | _ => false

/-- R114, R126: a TIMEOUT slot restarted at its full period. -/
def restartSlot (s : Slot) : Slot :=
  match s.mode with
  | .timeout p _ => { s with mode := .timeout p p }
  | .count .. => s

/-- R128: a COUNT slot advanced by one. -/
def advanceSlot (s : Slot) : Slot :=
  match s.mode with
  | .timeout .. => s
  | .count th n => { s with mode := .count th (n + 1) }

/-- R126: a TIMEOUT slot lowered by one, unless it was started during this second event's evaluation. -/
def lowerSlot (s : Slot) : Slot :=
  match s.mode, s.fresh with
  | .timeout p r, false => { s with mode := .timeout p (r - 1) }
  | _, _ => s

/-- The slots of a service changed. -/
def Work.mapSlotsOf (key : Key) (f : Slot → Slot) (w : Work) : Work :=
  w.mapNre (Nre.mapSlots fun s => if s.key == key then f s else s)

/-- R114: the marks of a record change event, applied after its evaluation. -/
def Work.applyMarks (b : Base) (key : Key) (marks : List Mark) (w : Work) : Work :=
  let w := if marks.contains .expectedCarried then w.mapSlotsOf key restartSlot else w
  if marks.contains .platformChange then
    (List.range Config.slotCount).foldl (fun w i =>
      if slotReached (w.nre.slots.getD i none) then w.reachSlot b i else w) (w.mapSlotsOf key advanceSlot)
  else w

/-- R31: a record change event, delivered to the Board Composer and to the Notice Rule Engine (log 6). -/
def Work.recordChange (b : Base) (key : Key) (marks : List Mark) (w : Work) : Work :=
  ((w.boardChange b key (marks.contains .platformChange)).evaluateChange b key).applyMarks b key marks

/-! ### Timebase events (R115, R116, R118) -/

/-- R115 step 2: the time HEADs evaluated for every service, in table order. -/
def Work.evaluateTimed (b : Base) (w : Work) : Work :=
  w.svt.keys.foldl (fun w key => w.evaluateTell b w.nre.timeHead true b.tbs.tHigh b.tbs.tHigh key) w

/-- R115: the second event. -/
def Work.noticeSecond (b : Base) (w : Work) : Work :=
  let w := w.mapNre fun n => ({ n with ruleTime := b.tbs.tHigh } : Nre).mapSlots fun s => { s with fresh := false }
  let w := (w.evaluateTimed b).mapNre (Nre.mapSlots lowerSlot)
  (List.range Config.slotCount).foldl (fun w i =>
    if slotEnded (w.nre.slots.getD i none) then w.expireSlot b i else w) w

/-- R118: the step event; the countdown is judged by crossing when the rule time rises. -/
def Work.noticeStep (b : Base) (w : Work) : Work :=
  let c := b.tbs.tHigh
  let a := if w.nre.ruleTime < c then w.nre.ruleTime else c
  (w.svt.keys.foldl (Work.evaluateTell b (fun _ => true) true a c) w).mapNre fun n => { n with ruleTime := c }

/-- R116: the changeover event. -/
def Work.noticeChangeover (w : Work) : Work := w.mapNre fun n => { n with ruleTime := n.ruleTime - Config.day }

/-! ### Removal (R33, R87, R115) -/

/-- R33, R87: a service taken out of every board's eligible list, those of OFFLINE boards too. -/
def Work.unlist (key : Key) (w : Work) : Work :=
  { w with bcp := { w.bcp with
      boards := w.bcp.boards.map (Option.map fun bd => { bd with eligible := bd.eligible.filter (· != key) }) } }

/-- R33: a record freed, and its removal event taken by the engine, the Cue Controller and the Board Composer. -/
def Work.freeRecord (b : Base) (w : Work) (key : Key) : Work :=
  match w.svt.find key with
  | none => w
  | some x =>
    let listed := (List.range 16).filter (w.lists key)
    let w1 := { w with svt := { w.svt with services := w.svt.services.filter fun y => y.key != key } }
    let w2 := x.held.foldl (fun w h => w.releaseHead b key h) w1
    let w3 := w2.mapNre (Nre.freeSlots fun s => s.key == key)
    let w4 := (w3.withdraw b fun e => e.key == some key).unlist key
    let banners := passedZero w w4 x.held
    let gone := if x.conf.isEmpty then [] else [(x.key, x.seq, false)]
    w4.deriveWith b none [] gone fun n => listed.contains n || banners.contains n

/-! ### Loading rules (R120 to R122) -/

/-- R122: one quiet evaluation of the re-evaluation, with what it adds to the notices. -/
def Work.evaluateNoting (b : Base) (p : Work × Told) (key : Key) : Work × Told :=
  let w := p.1.evaluate b (fun _ => true) false p.1.nre.ruleTime p.1.nre.ruleTime key
  (w, p.2.and (toldOf key p.1 w))

/-- R122: the quiet re-evaluation of every service, with the notices of its evaluations. -/
def Work.reevaluate (b : Base) (w : Work) : Work × Told := w.svt.keys.foldl (Work.evaluateNoting b) (w, ⟨[], []⟩)

/-- R120 step 1: the services that hold rule `n`, in table order. -/
def Work.holdersOf (n : Nat) (w : Work) : List Key :=
  w.svt.keys.filter fun k => ((w.svt.find k).map fun x => x.held.contains n).getD false

/-- R120 steps 1 to 4, R121: a place given new content. The notices of step 4 name every set that an edge of steps 1 to 3
changed: a replaced HEAD that falls and rises again changes the set of its holder twice. Of a banner HEAD replaced or dropped
they name the boards of the record that leaves the place; the boards of the new record are named where its count passes 0
at step 3 (log 18). -/
def Work.loadRule (b : Base) (n : Nat) (r : Option Rule) (w : Work) : Work :=
  let old := w.nre.rule n
  let fallen := w.holdersOf n
  let w1 := fallen.foldl (fun w k => w.fallEdge b k n) w
  let p := (w1.mapNre fun e => { e with rules := e.rules.set n r }).reevaluate b
  p.1.tell b (Told.and ⟨fallen, (old.map Rule.bannerBoards).getD []⟩ p.2)

/-! ### RESTART (R107) -/

/-- R107: the watch slots freed; the held sets and counts go with the records. -/
def Work.clearNotices (w : Work) : Work := w.mapNre (Nre.freeSlots fun _ => true)

end Sys2Proof.Machine
end

