-- ==== Sys2Proof/Machine/Service.lean ====
section
/-!
DEFINITION. The Service Table at work (chapter 2): platforms, status, dispatch, timers, aging, admission, and its part of
the timebase events.
-/

namespace Sys2Proof.Machine

/-! ### Platforms (R24, R25, R26) -/

/-- R24: an immediate platform change to `p` at station time `t`, and whether it carries the platform-change mark. -/
def Service.changePlatform (p : Designator) (t : Int) (x : Service) : Service × Bool :=
  if x.current = some p then ({ x with staged := none }, false)
  else
    ({ x with
      previous := match x.current with | some c => some c | none => x.previous
      current := some p
      changeTime := some t
      staged := none }, true)

/-- R26: the platform withdrawn, and whether the event carries the withdrawn mark. -/
def Service.withdrawPlatform (x : Service) : Service × Bool :=
  match x.current with
  | some c => ({ x with previous := some c, current := none, staged := none }, true)
  | none => ({ x with staged := none }, x.staged.isSome)

/-- R25: whether a record's staged pair is due at `t`. -/
def Service.stagedDue (t : Int) (x : Service) : Bool :=
  match x.staged with
  | some (_, at') => at' ≤ t
  | none => false

/-- R25: the staged pair of one record applied, if due. -/
def Work.applyStaged (b : Base) (w : Work) (key : Key) : Work :=
  match w.svt.find key with
  | some x =>
    match x.staged with
    | some (p, at') =>
      if at' ≤ b.tbs.t then
        let r := x.changePlatform p b.tbs.t
        (w.updateService key fun _ => r.1).recordChange b key
          (if r.2 then [.stagedApplied, .platformChange] else [.stagedApplied])
      else w
    | none => w
  | none => w

/-- R25: the staged pairs due at an event, applied in table order. -/
def Work.applyStagedAll (b : Base) (w : Work) : Work := w.svt.keys.foldl (Work.applyStaged b) w

/-! ### Status and timer (R27, R29) -/

/-- R27: a carried status, and whether it changes the status. -/
def Service.putStatus (st : Status) (x : Service) : Service × Bool :=
  if x.status = st then (x, false) else ({ x with status := st, timer := none }, true)

/-- R29: the end of a departing timer. -/
def Work.endTimer (b : Base) (w : Work) (key : Key) : Work :=
  (w.updateService key fun x => { x with timer := none, status := .departed }).recordChange b key [.departingEnded, .status]

/-- R29: one taken from the remaining count of a running timer. -/
def Service.countTimer (x : Service) : Service := { x with timer := x.timer.map fun n => n - 1 }

/-- R29: every running timer counted, and those that reach 0 ended in table order. -/
def Work.countTimers (b : Base) (w : Work) : Work :=
  let w := { w with svt := { w.svt with services := w.svt.services.map Service.countTimer } }
  w.svt.keys.foldl (fun w key =>
    if ((w.svt.find key).bind Service.timer) = some 0 then w.endTimer b key else w) w

/-! ### Dispatch (R28) -/

/-- R28: whether a record is a candidate for a dispatch from platform `p`. -/
def Service.candidate (t : Int) (window p : Nat) (x : Service) : Bool :=
  (match x.current with | some d => d.num == p | none => false)
    && (x.status == .scheduled || x.status == .delayed)
    && x.actual.isNone && x.k - t ≤ (window : Int)

/-- R28: the record a dispatch captures. -/
def Work.captured (b : Base) (p : Nat) (w : Work) : Option Service :=
  w.svt.ordered.find? (Service.candidate b.tbs.t w.svt.window p)

/-- R28: a dispatch for platform `p` from a field line, and whether it captured. -/
def Work.dispatch (b : Base) (line p : Nat) (w : Work) : Work × Bool :=
  match w.captured b p with
  | some x =>
    let w' := w.updateService x.key fun y =>
      { y with actual := some b.tbs.t, status := .departing, timer := some w.svt.departing }
    ((w'.recordChange b x.key [.dispatch, .status]).raise (.dispatchCaptured x.key line p b.tbs.t), true)
  | none => (w.raise (.dispatchUnmatched line p), false)

/-! ### Aging and eviction (R34, R36) -/

/-- R34: whether a record is freed by aging. -/
def Svt.aged (v : Svt) (t : Int) (x : Service) : Bool :=
  ((x.status == .departed || x.status == .cancelled) && t - x.k > 60 * (v.retain : Int))
    || t - x.k > 60 * (v.abandon : Int)

/-- R34: the table aged, in table order. -/
def Work.age (b : Base) (w : Work) : Work :=
  ((w.svt.ordered.filter (w.svt.aged b.tbs.t)).map Service.key).foldl (Work.freeRecord b) w

/-- R36: the record evicted for an admission. -/
def Svt.evictee (v : Svt) (t : Int) : Option Service :=
  match v.ordered.find? fun x => x.status == .departed || x.status == .cancelled with
  | some x => some x
  | none => v.ordered.find? fun x => t - x.k > 60 * (v.overdue : Int)

/-! ### Timebase events (R25, R29, R32, R34) -/

/-- R25, R29: the second event at the SVT. -/
def Work.serviceSecond (b : Base) (w : Work) : Work := (w.applyStagedAll b).countTimers b

/-- R25, R34: the step event at the SVT. -/
def Work.serviceStep (b : Base) (w : Work) : Work := (w.applyStagedAll b).age b

/-- R32: a stored time rebased. -/
def rebase (x : Int) : Int := max Config.minTime (x - Config.day)

/-- R32: every stored time of a record rebased. -/
def Service.rebased (x : Service) : Service :=
  { x with
    scheduled := rebase x.scheduled
    expected := x.expected.map rebase
    actual := x.actual.map rebase
    staged := x.staged.map fun p => (p.1, rebase p.2)
    changeTime := x.changeTime.map rebase
    lastUpdate := rebase x.lastUpdate }

/-- R32: the changeover event at the SVT: every record rebased, and then their events in table order (log 7). -/
def Work.serviceChangeover (b : Base) (w : Work) : Work :=
  let keys := w.svt.keys
  let w := { w with svt := { w.svt with services := w.svt.services.map Service.rebased } }
  keys.foldl (fun w key => w.recordChange b key [.rebase]) w

/-! ### SERVICE PUT applied (R21, R22) -/

/-- The value a field carries, if it carries one. -/
def carriedValue {α : Type} : Carried α → Option α
  | .value a => some a
  | _ => none

/-- A required field after the request. -/
def putField {α : Type} (c : Carried α) (held : α) : α := (carriedValue c).getD held

/-- An optional field after the request: absent leaves it, none makes it absent. -/
def putOption {α : Type} (c : Carried α) (held : Option α) : Option α :=
  match c with
  | .value a => some a
  | .none => none
  | _ => held

/-- A time a request carries, converted (R41). -/
def carriedTime (c0 : Nat) (c : Carried MsgTime) : Option Int := (carriedValue c).bind (convertTime c0)

/-- An optional time after the request. -/
def putTime (c0 : Nat) (c : Carried MsgTime) (held : Option Int) : Option Int :=
  match c with
  | .value m => convertTime c0 m
  | .none => none
  | _ => held

/-- Whether a field is present in the request. -/
def isPresent {α : Type} : Carried α → Bool
  | .value _ => true
  | .none => true
  | _ => false

/-- R24, R25, R26: the platform of a request applied to a held record, with the marks it gives. -/
def Service.putPlatform (c0 : Nat) (t : Int) (r : PutReq) (x : Service) : Service × List Mark :=
  match r.platform with
  | .value p =>
    match carriedTime c0 r.effective with
    | some at' =>
      if t < at' then ({ x with staged := some (p, at') }, [.staged])
      else let q := x.changePlatform p t; (q.1, if q.2 then [.platformChange] else [])
    | none => let q := x.changePlatform p t; (q.1, if q.2 then [.platformChange] else [])
  | .none => let q := x.withdrawPlatform; (q.1, if q.2 then [.withdrawn] else [])
  | _ => (x, [])

/-- R22: the fields that are replaced by what the request carries. -/
def Service.putFields (c0 : Nat) (r : PutReq) (x : Service) : Service :=
  { x with
    cls := putField r.cls x.cls
    destination := putField r.destination x.destination
    via := putOption r.via x.via
    scheduled := (carriedTime c0 r.scheduled).getD x.scheduled
    expected := putTime c0 r.expected x.expected
    calling := putField r.calling x.calling
    coaches := putOption r.coaches x.coaches
    actual := putTime c0 r.actual x.actual }

/-- R22: the stale flag cleared and the last update time written. -/
def Service.putUpdate (t : Int) (r : PutReq) (x : Service) : Service :=
  { x with lastUpdate := t, stale := x.stale && !isPresent r.expected }

/-- R22, R27: the status a request carries. -/
def Service.putCarriedStatus (r : PutReq) (x : Service) : Service × Bool :=
  match r.status with
  | .value (some st) => x.putStatus st
  | _ => (x, false)

/-- R31: the marks of an update that its fields give. -/
def fieldMarks (r : PutReq) (wasStale : Bool) : List Mark :=
  (if isPresent r.scheduled || isPresent r.expected || isPresent r.actual then [.times] else [])
    ++ (if isPresent r.expected then (if wasStale then [.expectedCarried, .stale] else [.expectedCarried]) else [])
    ++ (if isPresent r.cls || isPresent r.destination || isPresent r.via || isPresent r.calling
          || isPresent r.coaches then [.other] else [])

/-- R22: an update of a held record, with the marks of its event. -/
def Service.putUpdateAll (c0 : Nat) (t : Int) (r : PutReq) (x : Service) : Service × List Mark :=
  let p := (x.putFields c0 r).putPlatform c0 t r
  let s := p.1.putCarriedStatus r
  (s.1.putUpdate t r, fieldMarks r x.stale ++ p.2 ++ (if s.2 then [.status] else []))

/-- R17, R21: a new record with its creation values and those the request carries. -/
def newService (c0 : Nat) (t : Int) (seq : BitVec 32) (r : PutReq) : Service :=
  let at' := (carriedTime c0 r.effective).getD t
  { key := r.key
    seq := seq
    cls := putField r.cls 0
    destination := putField r.destination 0
    via := putOption r.via none
    scheduled := (carriedTime c0 r.scheduled).getD 0
    expected := putTime c0 r.expected none
    status := (match r.status with | .value (some st) => st | _ => .scheduled)
    current := (match r.platform with | .value p => if t < at' then none else some p | _ => none)
    previous := none
    staged := (match r.platform with | .value p => if t < at' then some (p, at') else none | _ => none)
    changeTime := none
    calling := putField r.calling []
    coaches := putOption r.coaches none
    actual := putTime c0 r.actual none
    lastUpdate := t
    stale := false
    unsettled := false
    timer := none
    held := []
    conf := []
    flash := 0 }

/-- R21: a record created, with its record change event. -/
def Work.createService (b : Base) (r : PutReq) (w : Work) : Work :=
  let x := newService b.tbs.c0 b.tbs.t (w.svt.counter + 1) r
  let w := { w with svt := { w.svt with services := w.svt.services ++ [x], counter := w.svt.counter + 1 } }
  w.recordChange b r.key (if x.staged.isSome then [.created, .staged] else [.created])

/-- R22: a record updated, with its record change event. -/
def Work.updateByPut (b : Base) (r : PutReq) (x : Service) (w : Work) : Work :=
  let p := x.putUpdateAll b.tbs.c0 b.tbs.t r
  (w.updateService r.key fun _ => p.1).recordChange b r.key p.2

/-! ### Reading (R38) -/

/-- R38: the copy of a record. -/
def Service.view (c0 : Nat) (x : Service) : ServiceView where
  key := x.key
  seq := x.seq
  cls := x.cls
  destination := x.destination
  via := x.via
  scheduled := timeView c0 x.scheduled
  expected := x.expected.map (timeView c0)
  status := x.status
  current := x.current
  previous := x.previous
  staged := x.staged.map fun p => (p.1, timeView c0 p.2)
  changeTime := x.changeTime.map (timeView c0)
  calling := x.calling
  coaches := x.coaches
  actual := x.actual.map (timeView c0)
  lastUpdate := timeView c0 x.lastUpdate
  stale := x.stale
  unsettled := x.unsettled
  timer := x.timer
  k := x.k
  held := x.held
  conf := x.conf

/-- R38: the keys on a board's rows, in row order: those of on-wall content of kind SERVICE. -/
def Work.boardKeys (w : Work) (rec : BoardRec) : List Key :=
  rec.rowList.filterMap fun r => (w.rowCell rec r).onWall.bind occupant

end Sys2Proof.Machine
end

