-- ==== Sys2Proof/Machine/Time.lean ====
section
/-!
DEFINITION. The Timebase (chapter 1) and the delivery of its events to the blocks.
-/

namespace Sys2Proof.Machine

/-! ### Feed supervision (R186) -/

/-- R186: DEGRADED entered with its report, and the Board Composer told (R88). -/
def Work.loseFeed (b : Base) (w : Work) : Work :=
  (({ w with hlu := { w.hlu with degraded := true } } : Work).raise (.feedLost w.hlu.feedTimeout)).deriveAll b

/-- R186: DEGRADED left with its report, and the Board Composer told (R88). -/
def Work.restoreFeed (b : Base) (w : Work) : Work :=
  if w.hlu.degraded then
    (({ w with hlu := { w.hlu with degraded := false } } : Work).raise .feedRestored).deriveAll b
  else w

/-- R186: whether the feed count runs: with a feed timeout and while not DEGRADED. While UNSET no second event counts it, and it
is still taken to run: FEED_LOST taken by itself then has its effect (log 15). -/
def Hlu.counting (h : Hlu) : Bool := h.feedTimeout != 0 && !h.degraded

/-- R186: the second event at the Host Link Unit. -/
def Work.feedSecond (b : Base) (w : Work) : Work :=
  if w.hlu.counting then
    let w' : Work := { w with hlu := { w.hlu with feedCount := w.hlu.feedCount + 1 } }
    if w.hlu.feedTimeout ≤ w.hlu.feedCount + 1 then w'.loseFeed b else w'
  else w

/-- R186: FEED_LOST taken by itself: the feed count reaches the feed timeout, also while UNSET, where the count stands still
(log 15). -/
def Work.feedEnds (b : Base) (w : Work) : Work :=
  if w.hlu.counting then
    ({ w with hlu := { w.hlu with feedCount := w.hlu.feedTimeout } } : Work).loseFeed b
  else w

/-! ### The changeover (R5) -/

/-- R5: the changeover event taken by the blocks, and CHANGEOVER. The rule time and the latest starts fall before the
records' rebase events are evaluated (log 7). -/
def Work.changeover (b : Base) (fromStep : Bool) (w : Work) : Work :=
  ((w.noticeChangeover.cueChangeover).serviceChangeover b).raise (.changeover b.tbs.c0 fromStep)

/-! ### Second and minute events (R4, R13) -/

/-- R13: the length of the second that begins with slew remainder `r`, and the remainder after it. -/
def slewSecond (r : Int) : Nat × Int :=
  let a : Nat := min 10 r.natAbs
  if 0 < r then (1000 + a, r - a) else if r < 0 then (1000 - a, r + a) else (1000, 0)

/-- R13: a new second begins. -/
def Timebase.beginSecond (tb : Timebase) : Timebase :=
  { tb with secPos := 0, secLen := (slewSecond tb.slew).1, slew := (slewSecond tb.slew).2 }

/-- R4, R5: the timebase after the fraction has wrapped. -/
def Timebase.advance (tb : Timebase) : Timebase :=
  if 86399 ≤ tb.t then ({ tb with t := 0, tHigh := 0 } : Timebase).beginSecond
  else ({ tb with t := tb.t + 1, tHigh := max tb.tHigh (tb.t + 1) } : Timebase).beginSecond

/-- R13: what is left of the current second's adjustment discarded. -/
def Timebase.discard (tb : Timebase) : Timebase := { tb with secPos := tb.fraction, secLen := 1000 }

/-- R4: the second event at the blocks before the Slave Clock Driver, in the order of the rule. -/
def Work.secondBlocks (b : Base) (w : Work) : Work :=
  (((w.serviceSecond b).boardSecond b).noticeSecond b).cueSecond b

/-- R4: a second event delivered, and the minute event when the clock seconds are a multiple of 60. -/
def State.deliverSecond (s : State) : State :=
  let s := (s.mapWork (Work.secondBlocks s.base)).clockEvent (ClockLine.second s.base.elapsed s.base.tbs)
  let s := s.mapWork (Work.feedSecond s.base)
  if s.base.tbs.clockSeconds % 60 = 0 then s.mapWork (Work.age s.base) else s

/-- R4: the base after the fraction has wrapped; the elapsed count has run to the end of the second, and no filter sample of
that stretch is taken (log 5). -/
def Base.wrap (b : Base) : Base :=
  { b with elapsed := b.elapsed + (b.tbs.secLen - b.tbs.secPos), tbs := b.tbs.advance }

/-- R4, R5: the second event, with the changeover first when it is due. -/
def State.secondEvent (s : State) : State :=
  let s' : State := { s with base := s.base.wrap }
  if 86399 ≤ s.base.tbs.t then (s'.mapWork (Work.changeover s'.base false)).deliverSecond else s'.deliverSecond

/-! ### Steps (R9) -/

/-- R9: the total of a step, before the day and the limit are looked at. -/
def Timebase.total (tb : Timebase) (d : Int) : Int := 1000 * tb.t + tb.fraction + d

/-- R9 step 1: whether a step carries station time past the day. -/
def Timebase.passesDay (tb : Timebase) (d : Int) : Bool := 86400000 ≤ tb.total d

/-- R9 step 1: the total with a changeover taken off. -/
def Timebase.totalInDay (tb : Timebase) (d : Int) : Int :=
  if tb.passesDay d then tb.total d - 86400000 else tb.total d

/-- R9 step 2: the total after the limit. -/
def Timebase.totalLimited (tb : Timebase) (d : Int) : Int := max (-3600000) (tb.totalInDay d)

/-- R9: what the step event carries. -/
def Timebase.stepInfo (tb : Timebase) (d : Int) (cause : StepCause) : StepInfo where
  oldT := tb.t
  newT := tb.totalLimited d / 1000
  requested := d
  applied := if tb.totalInDay d < -3600000 then -3600000 - (1000 * tb.t + tb.fraction) else d
  cause := cause
  clamped := tb.totalInDay d < -3600000
  changeover := tb.passesDay d

/-- R9 steps 1, 3 and 4: the timebase after a step. An agreement step leaves the rejection history to R14. -/
def Timebase.stepped (tb : Timebase) (d : Int) (cause : StepCause) : Timebase :=
  { tb with
    t := tb.totalLimited d / 1000
    secPos := (tb.totalLimited d % 1000).toNat
    secLen := 1000
    tHigh := max (if tb.passesDay d then 0 else tb.tHigh) (tb.totalLimited d / 1000)
    slew := 0
    rejected := if cause = .sync then tb.rejected else [] }

/-- The timebase as the blocks find it at a changeover within a step: t has fallen by a day and t_high is 0 (log 7). -/
def Timebase.duringChangeover (tb : Timebase) : Timebase := { tb with t := tb.t - Config.day, tHigh := 0 }

/-- R9: the step event at the blocks before the Slave Clock Driver, in the order of the rule. -/
def Work.stepBlocks (b : Base) (w : Work) : Work :=
  (((w.serviceStep b).deriveAll b).noticeStep b).cueStep b

/-- R9 step 1: the changeover within a step. -/
def State.stepChangeover (d : Int) (s : State) : State :=
  if s.base.tbs.passesDay d then
    s.mapWork (Work.changeover { s.base with tbs := s.base.tbs.duringChangeover } true)
  else s

/-- R9: a step of `d` ms, its event, and TIME_STEPPED. -/
def State.stepBy (d : Int) (cause : StepCause) (s : State) : State :=
  let s1 := (s.stepChangeover d).mapTbs fun _ => s.base.tbs.stepped d cause
  let s2 := (s1.mapWork (Work.stepBlocks s1.base)).clockEvent (ClockLine.step s1.base.elapsed s1.base.tbs)
  s2.mapWork (Work.raise (.timeStepped (s.base.tbs.stepInfo d cause)))

/-! ### Setting (R6, R7) -/

/-- R6: the timebase after the first TIME SET. -/
def Timebase.setFirst (h m sec ms : Nat) (tb : Timebase) : Timebase :=
  let t := dayBase tb.c0 (3600 * h + 60 * m + sec)
  { tb with
    state := .free, t := t, secPos := ms, secLen := 1000, tHigh := t, slew := 0, rejected := []
    lastPulse := none, superviseFrom := none }

/-- R6: the first TIME SET, its initial step event, and TIME_STEPPED. -/
def State.setFirst (h m sec ms : Nat) (s : State) : State :=
  let s1 := s.mapTbs (Timebase.setFirst h m sec ms)
  let s2 := (s1.mapWork (Work.stepBlocks s1.base)).clockEvent (ClockLine.initialStep s1.base.elapsed s1.base.tbs)
  s2.mapWork (Work.raise .timeSteppedInitial)

/-- R7: the step amount for a carried clock time, the shorter way round the dial. -/
def Timebase.stepAmount (tb : Timebase) (h m sec ms : Nat) : Int :=
  (((3600 * h + 60 * m + sec) * 1000 + ms : Nat) - tb.clockMillis + 43200000) % 86400000 - 43200000

/-- R8: the snapshot of the timebase. -/
def Timebase.snapshot (tb : Timebase) : TimeSnapshot where
  state := tb.state
  clock := if tb.qualified then some tb.clockMillis else none
  t := tb.t
  fraction := tb.fraction
  tHigh := tb.tHigh
  slew := tb.slew
  c0 := tb.c0
  period := tb.period

/-! ### Synchronisation (R10 to R14) -/

/-- R10: whether a pulse is ignored. -/
def Timebase.ignores (elapsed : Nat) (tb : Timebase) : Bool :=
  tb.state == .unset ||
    match tb.lastPulse with
    | some p => elapsed - p < periodMillis tb.period / 2
    | none => false

/-- R10: the local position of a pulse. -/
def Timebase.localPosition (tb : Timebase) : Int :=
  match tb.period with
  | .second => tb.fraction
  | .minute => 1000 * (tb.t % 60) + tb.fraction

/-- R10: the offset of a pulse. -/
def Timebase.offset (tb : Timebase) : Int :=
  if 2 * tb.localPosition < periodMillis tb.period then tb.localPosition
  else tb.localPosition - periodMillis tb.period

/-- R11, R14: SYNC_REGAINED when the state was FREE or HOLDOVER. -/
def regained (previous : TbState) (o : Int) (agreement : Bool) : List ReportBody :=
  if previous = .free ∨ previous = .holdover then [.syncRegained previous o agreement] else []

/-- R11: the timebase after an accepted pulse of offset `o`. -/
def Timebase.accept (elapsed : Nat) (o : Int) (tb : Timebase) : Timebase :=
  { tb.discard with slew := o, rejected := [], lastPulse := some elapsed, state := .locked }

/-- R14: whether an offset agrees with the two held. -/
def agrees (o : Int) : List Int → Bool
  | [x, y] => (o - x).natAbs ≤ 100 && (o - y).natAbs ≤ 100
  | _ => false

/-- R14: an offset appended to the rejection history, which holds two. -/
def pushRejected (o : Int) : List Int → List Int
  | [] => [o]
  | [x] => [x, o]
  | _ :: y :: _ => [y, o]

/-- R14: the timebase after an agreement step. -/
def Timebase.agree (elapsed : Nat) (tb : Timebase) : Timebase :=
  { tb with rejected := [], lastPulse := some elapsed, state := .locked }

/-- R10, R11, R14: a sync pulse. -/
def State.syncPulse (s : State) : State :=
  let tb := s.base.tbs
  let o := tb.offset
  if tb.ignores s.base.elapsed then s
  else if o.natAbs ≤ 2000 then
    (s.mapTbs (Timebase.accept s.base.elapsed o)).mapWork (Work.raiseAll (regained tb.state o false))
  else if agrees o tb.rejected then
    ((s.stepBy (-o) .sync).mapTbs (Timebase.agree s.base.elapsed)).mapWork (Work.raiseAll (regained tb.state o true))
  else
    (s.mapTbs fun tb => { tb with rejected := pushRejected o tb.rejected }).mapWork
      (Work.raise (.syncRejected o (pushRejected o tb.rejected).length))

/-- R12: the loss of the pulse stream; it does something in LOCKED alone. -/
def State.losePulses (s : State) : State :=
  if s.base.tbs.state = .locked then
    (s.mapTbs fun tb => { tb with state := .holdover }).mapWork
      (Work.raise (.syncLost (s.base.elapsed - s.base.tbs.lastPulse.getD s.base.elapsed)))
  else s

/-- R2: a sync period taken. -/
def Timebase.setPeriod (elapsed : Nat) (p : SyncPeriod) (tb : Timebase) : Timebase :=
  if p = tb.period then tb
  else
    { tb with
      period := p
      rejected := []
      superviseFrom := if tb.state = .locked then some elapsed else tb.superviseFrom }

end Sys2Proof.Machine
end

