-- ==== Sys2Proof/Machine/Field.lean ====
section
/-!
DEFINITION. The Field Input Unit (chapter 10): filters, edges and their delivery, the lockout, and the override.
-/

namespace Sys2Proof.Machine

/-! ### Lines (R167) -/

/-- R167: whether a line is active. -/
def FieldLine.isActive (l : FieldLine) : Bool := l.filtered == l.active

/-- The line of a number. -/
def State.line (s : State) (n : Nat) : FieldLine := s.base.fiu.lines.getD n FieldLine.reset

/-- The field inputs changed. -/
def State.mapFiu (f : Fiu → Fiu) (s : State) : State := { s with base := { s.base with fiu := f s.base.fiu } }

/-- One line changed. -/
def State.setLine (n : Nat) (f : FieldLine → FieldLine) (s : State) : State :=
  s.mapFiu fun u => { u with lines := u.lines.modify n f }

/-! ### Override (R173 to R175) -/

/-- R173: the key condition. -/
def keyCondition (lines : List FieldLine) : Bool :=
  lines.any (fun l => l.role == .overrideKey) && lines.all fun l => l.role != .overrideKey || l.isActive

/-- R173: the override record with the key condition recomputed. -/
def Fiu.recompute (u : Fiu) : Fiu :=
  { u with keys := keyCondition u.lines, override := keyCondition u.lines || u.forced }

/-- R89, R148: override entry, at the Board Composer and the Cue Controller. -/
def Work.overrideEntry (b : Base) (w : Work) : Work := (w.deriveAll b).cueOverrideEntry b

/-- R89, R148: override exit, at the Board Composer and the Cue Controller. -/
def Work.overrideExit (b : Base) (w : Work) : Work := (w.deriveAll b).cueOverrideExit b

/-- R173: what follows when override was `was` and the record is as it now stands. -/
def State.followOverride (was : Bool) (cause : OverrideCause) (s : State) : State :=
  let u := s.base.fiu
  if u.override && !was then
    s.mapWork fun w => (w.raise (.overrideEntered cause u.keys u.forced)).overrideEntry s.base
  else if was && !u.override then
    s.mapWork fun w => (w.raise (.overrideExited cause u.keys u.forced)).overrideExit s.base
  else s

/-- R173: the key condition recomputed, with override entry or exit. -/
def State.settleOverride (cause : OverrideCause) (s : State) : State :=
  (s.mapFiu Fiu.recompute).followOverride s.base.fiu.override cause

/-- R174, R175: the forced flag set or cleared, with what follows. -/
def State.force (on : Bool) (cause : OverrideCause) (s : State) : State :=
  (s.mapFiu fun u => { u with forced := on }).settleOverride cause

/-! ### Edges (R171, R172) -/

/-- R172: an activating edge of a dispatch line. -/
def State.dispatchEdge (n p : Nat) (s : State) : State :=
  match (s.line n).lockoutEnd with
  | some e => s.mapWork (Work.raise (.dispatchIgnored n p (e - s.base.elapsed)))
  | none =>
    let r := s.work.dispatch s.base n p
    let s' : State := { s with work := r.1 }
    if r.2 && (s.line n).lockout > 0 then
      s'.setLine n fun l => { l with lockoutEnd := some (s.base.elapsed + 1000 * l.lockout) }
    else s'

/-- R171 step 3: an edge delivered by the line's role. -/
def State.deliverEdge (n : Nat) (s : State) : State :=
  let l := s.line n
  match l.role with
  | .unused => s
  | .dispatch p => if l.isActive then s.dispatchEdge n p else s
  | .overrideKey => s.settleOverride .keys
  | .sync => if l.isActive then s.syncPulse else s
  | .paOverride => s.mapWork (Work.paChange s.base l.isActive)
  | .playBusy => s.mapWork (Work.busyChange s.base l.isActive)
  | .sense k => if l.isActive then { s with scd := s.scd.modify k ClockLine.sensed } else s

/-- R176: the time an INPUT_EDGE report carries. -/
def Timebase.edgeTime (tb : Timebase) : Option (Int × Nat) := if tb.qualified then some (tb.t, tb.fraction) else none

/-- R171: the filtered level of a line takes a new value: mark, report, delivery. -/
def State.takeEdge (n : Nat) (v : Level) (s : State) : State :=
  let s1 := s.setLine n fun l => { l with filtered := v, disagree := 0, mark := true }
  let l := s1.line n
  let s2 := if l.reports then s1.mapWork (Work.raise (.inputEdge n l.role l.isActive s1.base.tbs.edgeTime)) else s1
  s2.deliverEdge n

/-- R171: EDGE: the raw level presents the value too (log 11, 22). A level the line already has is no edge. -/
def State.edge (n : Nat) (v : Level) (s : State) : State :=
  if (s.line n).filtered = v then s else (s.setLine n fun l => { l with raw := v }).takeEdge n v

/-! ### Filter and lockout (R170, R172) -/

/-- R170: one sample of a line that has a sample period. Each FILTER_SAMPLE is one, also in a millisecond that the idle step has
sampled, and it presents the raw level that it finds (log 11, 22). -/
def State.sample (n : Nat) (v : Level) (s : State) : State :=
  if (s.line n).filter.isNone then s
  else
    let s := s.setLine n fun l => { l with raw := v }
    if (s.line n).filtered = v then s.setLine n fun l => { l with disagree := 0 }
    else if 3 ≤ (s.line n).disagree + 1 then s.takeEdge n v
    else s.setLine n fun l => { l with disagree := l.disagree + 1 }

/-- R172: the lockout remaining becomes none. -/
def State.endLockout (n : Nat) (s : State) : State := s.setLine n fun l => { l with lockoutEnd := none }

/-! ### CONFIGURE LINE (R169) -/

/-- R169 steps 1 to 3: a line with its configuration stored. -/
def FieldLine.configure (role : Role) (active : Level) (filter : Option Nat) (reports : Bool) (lockout : Nat)
    (l : FieldLine) : FieldLine :=
  let l1 := { l with role, active, filter, reports, lockout }
  let l2 :=
    if role ≠ l.role ∨ active ≠ l.active ∨ filter ≠ l.filter then { l1 with filtered := l.raw, disagree := 0 } else l1
  if role ≠ l.role then { l2 with lockoutEnd := none } else l2

/-- R169 step 4: a role left by a line. -/
def State.leaveRole (old : Role) (s : State) : State :=
  match old with
  | .paOverride => s.mapWork (Work.paChange s.base false)
  | .playBusy => s.mapWork (Work.busyChange s.base false)
  | .sense k => { s with scd := s.scd.modify k (ClockLine.setSense none) }
  | _ => s

/-- R169 step 4: the role line `n` holds now, told to its consumer. -/
def State.tellRole (n : Nat) (s : State) : State :=
  match (s.line n).role with
  | .paOverride => s.mapWork (Work.paChange s.base (s.line n).isActive)
  | .playBusy => s.mapWork (Work.busyChange s.base (s.line n).isActive)
  | .sense k => { s with scd := s.scd.modify k (ClockLine.setSense (some n)) }
  | _ => s

/-- R169: an accepted section applied. -/
def State.configureField (n : Nat) (f : FieldLine → FieldLine) (s : State) : State :=
  let old := (s.line n).role
  let s1 := s.setLine n f
  let s2 := if (s1.line n).role = old then s1 else s1.leaveRole old
  (s2.tellRole n).settleOverride .keys

/-! ### Reading (R176) -/

/-- R176: a line's part of STATUS. -/
def FieldLine.view (elapsed : Nat) (l : FieldLine) : LineView where
  role := l.role
  activeLevel := l.active
  filter := l.filter
  reports := l.reports
  lockout := l.lockout
  raw := l.raw
  filtered := l.filtered
  active := l.isActive
  remaining := l.lockoutEnd.map fun e => e - elapsed
  mark := l.mark

end Sys2Proof.Machine
end

