-- ==== Sys2Proof/Machine/Layouts.lean ====
section
/-!
DEFINITION. The layouts of the host frames' payloads (11.7): what a well-formed frame is to be served as. SERVICE PUT and
TEXT LOAD are read byte by byte; the layouts the manual does not give are a free function of Config (log 4).
-/

namespace Sys2Proof.Machine

/-! ### SERVICE PUT -/

/-- 11.7: the flag of field `i` of a set of two bytes; the first field is in the most significant bit. -/
def fieldFlag (set i : Nat) : Bool := set.testBit (15 - i)

/-- 11.7: what one field of SERVICE PUT carries, by its flags in the presence set and in the none set. -/
def carriedBy {α : Type} (present isNone : Bool) (a : α) : Carried α :=
  match present, isNone with
  | false, false => .absent
  | false, true => .strayNone
  | true, true => .none
  | true, false => .value a

/-- 11.7: the bytes of the fields of SERVICE PUT, in order; `points` is the count of calling points carried. -/
def fieldSizes (points : Nat) : List Nat := [1, 2, 2, 4, 4, 1, 2, 4, 1 + 2 * points, 1, 4]

/-- 11.7: the bytes that the fields before field `i` take; a field that carries none takes none. -/
def fieldOffset (present isNone points i : Nat) : Nat :=
  (((fieldSizes points).zipIdx.take i).map fun p =>
    if fieldFlag present p.2 && !fieldFlag isNone p.2 then p.1 else 0).sum

/-- The byte at a place of a payload. -/
def byteAt (bs : List Byte) (i : Nat) : Byte := bs.getD i 0

/-- The two bytes at a place of a payload. -/
def wordAt (bs : List Byte) (i : Nat) : Nat := word (byteAt bs i) (byteAt bs (i + 1))

/-- 11.7: a message time: hours, minutes, seconds, and the day indicator as a signed byte. -/
def timeAt (bs : List Byte) (i : Nat) : MsgTime where
  h := (byteAt bs i).toNat
  m := (byteAt bs (i + 1)).toNat
  s := (byteAt bs (i + 2)).toNat
  day := (byteAt bs (i + 3)).toInt

/-- 11.7: a platform designator: the number and the suffix. -/
def designatorAt (bs : List Byte) (i : Nat) : Designator := ⟨(byteAt bs i).toNat, (byteAt bs (i + 1)).toNat⟩

/-- 11.7: the fields of SERVICE PUT, read where the sets place them. -/
def putFields (key : Key) (present isNone points : Nat) (bs : List Byte) : PutReq :=
  let at' := fieldOffset present isNone points
  { key := key
    cls := carriedBy (fieldFlag present 0) (fieldFlag isNone 0) (byteAt bs (at' 0)).toNat
    destination := carriedBy (fieldFlag present 1) (fieldFlag isNone 1) (wordAt bs (at' 1))
    via := carriedBy (fieldFlag present 2) (fieldFlag isNone 2) (wordAt bs (at' 2))
    scheduled := carriedBy (fieldFlag present 3) (fieldFlag isNone 3) (timeAt bs (at' 3))
    expected := carriedBy (fieldFlag present 4) (fieldFlag isNone 4) (timeAt bs (at' 4))
    status := carriedBy (fieldFlag present 5) (fieldFlag isNone 5) (Config.statusCode (byteAt bs (at' 5)))
    platform := carriedBy (fieldFlag present 6) (fieldFlag isNone 6) (designatorAt bs (at' 6))
    effective := carriedBy (fieldFlag present 7) (fieldFlag isNone 7) (timeAt bs (at' 7))
    calling := carriedBy (fieldFlag present 8) (fieldFlag isNone 8)
      ((List.range points).map fun k => wordAt bs (at' 8 + 1 + 2 * k))
    coaches := carriedBy (fieldFlag present 9) (fieldFlag isNone 9) (byteAt bs (at' 9)).toNat
    actual := carriedBy (fieldFlag present 10) (fieldFlag isNone 10) (timeAt bs (at' 10)) }

/-- 11.7: the count of calling points, none where the byte that holds it is not carried. -/
def pointCount (present isNone : Nat) (bs : List Byte) : Option Nat :=
  if fieldFlag present 8 && !fieldFlag isNone 8 then (bs[fieldOffset present isNone 0 8]?).map BitVec.toNat else some 0

/-- 11.7: a payload of SERVICE PUT. -/
def readPut (payload : List Byte) : Reading :=
  match payload with
  | [] => .misfit 0
  | k :: rest =>
    match rest.drop k.toNat with
    | p0 :: p1 :: n0 :: n1 :: bs =>
      match pointCount (word p0 p1) (word n0 n1) bs with
      | some points =>
        let size := 5 + k.toNat + fieldOffset (word p0 p1) (word n0 n1) points 11
        if payload.length = size then
          .request (.servicePut (putFields (rest.take k.toNat) (word p0 p1) (word n0 n1) points bs))
        else .misfit size
      | none => .misfit 0
    | _ => .misfit 0

/-! ### TEXT LOAD -/

/-- 11.7: items of TEXT LOAD, with the bytes they take; none where a text length is not carried. -/
def readItems : Nat → List Byte → Option (List TextItem × Nat)
  | 0, _ => some ([], 0)
  | n + 1, i0 :: i1 :: c0 :: c1 :: len :: bs =>
    (readItems n (bs.drop len.toNat)).map fun r =>
      (⟨word i0 i1, bs.take len.toNat, if word c0 c1 = 0xFFFF then none else some (word c0 c1)⟩ :: r.1,
        5 + len.toNat + r.2)
  | _ + 1, _ => none

/-- 11.7: a payload of TEXT LOAD. Where the length computed from the counts and text lengths is more than the longest payload
holds, no length fits, and BAD_LENGTH names 0: the model's choice (log 4). -/
def readTexts (payload : List Byte) : Reading :=
  match payload with
  | [] => .misfit 0
  | n :: bs =>
    match readItems n.toNat bs with
    | some (items, size) =>
      if bs.length = size then .request (.textLoad items)
      else .misfit (if 1 + size ≤ Config.maxPayload then 1 + size else 0)
    | none => .misfit 0

/-! ### Frames (R180 steps 1 and 2) -/

/-- A request that carries no field: its payload is empty (DEDUCED, log 4). -/
def readEmpty (r : Request) (payload : List Byte) : Reading := if payload = [] then .request r else .misfit 0

/-- R180 step 2: a payload read by the layout of its request; the free layouts give a request of that name alone. -/
def readPayload (name : ReqName) (payload : List Byte) : Reading :=
  match name with
  | .servicePut => readPut payload
  | .textLoad => readTexts payload
  | .identify => readEmpty .identify payload
  | .timeGet => readEmpty .timeGet payload
  | .status => readEmpty .status payload
  | .restart => readEmpty .restart payload
  | n =>
    match Config.layout n payload with
    | .request r => if r.name = n then .request r else .misfit 0
    | .misfit e => .misfit e

/-- R180 steps 1 and 2: what a frame is to be served as. The top bit of a kind marks a reply or a report (11.7). -/
def frameOf (kind : Byte) (payload : List Byte) : Frame :=
  if kind.msb then .unknown kind
  else
    match Config.kindName kind with
    | none => .unknown kind
    | some n =>
      match readPayload n payload with
      | .request r => .request r
      | .misfit e => .misfit n e

end Sys2Proof.Machine
end

