-- ==== Sys2Proof/Machine/Link.lean ====
section
/-!
DEFINITION. The Host Link Unit (chapter 11): the receiver, the inbound queue, the transmitter, RESTART, and the STATUS and
IDENTIFY replies.
-/

namespace Sys2Proof.Machine

/-! ### The receiver (R178) -/

/-- What a byte received brings about. -/
inductive Received | nothing | badLength | badCheck | frame (kind tag : Byte) (payload : List Byte)
  deriving DecidableEq, Repr, Inhabited

/-- R178: a whole frame judged: length bytes, kind, tag, payload and the two check bytes. -/
def judgeFrame (got : List Byte) : Received :=
  let covered := got.take (got.length - 2)
  match got.drop (got.length - 2), covered with
  | [x, y], _ :: _ :: kind :: tag :: payload =>
    if (crc16 covered).toNat = word x y then .frame kind tag payload else .badCheck
  | _, _ => .badCheck

/-- R178: one byte taken by the receiver. -/
def Receiver.take (elapsed : Nat) (x : Byte) : Receiver → Receiver × Received
  | .hunt => if x = 0xA5 then (.length elapsed [], .nothing) else (.hunt, .nothing)
  | .length start [] => (.length start [x], .nothing)
  | .length start (y :: _) =>
    if 2 ≤ word y x ∧ word y x ≤ 1026 then (.body start (word y x + 2) [y, x], .nothing) else (.hunt, .badLength)
  | .body start need got =>
    if need ≤ 1 then (.hunt, judgeFrame (got ++ [x])) else (.body start (need - 1) (got ++ [x]), .nothing)

/-! ### The inbound queue (R179, R186) -/

/-- R179: a well-formed frame queued, refused BUSY, or lost to overrun. -/
def Hlu.arrive (tag : Byte) (frame : Frame) (h : Hlu) : Hlu :=
  let h' := { h with arrivals := h.arrivals + 1 }
  if h.inbound.length < Config.maxInbound then
    { h' with inbound := h.inbound ++ [⟨h.arrivals, tag, frame, .waiting, false⟩] }
  else if h.busy.length < Config.maxBusy then
    { h' with busy := h.busy ++ [⟨h.arrivals, tag, frame⟩], busyReplies := h.busyReplies + 1 }
  else { h' with overruns := h.overruns + 1 }

/-- R179, R186: a well-formed frame. -/
def Work.wellFormed (b : Base) (tag : Byte) (frame : Frame) (w : Work) : Work :=
  ({ w with hlu := { w.hlu.arrive tag frame with feedCount := 0 } } : Work).restoreFeed b

/-- R178: what a byte received does. -/
def Work.received (b : Base) (r : Received) (w : Work) : Work :=
  match r with
  | .nothing => w
  | .badLength => { w with hlu := { w.hlu with badLengths := w.hlu.badLengths + 1 } }
  | .badCheck => { w with hlu := { w.hlu with badChecks := w.hlu.badChecks + 1 } }
  | .frame kind tag payload => w.wellFormed b tag (frameOf kind payload)

/-- R178: one byte on the host link. -/
def Work.hostByte (b : Base) (w : Work) (x : Byte) : Work :=
  let r := w.hlu.rx.take b.elapsed x
  ({ w with hlu := { w.hlu with rx := r.1 } } : Work).received b r.2

/-- R178: the 50 ms limit. -/
def Hlu.timeOut (h : Hlu) : Hlu :=
  if h.rx = .hunt then h else { h with rx := .hunt, frameTimeouts := h.frameTimeouts + 1 }

/-- R178: whether the frame being received has had its 50 ms: its last check byte is to come before they are full
(log 24). -/
def Receiver.overdue (elapsed : Nat) : Receiver → Bool
  | .hunt => false
  | .length start _ => start + Config.frameLimit ≤ elapsed
  | .body start _ _ => start + Config.frameLimit ≤ elapsed

/-- R178: bytes on the host link, in order; a frame whose limit has passed is discarded before they are examined. -/
def Work.hostBytes (b : Base) (xs : List Byte) (w : Work) : Work :=
  xs.foldl (Work.hostByte b) (if w.hlu.rx.overdue b.elapsed then { w with hlu := w.hlu.timeOut } else w)

/-! ### Serving (R180) -/

/-- R180: an entry answered. An accepted RESTART waits for its reply to be sent (R187). -/
def Inbound.answer (restart : Bool) (r : Reply) (e : Inbound) : Inbound :=
  { e with progress := .answered r, restart := restart && r.result == .ok }

/-- R180, R187: the request the Host Link Unit serves next: the oldest not yet served, once the one before it has been
answered and no RESTART waits to take effect. -/
def nextToServe : List Inbound → Option Inbound
  | [] => none
  | e :: es =>
    match e.progress with
    | .waiting => some e
    | .inService => none
    | .answered _ => if e.restart then none else nextToServe es

/-- An entry of the inbound queue changed. -/
def Hlu.updateInbound (arrival : Nat) (f : Inbound → Inbound) (h : Hlu) : Hlu :=
  { h with inbound := h.inbound.map fun e => if e.arrival == arrival then f e else e }

/-- The state with its Host Link Unit changed. -/
def State.mapHlu (f : Hlu → Hlu) (s : State) : State := s.mapWork fun w => { w with hlu := f w.hlu }

/-- R180: what an owner answers: a reply, or none yet (R166: the reply then follows the impulse's end). -/
abbrev Served := State × Option Reply

/-- The reply the request in service gets when its impulse has ended (R166). -/
def Hlu.answerInService (r : Reply) (h : Hlu) : Hlu :=
  { h with inbound := h.inbound.map fun e => if e.progress = .inService then e.answer false r else e }

/-! ### The transmitter (R181) -/

/-- R181: the reply of a served request that waits, of the frame that arrived first. -/
def Hlu.firstReply (h : Hlu) : Option Nat :=
  (h.inbound.find? fun e => match e.progress with | .answered _ => true | _ => false).map Inbound.arrival

/-- R181: the BUSY reply of the frame that arrived first. -/
def Hlu.firstBusy (h : Hlu) : Option Nat := h.busy.head?.map BusyPlace.arrival

/-- R181: the next frame to send. -/
def Hlu.nextSending (h : Hlu) : Option Sending :=
  match h.firstReply, h.firstBusy with
  | some a, some c => if a < c then some (.reply a) else some (.busy c)
  | some a, none => some (.reply a)
  | none, some c => some (.busy c)
  | none, none => if h.reports.isEmpty then none else some .report

/-- R181: the transmitter, when free, given its next frame. -/
def Hlu.pump (h : Hlu) : Hlu :=
  match h.tx with
  | none => { h with tx := h.nextSending }
  | some _ => h

/-- The end of every command (log 30). -/
def State.finish (s : State) : State := s.mapHlu Hlu.pump

/-- R181, R182: the place of the frame just sent freed. -/
def Hlu.freePlace (x : Sending) (h : Hlu) : Hlu :=
  match x with
  | .reply a => { h with inbound := h.inbound.filter fun e => e.arrival != a, tx := none }
  | .busy a => { h with busy := h.busy.filter fun e => e.arrival != a, tx := none }
  | .report => { h with reports := h.reports.tail, tx := none }

/-! ### RESTART (R187) -/

/-- R175: the forced flag cleared and the key condition recomputed at RESTART. -/
def Fiu.restart (u : Fiu) : Fiu := ({ u with forced := false } : Fiu).recompute

/-- R19, R107, R151: the service table emptied, the watches freed, the cue queue emptied and the link settled. -/
def Work.clearTables (w : Work) : Work :=
  ({ w with svt := { w.svt with services := [] } } : Work).clearNotices.restartCues

/-- R175: the exit from override at RESTART; the Board Composer's part follows with its recomposition. -/
def Work.restartOverride (b : Base) (was : Bool) (w : Work) : Work :=
  if was && !b.fiu.override then
    (w.raise (.overrideExited .restart b.fiu.keys b.fiu.forced)).cueOverrideExit b
  else w

/-- R187: the feed at RESTART. -/
def Work.restartFeed (w : Work) : Work :=
  let w' : Work := { w with hlu := { w.hlu with feedCount := 0, degraded := false } }
  if w.hlu.degraded then w'.raise .feedRestored else w'

/-- R65, R106: the wall at RESTART: queues discarded and drained, and the boards recomposed once every string has drained;
until then the boards are derived if override or DEGRADED has ended. -/
def Work.restartWall (b : Base) (changed : Bool) (w : Work) : Work :=
  let w := w.drainStrings.clearBoards.drainCheck b
  if w.bcp.recompose && changed then w.deriveAll b else w

/-- R187: RESTART takes effect in every block (log 10). -/
def State.restartEffect (s : State) : State :=
  let was := s.base.fiu.override
  let s := s.mapFiu Fiu.restart
  let changed := (was && !s.base.fiu.override) || s.work.hlu.degraded
  s.mapWork fun w => ((w.clearTables.restartOverride s.base was).restartFeed).restartWall s.base changed

/-- R181, R187: the last byte of a frame has gone out. -/
def State.frameSent (s : State) : State :=
  match s.work.hlu.tx with
  | none => s
  | some x =>
    let restarts := match x with
      | .reply a => s.work.hlu.inbound.any fun e => e.arrival == a && e.restart
      | _ => false
    (if restarts then s.restartEffect else s).mapHlu (Hlu.freePlace x)

/-! ### STATUS and IDENTIFY (R184, R185) -/

/-- R123: a place of the rule table in STATUS. A TERM has no priority (R107) and no holder count (R109): the model gives its
stored priority, which is 0, and the number of services whose held set names it, which is 0 (log 51). -/
def Work.ruleView (w : Work) (n : Nat) : Option RuleView :=
  (w.nre.rule n).map fun r => ⟨r.kind, r.enabled, r.priority, w.svt.holders n⟩

/-- R123: a watch slot. -/
def slotView (x : Slot) : SlotView := ⟨x.head, x.key, x.mode⟩

/-- R152: a cue entry. -/
def CueEntry.view (e : CueEntry) : CueView := ⟨e.number, e.key, e.source, e.priority, e.state, e.seq, e.latest⟩

/-- R185: the STATUS reply. -/
def State.statusView (s : State) : StatusView where
  timebase := s.base.tbs.state
  validCount := s.work.svt.services.length
  tableEmpty := s.work.svt.services.isEmpty
  override := s.base.fiu.override
  degraded := s.work.hlu.degraded
  feedTimeout := s.work.hlu.feedTimeout
  feedCount := s.work.hlu.feedCount
  mask := s.work.hlu.mask
  reportNumber := s.work.hlu.number
  reportsLost := s.work.hlu.lost
  inbound := s.work.hlu.inbound.length
  busy := s.work.hlu.busy.length
  badChecks := s.work.hlu.badChecks
  badLengths := s.work.hlu.badLengths
  frameTimeouts := s.work.hlu.frameTimeouts
  busyReplies := s.work.hlu.busyReplies
  overruns := s.work.hlu.overruns
  strings := s.work.wsc.map WallString.view
  rules := (List.range Config.ruleCount).map s.work.ruleView
  slots := s.work.nre.slots.map (Option.map slotView)
  link := s.work.cuc.link
  disablePending := s.work.cuc.disablePending
  resume := s.work.cuc.resume
  playBusy := s.work.cuc.busy
  paOverride := s.work.cuc.paOverride
  cues := s.work.cuc.queue.map CueEntry.view
  clocks := s.scd.map (ClockLine.view s.base.tbs)
  lines := s.base.fiu.lines.map (FieldLine.view s.base.elapsed)
  forced := s.base.fiu.forced
  keys := s.base.fiu.keys
  overrideActive := s.base.fiu.override

/-- R185: what answering STATUS clears. -/
def State.statusClears (s : State) : State :=
  let s := s.mapFiu fun u => { u with lines := u.lines.map fun l => { l with mark := false } }
  s.mapWork fun w => { w with hlu := { w.hlu with lost := false }, wsc := w.wsc.map WallString.readPeak }

/-- R184: the capacities. -/
def capacities : Capacities where
  services := 192
  callingPoints := 20
  textEntries := 1024
  textLength := 32
  boards := 16
  boardRows := 24
  strings := 4
  modules := 63
  frameQueue := 48
  rules := 64
  terms := 4
  slots := 24
  templates := 64
  items := 12
  cues := 32
  phrases := 48
  clocks := 4
  lines := 16
  inbound := 4
  reports := 24
  payload := 1024

/-- The characters of "Gajhen". -/
def familyName : List Byte := [0x47, 0x61, 0x6A, 0x68, 0x65, 0x6E]

/-- The characters of "CI-62". -/
def partName : List Byte := [0x43, 0x49, 0x2D, 0x36, 0x32]

/-- R184: the IDENTIFY reply. -/
def identity : ReplyBody := .identity familyName partName Config.siliconRevision Config.hostRate capacities

/-- R183: the mask a carried set gives, its members in the order of the rule; none when a name is unknown. -/
def maskOf (cs : List (Option ReportClass)) : Option (List ReportClass) :=
  if cs.contains none then none else some (allClasses.filter fun c => cs.contains (some c))

end Sys2Proof.Machine
end

