-- ==== Sys2Proof/Machine/Operands.lean ====
section
/-!
DEFINITION. The checks each request makes before it changes anything (R2, R20, R37, R38, R55, R61, R91, R119, R121, R131,
R132, R135, R154, R168), each answering the refusal or none, and the values an accepted request stores.
-/

namespace Sys2Proof.Machine

/-- The first of two refusals in order. -/
def firstRefusal (a b : Option Reply) : Option Reply :=
  match a with
  | some r => some r
  | none => b

/-- A refusal BAD_FIELD naming the first failing field. -/
def badFields (cs : List (FieldId × Bool)) : Option Reply := (firstFailing cs).map Reply.badField

/-- The members of a carried set, ascending and without repeats. -/
def asSet (xs : List Nat) : List Nat := xs.foldr insertNat []

/-! ### Keys and carried fields -/

/-- R17: whether a key is 1..8 characters A–Z, 0–9. -/
def keyForm (k : Key) : Bool :=
  1 ≤ k.length && k.length ≤ 8 &&
    k.all fun c => (0x41 ≤ c.toNat && c.toNat ≤ 0x5A) || (0x30 ≤ c.toNat && c.toNat ≤ 0x39)

/-- R20 check 2: whether a field that may not carry none fails. -/
def badRequired {α : Type} (bad : α → Bool) : Carried α → Bool
  | .absent => false
  | .strayNone => true
  | .none => true
  | .value a => bad a

/-- R20 check 2: whether a field that may carry none fails. -/
def badOptional {α : Type} (bad : α → Bool) : Carried α → Bool
  | .absent => false
  | .strayNone => true
  | .none => false
  | .value a => bad a

/-- R17: whether a designator is out of range. -/
def badDesignator (d : Designator) : Bool := !(1 ≤ d.num && d.num ≤ 40 && d.suffix ≤ 2)

/-- Whether a text index is out of the store. -/
def badText (i : Nat) : Bool := Config.textEntries ≤ i

/-- R41: whether a message time is refused. -/
def badTime (c0 : Nat) (m : MsgTime) : Bool := (convertTime c0 m).isNone

/-- Whether a field carries a value. -/
def hasValue {α : Type} : Carried α → Bool
  | .value _ => true
  | _ => false

/-! ### SERVICE PUT (R20) -/

/-- R20 check 2: form and range, in the order of the field table. -/
def putForm (c0 : Nat) (r : PutReq) : Option Reply :=
  badFields
    [(.key, !keyForm r.key),
     (.cls, badRequired (fun c => 15 < c) r.cls),
     (.destination, badRequired badText r.destination),
     (.via, badOptional badText r.via),
     (.scheduled, badRequired (badTime c0) r.scheduled),
     (.expected, badOptional (badTime c0) r.expected),
     (.status, badRequired Option.isNone r.status),
     (.platform, badOptional badDesignator r.platform),
     (.effective, badRequired (badTime c0) r.effective || (hasValue r.effective && !hasValue r.platform)),
     (.calling, badRequired (fun is => Config.maxCalling < is.length || is.any badText) r.calling),
     (.coaches, badOptional (fun n => !(1 ≤ n && n ≤ 16)) r.coaches),
     (.actual, badOptional (badTime c0) r.actual)]

/-- R20 checks 3 and 4: a creation needs destination and scheduled; an actual departure held is not carried again. -/
def putHolds (x : Option Service) (r : PutReq) : Option Reply :=
  match x with
  | none => badFields [(.destination, !hasValue r.destination), (.scheduled, !hasValue r.scheduled)]
  | some x => if x.actual.isSome && isPresent r.actual then some (Reply.state .actual) else none

/-- R20 checks 1 to 4. -/
def putRefusal (s : State) (r : PutReq) : Option Reply :=
  if s.base.tbs.state = .unset then some (Reply.state .timebase)
  else firstRefusal (putForm s.base.tbs.c0 r) (putHolds (s.work.svt.find r.key) r)

/-! ### CONFIGURE GENERAL (R2, R18, R40, R63, R186) -/

/-- R180: a field after a section that may leave it out. -/
def orHeld {α : Type} (o : Option α) (held : α) : α := o.getD held

/-- The service table's fields after a CONFIGURE GENERAL section. -/
def Svt.configure (r : GeneralReq) (v : Svt) : Svt :=
  { v with
    overdue := orHeld r.overdue v.overdue
    retain := orHeld r.retain v.retain
    abandon := orHeld r.abandon v.abandon
    window := orHeld r.window v.window
    departing := orHeld r.departing v.departing }

/-- The Board Composer's fields after a CONFIGURE GENERAL section. -/
def Bcp.configure (r : GeneralReq) (v : Bcp) : Bcp :=
  { v with
    tolerance := orHeld r.tolerance v.tolerance
    flashTime := orHeld r.flashTime v.flashTime
    startText := orHeld r.startText v.startText
    degradedText := orHeld r.degradedText v.degradedText
    overrideText := orHeld r.overrideText v.overrideText }

/-- R2: the timebase's fields after a CONFIGURE GENERAL section. -/
def Timebase.configure (elapsed : Nat) (r : GeneralReq) (tb : Timebase) : Timebase :=
  ({ tb with c0 := orHeld r.c0 tb.c0 } : Timebase).setPeriod elapsed (argOr tb.period r.period)

/-- The ranges of the section, in the order of the chapters, and R18's relation of the abandon time. -/
def generalForm (v : Svt) (r : GeneralReq) : Option Reply :=
  let v' := v.configure r
  badFields
    [(.c0, outside 0 1439 r.c0),
     (.syncPeriod, argUnknown r.period),
     (.overdue, outside 0 240 r.overdue),
     (.retain, outside 1 240 r.retain),
     (.abandon, outside 30 720 r.abandon || v'.abandon < v'.retain || v'.abandon < v'.overdue),
     (.window, outside 0 1800 r.window),
     (.departing, outside 10 300 r.departing),
     (.tolerance, outside 0 5 r.tolerance),
     (.flashTime, outside 0 120 r.flashTime),
     (.startText, outside 0 1023 r.startText),
     (.degradedText, outside 0 1023 r.degradedText),
     (.overrideText, outside 0 1023 r.overrideText),
     (.feedTimeout, outside 10 600 r.feedTimeout && r.feedTimeout != some 0)]

/-- R2: a C0 that differs from the one held is not taken while the timebase is qualified. -/
def generalState (tb : Timebase) (r : GeneralReq) : Option Reply :=
  if tb.qualified && orHeld r.c0 tb.c0 != tb.c0 then some (Reply.state .c0) else none

/-- The refusal of a CONFIGURE GENERAL section (log 14). -/
def generalRefusal (s : State) (r : GeneralReq) : Option Reply :=
  firstRefusal (generalForm s.work.svt r) (generalState s.base.tbs r)

/-! ### CONFIGURE BOARD (R61) -/

/-- R61 checks 1 to 3. -/
def boardForm (n : Nat) (r : BoardReq) : Option Reply :=
  badFields
    [(.boardNumber, 15 < n),
     (.enabled, argUnknown r.enabled),
     (.string, outsideRequired 0 3 r.string),
     (.firstModule, outsideRequired 1 63 r.first),
     (.rows, outsideRequired 1 24 r.rows),
     (.kind, argMissing r.kind),
     (.platformFilter, (r.platforms.getD []).any fun p => !(1 ≤ p && p ≤ 40)),
     (.classFilter, (r.classes.getD []).any fun c => 15 < c),
     (.horizon, outside 10 720 r.horizon),
     (.fixedRows, outside 0 (r.rows.getD 0) r.fixed),
     (.firstModule, Config.maxModule < r.first.getD 0 + r.rows.getD 0 - 1)]

/-- R61: the record a section carries, with its defaults; the page period is clamped. -/
def boardRecord (r : BoardReq) : BoardRec where
  enabled := argOr true r.enabled
  string := r.string.getD 0
  first := r.first.getD 1
  rows := r.rows.getD 1
  kind := argOr .list r.kind
  platforms := asSet (r.platforms.getD [])
  classes := asSet (r.classes.getD [])
  horizon := r.horizon.getD 120
  fixed := r.fixed.getD 0
  period := clamp 5 60 (r.period.getD 10)
  showDue := r.showDue.getD true
  showExpected := r.showExpected.getD true
  showCoaches := r.showCoaches.getD false

/-- R61 check 4: whether two records have a module address in common. -/
def BoardRec.meets (x y : BoardRec) : Bool :=
  x.string == y.string && x.first < y.first + y.rows && y.first < x.first + x.rows

/-- R61 check 4: whether another configured board's addresses meet a record's. Where several boards do, the rule does not say
which of them the reply names: the lowest-numbered, as the model chooses (log 14). -/
def Work.boardMeeting (w : Work) (n : Nat) (x : BoardRec) : Option Nat :=
  (List.range 16).find? fun m => m != n && match w.board m with | some bd => bd.record.meets x | none => false

/-- R61: the refusal of a CONFIGURE BOARD section. -/
def boardRefusal (s : State) (n : Nat) (r : BoardReq) : Option Reply :=
  firstRefusal (boardForm n r) ((s.work.boardMeeting n (boardRecord r)).map Reply.inUse)

/-- A clamped field, named when the value stored differs from the value carried. -/
def clampNote (f : FieldId) (carried : Option Nat) (stored : Nat) : List (FieldId × Nat) :=
  match carried with
  | some v => if v = stored then [] else [(f, stored)]
  | none => []

/-! ### CONFIGURE STRING (R91) and CONFIGURE LINE (R168) -/

/-- R91: the refusal of a CONFIGURE STRING section. -/
def stringRefusal (n : Nat) (r : StringReq) : Option Reply :=
  badFields [(.stringNumber, 3 < n), (.enabled, argUnknown r.enabled), (.lineRate, argUnknown r.rate)]

/-- R168: whether a role carries a number out of its range. -/
def badRole : Arg Role → Bool
  | .is (.dispatch p) => !(1 ≤ p && p ≤ 40)
  | .is (.sense k) => 3 < k
  | .is _ => false
  | _ => true

/-- R168: whether a filter is none of the sample periods. -/
def badFilter : Arg (Option Nat) → Bool
  | .is (some p) => !(p == 1 || p == 4 || p == 16 || p == 64)
  | .unknown => true
  | _ => false

/-- R168 check 1, in the order of R167's fields. The rule lists no refusal for edge reports that are neither on nor off: they
are a field without a value of its range, refused by R180 (log 49). -/
def lineForm (n : Nat) (r : LineReq) : Option Reply :=
  badFields
    [(.lineNumber, 15 < n), (.role, badRole r.role), (.activeLevel, argUnknown r.active), (.filter, badFilter r.filter),
     (.edgeReports, argUnknown r.reports), (.lockout, outside 0 60 r.lockout)]

/-- R168: the roles that one line alone may hold. -/
def exclusiveRole : Role → Bool
  | .sync | .paOverride | .playBusy | .sense _ => true
  | _ => false

/-- R168 check 2: the line other than `n` that holds an exclusive role. -/
def roleHolder (lines : List FieldLine) (n : Nat) (role : Role) : Option Nat :=
  if exclusiveRole role then
    (List.range 16).find? fun m => m != n && (lines.getD m FieldLine.reset).role == role
  else none

/-- R168: the refusal of a CONFIGURE LINE section. -/
def lineRefusal (s : State) (n : Nat) (r : LineReq) : Option Reply :=
  firstRefusal (lineForm n r) ((roleHolder s.base.fiu.lines n (argOr .unused r.role)).map Reply.inUse)

/-- R168, R169: a line with an accepted section stored. -/
def lineConfigured (r : LineReq) : FieldLine → FieldLine :=
  FieldLine.configure (argOr .unused r.role) (argOr .high r.active) (argOr none r.filter) (argOr false r.reports)
    (r.lockout.getD 10)

/-! ### CONFIGURE CLOCK LINE (R154) -/

/-- R154: whether the indicated field is refused, for the kind carried and the kind held. -/
def badIndicated (carried held : ClockKind) : Arg Indicated → Bool
  | .is .keep => carried != held
  | .is (.reading h m s) => !readingFits carried h m s
  | _ => true

/-- R154: the refusal of a CONFIGURE CLOCK LINE section. -/
def clockRefusal (s : State) (n : Nat) (r : ClockReq) : Option Reply :=
  badFields
    [(.clockLine, 3 < n), (.active, argUnknown r.active), (.kind, argMissing r.kind),
     (.indicated, badIndicated (argOr .minute r.kind) (s.clock n).kind r.indicated),
     (.polarity, argUnknown r.polarity), (.hold, outside 0 360 r.hold)]

/-- R154: an accepted section in the form in which it is applied. -/
def clockSection (r : ClockReq) : ClockSection where
  active := argOr true r.active
  kind := argOr .minute r.kind
  position := match r.indicated with
    | .is (.reading h m s) => some (positionOf (argOr .minute r.kind) h m s)
    | _ => none
  polarity := argOr none r.polarity
  width := clamp 100 1000 (r.width.getD 300)
  gap := clamp 200 2000 (r.gap.getD 700)
  hold := r.hold.getD 60
  clampedWidth := outside 100 1000 r.width
  clampedGap := outside 200 2000 r.gap

/-- R154, R166: the reply to an accepted section, with the record as stored. -/
def clockReply (x : ClockSection) (v : ClockView) : Reply :=
  Reply.clampedOr
    ((if x.clampedWidth then [(FieldId.width, x.width)] else []) ++ (if x.clampedGap then [(FieldId.gap, x.gap)] else []))
    (.clock v)

/-! ### CONFIGURE CUE LINK (R132) -/

/-- R132: whether a carried zone map is refused. -/
def badZones (zs : Option (List (Nat × List Nat))) : Bool :=
  match zs with
  | none => false
  | some es =>
    !(1 ≤ es.length && es.length ≤ 40)
      || es.any fun e => !(1 ≤ e.1 && e.1 ≤ 40) || e.2.any fun z => !(1 ≤ z && z ≤ 8)

/-- R132: the ranges of the section, in the order of its table. -/
def cueLinkForm (r : CueLinkReq) : Option Reply :=
  badFields
    [(.enabled, argUnknown r.enabled), (.lineRate, argUnknown r.rate), (.phraseWidth, argUnknown r.width),
     (.numberBase, outside 0 3096 r.numberBase), (.hourBase, outside 0 4072 r.hourBase),
     (.minuteBase, outside 0 4036 r.minuteBase), (.suffixA, outside 0 4095 r.suffixA),
     (.suffixB, outside 0 4095 r.suffixB), (.truncation, outside 0 4095 r.truncation), (.zoneMap, badZones r.zones),
     (.overrideTemplate, outside 0 63 (r.overrideTemplate.getD none))]

/-- R149: enabled yes is refused while disable pending is set. The rule does not say what the reply names: disable pending,
as the model chooses (log 14). -/
def cueLinkState (c : Cuc) (r : CueLinkReq) : Option Reply :=
  if c.disablePending && r.enabled == .is true then some (Reply.state .disablePending) else none

/-- R132, R149: the refusal of a CONFIGURE CUE LINK section (log 14). -/
def cueLinkRefusal (s : State) (r : CueLinkReq) : Option Reply :=
  firstRefusal (cueLinkForm r) (cueLinkState s.work.cuc r)

/-- R132: the zone map after the carried entries, taken in order (log 23). -/
def putZones (held : List (List Nat)) (es : List (Nat × List Nat)) : List (List Nat) :=
  es.foldl (fun m e => m.set (e.1 - 1) (asSet e.2)) held

/-- R132: the configuration after an accepted section. -/
def CueConfig.put (r : CueLinkReq) (c : CueConfig) : CueConfig where
  enabled := argOr c.enabled r.enabled
  rate := argOr c.rate r.rate
  width := argOr c.width r.width
  numberBase := orHeld r.numberBase c.numberBase
  hourBase := orHeld r.hourBase c.hourBase
  minuteBase := orHeld r.minuteBase c.minuteBase
  suffixA := orHeld r.suffixA c.suffixA
  suffixB := orHeld r.suffixB c.suffixB
  truncation := orHeld r.truncation c.truncation
  zones := putZones c.zones (r.zones.getD [])
  overrideTemplate := orHeld r.overrideTemplate c.overrideTemplate
  resumeDelay := min 30 (orHeld r.resumeDelay c.resumeDelay)

/-! ### TEXT LOAD (R55) -/

/-- The first item that satisfies `bad`, with its position counted from 0 (log 14). -/
def firstItem (bad : TextItem → Bool) : Nat → List TextItem → Option FieldId
  | _, [] => none
  | i, x :: xs => if bad x then some (.item i x.index) else firstItem bad (i + 1) xs

/-- R55 check 3: the first item whose index an earlier item names. Of two indexes that are each repeated the rule does not say
which is named: the model names the earliest item that repeats one (log 14). -/
def firstRepeat : List Nat → Nat → List TextItem → Option FieldId
  | _, _, [] => none
  | seen, i, x :: xs => if seen.contains x.index then some (.item i x.index) else firstRepeat (x.index :: seen) (i + 1) xs

/-- R54: whether a character is printable. -/
def printable (c : Byte) : Bool := (0x20 ≤ c.toNat && c.toNat ≤ 0x7E) || 0xA0 ≤ c.toNat

/-- R55: the refusal of a TEXT LOAD. -/
def textRefusal (items : List TextItem) : Option Reply :=
  if !(1 ≤ items.length && items.length ≤ Config.maxItems) then some (Reply.badField .itemCount)
  else
    ((((((firstItem (fun x => badText x.index) 0 items).or
      (firstRepeat [] 0 items)).or
      (firstItem (fun x => Config.maxText < x.text.length) 0 items)).or
      (firstItem (fun x => x.text.any fun c => !printable c) 0 items)).or
      (firstItem (fun x => outside 0 4095 x.phrase) 0 items))).map Reply.badField

/-- R56: the entries after the items are written. -/
def putTexts (txs : List TextEntry) (items : List TextItem) : List TextEntry :=
  items.foldl (fun m x => m.set x.index ⟨x.text, x.phrase⟩) txs

/-- R56: the changed set. -/
def changedTexts (txs : List TextEntry) (items : List TextItem) : List Nat :=
  (items.filter fun x => (textEntry txs x.index).text != x.text).map TextItem.index

/-! ### RULE PUT and RULE DROP (R119, R121) -/

/-- Whether a range lo..hi is malformed or ends above `top`. -/
def badRange (top : Nat) : Option (Nat × Nat) → Bool
  | some (lo, hi) => hi < lo || top < hi
  | none => false

/-- Whether a carried set is empty or has a member outside lo..hi. -/
def badSet (lo hi : Nat) : Option (List Nat) → Bool
  | some xs => !isSetIn lo hi xs
  | none => false

/-- R108: whether a carried set of statuses is empty or names none of the five. -/
def badStatuses : Option (List (Option Status)) → Bool
  | some ss => ss.isEmpty || ss.contains none
  | none => false

/-- R119 check 2: the predicates out of their ranges, in the order of R108. -/
def predicateChecks (p : PredsReq) : List (FieldId × Bool) :=
  [(.predicate 0, badStatuses p.status), (.predicate 1, badSet 0 15 p.cls), (.predicate 2, badSet 1 40 p.platform),
   (.predicate 3, outside 0 1023 p.destination), (.predicate 4, outside 0 1023 p.calling),
   (.predicate 5, badRange 999 p.delay), (.predicate 6, badRange 99 p.countdown),
   (.predicate 7, outside 1 3600 p.changed), (.predicate 8, argUnknown p.stale), (.predicate 9, argUnknown p.unsettled),
   (.predicate 10, argUnknown p.actual)]

/-- R119 check 2: whether a watch has no mode of R107 or is out of its range. -/
def badWatch : Arg Watch → Bool
  | .is (.timeout p) => !(10 ≤ p && p ≤ 3600)
  | .is (.count n) => !(2 ≤ n && n ≤ 15)
  | .unknown => true
  | .omitted => false

/-- R119 check 2: whether a banner is out of its range. -/
def badBanner : Option (Nat × List Nat) → Bool
  | some (i, bs) => badText i || !isSetIn 0 15 bs
  | none => false

/-- R119 check 2: the fields after the predicates, which a TERM may not carry. -/
def actionChecks (r : RuleReq) : List (FieldId × Bool) :=
  match r.kind with
  | .is .term =>
    [(.terms, r.terms.isSome), (.priority, r.priority.isSome), (.notice, r.notice.isSome), (.banner, r.banner.isSome),
     (.cue, r.cue.isSome), (.watch, r.watch != .omitted), (.reportAction, r.report)]
  | _ =>
    [(.priority, outside 0 7 r.priority), (.notice, outside 0 1023 r.notice), (.banner, badBanner r.banner),
     (.cue, outside 0 63 r.cue), (.watch, badWatch r.watch)]

/-- R119 check 3: whether a HEAD's term list is refused, judged against the table after the request. -/
def badTerms (n : Nat) (e : Nre) (r : RuleReq) : Bool :=
  r.kind == .is .head &&
    let ts := r.terms.getD []
    4 < ts.length || !distinct ts || ts.any fun i =>
      63 < i || i == n || match e.rule i with | some q => q.kind != .term | none => true

/-- R119 check 4, R121: the lowest-numbered HEAD other than `n` that lists rule `n`. -/
def Nre.listedBy (e : Nre) (n : Nat) : Option Nat :=
  (List.range Config.ruleCount).find? fun h => h != n &&
    match e.rule h with | some q => q.kind == .head && q.terms.contains n | none => false

/-- Whether a place holds a TERM. -/
def Nre.holdsTerm (e : Nre) (n : Nat) : Bool :=
  match e.rule n with | some q => q.kind == .term | none => false

/-- R119: the refusal of a RULE PUT, its checks in the order of the rule: a HEAD that fails check 2 and check 3 has the field
of check 2 named (log 14). The rule lists no refusal for an enabled flag that is neither yes nor no: it is refused by R180
(log 49). -/
def ruleRefusal (s : State) (n : Nat) (r : RuleReq) : Option Reply :=
  firstRefusal
    (badFields ((FieldId.ruleNumber, decide (63 < n)) :: (FieldId.kind, argMissing r.kind)
      :: (FieldId.enabled, argUnknown r.enabled) :: (predicateChecks r.preds ++ actionChecks r ++ [(FieldId.terms, badTerms n s.work.nre r)])))
    (if r.kind == .is .head && s.work.nre.holdsTerm n then (s.work.nre.listedBy n).map Reply.inUse else none)

/-- R121: the refusal of a RULE DROP. -/
def ruleDropRefusal (s : State) (n : Nat) : Option Reply :=
  if 63 < n then some (Reply.badField .ruleNumber)
  else
    match s.work.nre.rule n with
    | none => some (Reply.notFound .ruleNumber)
    | some _ => if s.work.nre.holdsTerm n then (s.work.nre.listedBy n).map Reply.inUse else none

/-- A carried set of statuses without repeats, in the order of R17. -/
def asStatuses (xs : List Status) : List Status :=
  [.scheduled, .delayed, .cancelled, .departing, .departed].filter fun s => xs.contains s

/-- The value a named field carries, if it carries one. -/
def argValue {α : Type} : Arg α → Option α
  | .is a => some a
  | _ => none

/-- R107: the predicates as stored. -/
def storedPreds (p : PredsReq) : Preds where
  status := p.status.map fun ss => asStatuses (ss.filterMap id)
  cls := p.cls.map asSet
  platform := p.platform.map asSet
  destination := p.destination
  calling := p.calling
  delay := p.delay
  countdown := p.countdown
  changed := p.changed
  stale := argValue p.stale
  unsettled := argValue p.unsettled
  actual := argValue p.actual

/-- R107: the record an accepted RULE PUT stores. Without the enabled flag the rule is enabled, and without a priority it has
priority 0 (log 34), as a TERM always has (log 51). -/
def ruleRecord (r : RuleReq) : Rule where
  kind := argOr .head r.kind
  enabled := argOr true r.enabled
  preds := storedPreds r.preds
  terms := r.terms.getD []
  priority := r.priority.getD 0
  notice := r.notice
  banner := r.banner.map fun p => (p.1, asSet p.2)
  cue := r.cue
  watch := argValue r.watch
  report := r.report

/-! ### TEMPLATE PUT and CUE ASK (R131, R135) -/

/-- R131: whether an item is refused. -/
def badItem : Option CueItem → Bool
  | some (.phrase c) => 4095 < c
  | some (.slot _) => false
  | none => true

/-- R131: whether a zone source is refused. -/
def badZoneSource : Arg ZoneSource → Bool
  | .is (.fixed zs) => !isSetIn 1 8 zs
  | .is .platform => false
  | _ => true

/-- R131: the refusal of a TEMPLATE PUT. -/
def templateRefusal (n : Nat) (r : TemplateReq) : Option Reply :=
  badFields
    [(.templateNumber, 63 < n), (.items, !(1 ≤ r.items.length && r.items.length ≤ 12) || r.items.any badItem),
     (.priority, outsideRequired 0 7 r.priority), (.zoneSource, badZoneSource r.zones)]

/-- R131: a zone source as stored. -/
def storedZones : Arg ZoneSource → ZoneSource
  | .is (.fixed zs) => .fixed (asSet zs)
  | _ => .platform

/-- R131: the template an accepted request stores; the validity is clamped. -/
def templateRecord (r : TemplateReq) : Template where
  items := r.items.filterMap id
  priority := r.priority.getD 0
  validity := clamp 10 900 (r.validity.getD 120)
  zones := storedZones r.zones
  needsShown := r.needsShown.getD false
  requiresFeed := r.requiresFeed.getD false
  withdrawOnClear := r.withdrawOnClear.getD false
  deadline := r.deadline.getD false

/-- R135: whether a template speaks of a service. -/
def Template.needsService (t : Template) : Bool :=
  t.zones == .platform || t.items.any fun i => match i with | .slot _ => true | .phrase _ => false

/-- R135: the checks on the template and the key. -/
def askTemplate (s : State) (t : Template) (key : Option Key) : Option Reply :=
  match key with
  | some k => if (s.work.svt.find k).isNone then some (Reply.notFound .key) else none
  | none => if t.needsService then some (Reply.badField .key) else none

/-- R135: the refusal of a CUE ASK. -/
def askRefusal (s : State) (n : Nat) (key : Option Key) : Option Reply :=
  if s.base.tbs.state = .unset then some (Reply.state .timebase)
  else if 63 < n then some (Reply.badField .templateNumber)
  else if (match key with | some k => !keyForm k | none => false) then some (Reply.badField .key)
  else
    match s.work.cuc.template n with
    | none => some (Reply.notFound .templateNumber)
    | some t => askTemplate s t key

/-- R135: the reply an outcome gives. -/
def askReply : EnqueueOutcome → Reply
  | .refusedOverride => Reply.state .overrideReason
  | .noTemplate => Reply.notFound .templateNumber
  | .merged q => Reply.okWith (.merged q)
  | .late => Reply.state .expiredReason
  | .admitted q => Reply.okWith (.admitted q)
  | .full => ⟨.tableFull, [], .nothing⟩

/-! ### Reading requests (R37, R38, R90) and TIME SET (R6) -/

/-- R37, R38: the refusal of a request that names a service. -/
def keyRefusal (s : State) (key : Key) : Option Reply :=
  if !keyForm key then some (Reply.badField .key)
  else if (s.work.svt.find key).isNone then some (Reply.notFound .key)
  else none

/-- R38: whether the order of a SERVICE LIST is refused. -/
def badOrder : ListOrder → Bool
  | .unknown => true
  | .table => false
  | .board b => 15 < b

/-- R38: the board a SERVICE LIST names, when it is not configured. -/
def orderMissing (w : Work) : ListOrder → Bool
  | .board b => (w.board b).isNone
  | _ => false

/-- R38: the refusal of a SERVICE LIST (log 14). -/
def listRefusal (s : State) (o : ListOrder) (start : Nat) : Option Reply :=
  firstRefusal (badFields [(.order, badOrder o), (.startIndex, 191 < start)])
    (if orderMissing s.work o then some (Reply.notFound .order) else none)

/-- R38: the keys in the order a SERVICE LIST names. -/
def listKeys (w : Work) : ListOrder → List Key
  | .board b => match w.board b with | some bd => w.boardKeys bd.record | none => []
  | _ => w.svt.keys

/-- R90: the refusal of a BOARD GET. -/
def boardGetRefusal (s : State) (n : Nat) : Option Reply :=
  if 15 < n then some (Reply.badField .boardNumber)
  else if (s.work.board n).isNone then some (Reply.notFound .boardNumber)
  else none

/-- R6: the refusal of a TIME SET. -/
def timeRefusal (h m sec ms : Nat) : Option Reply :=
  badFields [(.hour, 23 < h), (.minute, 59 < m), (.second, 59 < sec), (.millis, 999 < ms)]

end Sys2Proof.Machine
end

