-- ==== Sys2Proof/Machine/Owners.lean ====
section
/-!
DEFINITION. The owners (R180): for each request, what the block that owns the state it names does with it, and its answer.
-/

namespace Sys2Proof.Machine

/-! ### The Host Link Unit (R183, R184, R185, R187) -/

/-- A request whose refusal is settled first. -/
def State.guarded (refusal : Option Reply) (owner : State → Served) (s : State) : Served :=
  match refusal with
  | some r => (s, some r)
  | none => owner s

/-- R184: the owner of IDENTIFY. -/
def ownIdentify (s : State) : Served := (s, some (Reply.okWith identity))

/-- R185: the owners of STATUS. -/
def ownStatus (s : State) : Served := (s.statusClears, some (Reply.okWith (.status s.statusView)))

/-- R183: the owner of REPORT MASK. -/
def ownReportMask (cs : List (Option ReportClass)) (s : State) : Served :=
  match maskOf cs with
  | some m => (s.mapHlu fun h => { h with mask := m }, some (Reply.okWith (.mask m)))
  | none => (s, some (Reply.badField .reportClass))

/-- R187: the owner of RESTART; its effect waits until the reply has been sent. -/
def ownRestart (s : State) : Served := (s, some Reply.ok)

/-! ### The configuration sections (R61, R62, R91, R132, R154, R155, R168, R180) -/

/-- R63: whether a section changes one of the Board Composer's text indexes. -/
def textsChange (r : GeneralReq) (v : Bcp) : Bool :=
  orHeld r.startText v.startText != v.startText || orHeld r.degradedText v.degradedText != v.degradedText
    || orHeld r.overrideText v.overrideText != v.overrideText

/-- R180: an accepted CONFIGURE GENERAL section stored. -/
def State.storeGeneral (r : GeneralReq) (s : State) : State :=
  (s.mapTbs (Timebase.configure s.base.elapsed r)).mapWork fun w =>
    { w with
      svt := w.svt.configure r
      bcp := w.bcp.configure r
      hlu := { w.hlu with feedTimeout := orHeld r.feedTimeout w.hlu.feedTimeout } }

/-- R63, R180: an accepted CONFIGURE GENERAL section applied. -/
def State.applyGeneral (r : GeneralReq) (s : State) : State :=
  let s' := s.storeGeneral r
  if textsChange r s.work.bcp then s'.mapWork (Work.deriveAll s'.base) else s'

/-- R180: the owners of CONFIGURE GENERAL. -/
def ownGeneral (r : GeneralReq) (s : State) : Served :=
  s.guarded (generalRefusal s r) fun s => (s.applyGeneral r, some Reply.ok)

/-- R61, R62: the owner of CONFIGURE BOARD. -/
def ownBoard (n : Nat) (r : BoardReq) (s : State) : Served :=
  s.guarded (boardRefusal s n r) fun s =>
    (s.mapWork (Work.putBoard s.base n (boardRecord r)),
      some (Reply.clampedOr (clampNote .pagePeriod r.period (boardRecord r).period) .nothing))

/-- R91: an accepted CONFIGURE STRING section applied. -/
def Work.putString (b : Base) (n : Nat) (enabled : Bool) (rate : WallRate) (w : Work) : Work :=
  let w' := w.setString n fun t => { t with rate := rate }
  match (w.string n).enabled, enabled with
  | false, true => w'.enableString b n
  | true, false => w'.disableString b n
  | _, _ => w'

/-- R91: the owner of CONFIGURE STRING. -/
def ownString (n : Nat) (r : StringReq) (s : State) : Served :=
  s.guarded (stringRefusal n r) fun s =>
    (s.mapWork (Work.putString s.base n (argOr false r.enabled) (argOr .r125 r.rate)), some Reply.ok)

/-- R168, R169: the owner of CONFIGURE LINE. -/
def ownLine (n : Nat) (r : LineReq) (s : State) : Served :=
  s.guarded (lineRefusal s n r) fun s => (s.configureField n (lineConfigured r), some Reply.ok)

/-- R155: an accepted section for a line that drives an impulse waits for its end, and so does the reply. -/
def State.applyClock (n : Nat) (x : ClockSection) (s : State) : Served :=
  if (s.clock n).isDriving then
    (s.oneClock n fun l => ({ l with waiting := some x }, []), none)
  else
    let s' := s.oneClock n (ClockLine.apply n s.base.elapsed s.base.tbs x)
    (s', some (clockReply x ((s'.clock n).view s.base.tbs)))

/-- R154: the owner of CONFIGURE CLOCK LINE. -/
def ownClock (n : Nat) (r : ClockReq) (s : State) : Served :=
  s.guarded (clockRefusal s n r) (State.applyClock n (clockSection r))

/-- R132, R149, R150: an accepted CONFIGURE CUE LINK section applied. -/
def Work.putCueLink (b : Base) (r : CueLinkReq) (w : Work) : Work :=
  let w' := w.mapCuc fun c => { c with cfg := c.cfg.put r }
  if r.enabled = .is true ∧ w.cuc.link = .disabled then w'.enableLink b
  else if r.enabled = .is false then w'.disableLink
  else w'

/-- R132: the owner of CONFIGURE CUE LINK. -/
def ownCueLink (r : CueLinkReq) (s : State) : Served :=
  s.guarded (cueLinkRefusal s r) fun s =>
    (s.mapWork (Work.putCueLink s.base r),
      some (Reply.clampedOr (clampNote .resumeDelay r.resumeDelay (s.work.cuc.cfg.put r).resumeDelay) .nothing))

/-! ### The tables (R20 to R22, R36 to R38, R55, R56, R119 to R121, R131, R135) -/

/-- R56: an accepted TEXT LOAD applied. -/
def State.loadTexts (items : List TextItem) (s : State) : State :=
  let changed := changedTexts s.base.txs items
  let s' : State := { s with base := { s.base with txs := putTexts s.base.txs items } }
  if changed.isEmpty then s' else s'.mapWork (Work.textChange s'.base changed)

/-- R55: the owner of TEXT LOAD. -/
def ownTextLoad (items : List TextItem) (s : State) : Served :=
  s.guarded (textRefusal items) fun s => (s.loadTexts items, some Reply.ok)

/-- R36: a record evicted, with its report. -/
def Work.evict (b : Base) (x : Service) (w : Work) : Work :=
  (w.freeRecord b x.key).raise (.serviceEvicted x.key x.status x.k)

/-- R20 check 5, R21, R36: a record created, in a full table after an eviction; none when no record can be evicted. -/
def Work.putNew (b : Base) (r : PutReq) (w : Work) : Option Work :=
  if w.svt.services.length < Config.maxServices then some (w.createService b r)
  else (w.svt.evictee b.tbs.t).map fun x => (w.evict b x).createService b r

/-- R20 to R22: a SERVICE PUT that has passed checks 1 to 4. -/
def State.putService (r : PutReq) (s : State) : Served :=
  match s.work.svt.find r.key with
  | some x => (s.mapWork (Work.updateByPut s.base r x), some Reply.ok)
  | none =>
    match s.work.putNew s.base r with
    | some w => ({ s with work := w }, some Reply.ok)
    | none => (s, some ⟨.tableFull, [], .nothing⟩)

/-- R20: the owner of SERVICE PUT. -/
def ownServicePut (r : PutReq) (s : State) : Served := s.guarded (putRefusal s r) (State.putService r)

/-- R37: the owner of SERVICE DROP. -/
def ownServiceDrop (key : Key) (s : State) : Served :=
  s.guarded (keyRefusal s key) fun s => (s.mapWork fun w => w.freeRecord s.base key, some Reply.ok)

/-- R38: the owner of SERVICE GET. -/
def ownServiceGet (key : Key) (s : State) : Served :=
  s.guarded (keyRefusal s key) fun s =>
    (s, (s.work.svt.find key).map fun x => Reply.okWith (.service (x.view s.base.tbs.c0)))

/-- R38: the owners of SERVICE LIST. -/
def ownServiceList (o : ListOrder) (start : Nat) (s : State) : Served :=
  s.guarded (listRefusal s o start) fun s =>
    let ks := listKeys s.work o
    (s, some (Reply.okWith (.keys ks.length start ((ks.drop start).take 32))))

/-- R120 step 5, R123: the reply to a RULE PUT. Of a TERM it carries priority 0 and holder count 0 (log 51). -/
def ruleReply (r : Rule) (n : Nat) (w : Work) : Reply := Reply.okWith (.rule r (w.svt.holders n))

/-- R119, R120: the owner of RULE PUT. -/
def ownRulePut (n : Nat) (r : RuleReq) (s : State) : Served :=
  s.guarded (ruleRefusal s n r) fun s =>
    let s' := s.mapWork (Work.loadRule s.base n (some (ruleRecord r)))
    (s', some (ruleReply (ruleRecord r) n s'.work))

/-- R121: the owner of RULE DROP. -/
def ownRuleDrop (n : Nat) (s : State) : Served :=
  s.guarded (ruleDropRefusal s n) fun s => (s.mapWork (Work.loadRule s.base n none), some Reply.ok)

/-- R131: the owner of TEMPLATE PUT. -/
def ownTemplatePut (n : Nat) (r : TemplateReq) (s : State) : Served :=
  s.guarded (templateRefusal n r) fun s =>
    (s.mapWork (Work.mapCuc fun c => { c with templates := c.templates.set n (some (templateRecord r)) }),
      some (Reply.clampedOr (clampNote .validity r.validity (templateRecord r).validity) (.template (templateRecord r))))

/-- R135: the owner of CUE ASK. -/
def ownCueAsk (n : Nat) (key : Option Key) (s : State) : Served :=
  s.guarded (askRefusal s n key) fun s =>
    let r := s.work.enqueue s.base n key .host
    ({ s with work := r.1 }, some (askReply r.2))

/-! ### Time, boards and override (R6 to R8, R90, R174) -/

/-- R7: a TIME SET in a qualified state. -/
def State.stepTime (h m sec ms : Nat) (s : State) : Served :=
  let d := s.base.tbs.stepAmount h m sec ms
  if d = 0 then (s, some (Reply.okWith (.stepped 0 0 false false)))
  else
    let i := s.base.tbs.stepInfo d .timeSet
    (s.stepBy d .timeSet, some (Reply.okWith (.stepped i.requested i.applied i.clamped i.changeover)))

/-- R6, R7: the owner of TIME SET. -/
def ownTimeSet (h m sec ms : Nat) (s : State) : Served :=
  s.guarded (timeRefusal h m sec ms) fun s =>
    if s.base.tbs.state = .unset then (s.setFirst h m sec ms, some Reply.ok) else s.stepTime h m sec ms

/-- R8: the owner of TIME GET. -/
def ownTimeGet (s : State) : Served := (s, some (Reply.okWith (.time s.base.tbs.snapshot)))

/-- R90: one row of a BOARD GET reply. -/
def Cell.view (c : Cell) : RowView := ⟨c.onWall, c.outstanding.length, c.dirty, c.released, c.heldBack⟩

/-- R90: the BOARD GET reply (log 31). -/
def boardView (b : Base) (w : Work) (n : Nat) (bd : Board) : BoardView where
  record := bd.record
  online := w.online n
  presentation := presentationOf b
  banner := bd.banner
  eligible := bd.eligible.length
  page := bd.page
  pageCount := bd.pageCount
  rows := bd.record.rowList.map fun r => (w.rowCell bd.record r).view

/-- R90: the owner of BOARD GET. -/
def ownBoardGet (n : Nat) (s : State) : Served :=
  s.guarded (boardGetRefusal s n) fun s =>
    (s, (s.work.board n).map fun bd => Reply.okWith (.board (boardView s.base s.work n bd)))

/-- R174: the reply to an OVERRIDE SET. -/
def overrideReply (u : Fiu) : Reply := Reply.okWith (.override u.forced u.keys u.override)

/-- R174: the owner of OVERRIDE SET. -/
def ownOverrideSet (on : Option Bool) (s : State) : Served :=
  match on with
  | none => (s, some (Reply.badField .overrideValue))
  | some v =>
    let s' := s.force v .forced
    (s', some (overrideReply s'.base.fiu))

end Sys2Proof.Machine
end

