-- ==== Sys2Proof/Machine/Serve.lean ====
section
/-!
DEFINITION. Serving (R179, R180, R187): a request keeps its fields in its inbound place from its arrival, and is served in
arrival order, once the one before it has been answered.
-/

namespace Sys2Proof.Machine

/-- R180 step 3: the owner of a request. -/
def Request.owner : Request → State → Served
  | .identify => ownIdentify
  | .configureGeneral r => ownGeneral r
  | .configureBoard n r => ownBoard n r
  | .configureString n r => ownString n r
  | .configureLine n r => ownLine n r
  | .configureClockLine n r => ownClock n r
  | .configureCueLink r => ownCueLink r
  | .textLoad items => ownTextLoad items
  | .servicePut r => ownServicePut r
  | .serviceDrop key => ownServiceDrop key
  | .serviceGet key => ownServiceGet key
  | .serviceList o start => ownServiceList o start
  | .rulePut n r => ownRulePut n r
  | .ruleDrop n => ownRuleDrop n
  | .templatePut n r => ownTemplatePut n r
  | .cueAsk n key => ownCueAsk n key
  | .timeSet h m sec ms => ownTimeSet h m sec ms
  | .timeGet => ownTimeGet
  | .boardGet n => ownBoardGet n
  | .overrideSet on => ownOverrideSet on
  | .status => ownStatus
  | .reportMask cs => ownReportMask cs
  | .restart => ownRestart

/-- R180: the three steps: the kind, the length, and the owner. -/
def Frame.owner : Frame → State → Served
  | .unknown _, s => (s, some ⟨.badKind, [], .nothing⟩)
  | .misfit _ n, s => (s, some ⟨.badLength, [], .length n⟩)
  | .request r, s => Request.owner r s

/-- R180: an entry with what its owner answered: a reply, or none yet, and it stays in service (R155, R166). -/
def Inbound.served (o : Option Reply) (e : Inbound) : Inbound :=
  match o with
  | some r => e.answer (e.frame == .request .restart) r
  | none => { e with progress := .inService }

/-- R180: one entry served. -/
def State.serve (e : Inbound) (s : State) : State :=
  (e.frame.owner s).1.mapHlu (Hlu.updateInbound e.arrival (Inbound.served (e.frame.owner s).2))

/-- R180: at most `n` entries served, each in its turn. -/
def State.serveAll : Nat → State → State
  | 0, s => s
  | n + 1, s =>
    match nextToServe s.work.hlu.inbound with
    | some e => (s.serve e).serveAll n
    | none => s

/-- R180: every entry served whose turn has come (log 30). -/
def State.serveWaiting (s : State) : State := s.serveAll s.work.hlu.inbound.length

/-- What a command answers: the next state, once the transmitter has been given what it can send (log 30). -/
def State.done (s : State) : Host.Outcome State Fault Refusal := .next s.finish

/-- The frame a request command stands for; its head says whether the payload fits the layout (log 3). -/
def ReqHead.frame (h : ReqHead) (r : Request) : Frame :=
  match h.misfit with
  | some n => .misfit r.name n
  | none => .request r

/-- R179: the frame of a request command arrives (log 3). -/
def State.arrives (h : ReqHead) (r : Request) (s : State) : State :=
  s.mapWork (Work.wellFormed s.base h.tag (ReqHead.frame h r))

/-- R179, R180: a request command: its frame arrives, and every request whose turn has come is served. -/
def State.request (h : ReqHead) (r : Request) (s : State) : Host.Outcome State Fault Refusal :=
  (s.arrives h r).serveWaiting.done

end Sys2Proof.Machine
end

