-- ==== Sys2Proof/Machine/LinkCommands.lean ====
section
/-!
DEFINITION. Power-on, and the commands of the Host Link Unit: frames on the host link, IDENTIFY, STATUS, REPORT MASK,
RESTART and the loss of the feed.
-/

namespace Sys2Proof.Machine

/-- R167: a line after power-on: its filtered level takes the raw level. -/
def FieldLine.powerOn (l : FieldLine) : FieldLine := { FieldLine.reset with raw := l.raw, filtered := l.raw }

/-- R1: every block at its power-on state; the commands that wait and the levels at the inputs stay (log 11). -/
def State.poweredOn (s : State) : State :=
  { State.reset with
    base := { State.reset.base with fiu := { Fiu.reset with lines := s.base.fiu.lines.map FieldLine.powerOn } }
    pending := s.pending }

/-- POWER_ON (R1). -/
def execPowerOn (s : State) : Host.Outcome State Fault Refusal := s.poweredOn.done

/-- HOST_FRAME (R178). -/
def execHostFrame (bytes : List Byte) (s : State) : Host.Outcome State Fault Refusal :=
  (s.mapWork (Work.hostBytes s.base bytes)).serveWaiting.done

/-- FRAME_TIMEOUT (R178). -/
def execFrameTimeout (s : State) : Host.Outcome State Fault Refusal := (s.mapHlu Hlu.timeOut).done

/-- HOST_FRAME_SENT (R181). -/
def execHostFrameSent (s : State) : Host.Outcome State Fault Refusal :=
  s.frameSent.serveWaiting.done

/-- IDENTIFY (R184). -/
def execIdentify (h : ReqHead) (s : State) : Host.Outcome State Fault Refusal := s.request h .identify

/-- STATUS (R185). -/
def execStatus (h : ReqHead) (s : State) : Host.Outcome State Fault Refusal := s.request h .status

/-- REPORT_MASK (R183). -/
def execReportMask (h : ReqHead) (classes : List (Option ReportClass)) (s : State) : Host.Outcome State Fault Refusal :=
  s.request h (.reportMask classes)

/-- RESTART (R187). -/
def execRestart (h : ReqHead) (s : State) : Host.Outcome State Fault Refusal := s.request h .restart

/-- FEED_LOST (R186). -/
def execFeedLost (s : State) : Host.Outcome State Fault Refusal := (s.mapWork (Work.feedEnds s.base)).done

end Sys2Proof.Machine
end

