-- ==== Sys2Proof/Machine/ConfigCommands.lean ====
section
/-!
DEFINITION. The CONFIGURE requests: the effect of an accepted section and its reply.
-/

namespace Sys2Proof.Machine

/-- CONFIGURE_GENERAL (R180). -/
def execConfigureGeneral (h : ReqHead) (r : GeneralReq) (s : State) : Host.Outcome State Fault Refusal :=
  s.request h (.configureGeneral r)

/-- CONFIGURE_BOARD (R61). -/
def execConfigureBoard (h : ReqHead) (n : Nat) (r : BoardReq) (s : State) : Host.Outcome State Fault Refusal :=
  s.request h (.configureBoard n r)

/-- CONFIGURE_STRING (R91). -/
def execConfigureString (h : ReqHead) (n : Nat) (r : StringReq) (s : State) : Host.Outcome State Fault Refusal :=
  s.request h (.configureString n r)

/-- CONFIGURE_LINE (R168). -/
def execConfigureLine (h : ReqHead) (n : Nat) (r : LineReq) (s : State) : Host.Outcome State Fault Refusal :=
  s.request h (.configureLine n r)

/-- CONFIGURE_CLOCK_LINE (R154). -/
def execConfigureClockLine (h : ReqHead) (n : Nat) (r : ClockReq) (s : State) : Host.Outcome State Fault Refusal :=
  s.request h (.configureClockLine n r)

/-- CONFIGURE_CUE_LINK (R132). -/
def execConfigureCueLink (h : ReqHead) (r : CueLinkReq) (s : State) : Host.Outcome State Fault Refusal :=
  s.request h (.configureCueLink r)

end Sys2Proof.Machine
end

