-- ==== Sys2Proof/Machine/CueCommands.lean ====
section
/-!
DEFINITION. The ends of intervals on the cue link (chapter 8).
-/

namespace Sys2Proof.Machine

/-- END_OF_TRANSMISSION (R144). -/
def execEndOfTransmission (s : State) : Host.Outcome State Fault Refusal := (s.mapWork (Work.cueSent s.base)).done

/-- ACCEPT_WINDOW_END (R145). -/
def execAcceptWindowEnd (s : State) : Host.Outcome State Fault Refusal := (s.mapWork (Work.acceptEnd s.base)).done

/-- MAXIMUM_PLAY_TIME_END (R146). -/
def execMaximumPlayTimeEnd (s : State) : Host.Outcome State Fault Refusal := (s.mapWork (Work.playEnd s.base)).done

/-- R147: the resume count, when it runs, reaches 0. -/
def Work.resumeDelayEnds (b : Base) (w : Work) : Work := if w.cuc.resume = 0 then w else w.resumeEnd b

/-- RESUME_DELAY_END (R147). -/
def execResumeDelayEnd (s : State) : Host.Outcome State Fault Refusal :=
  (s.mapWork (Work.resumeDelayEnds s.base)).done

end Sys2Proof.Machine
end

