-- ==== Sys2Proof/Machine/FieldCommands.lean ====
section
/-!
DEFINITION. The commands of the Field Input Unit (chapter 10).
-/

namespace Sys2Proof.Machine

/-- OVERRIDE_SET (R174). -/
def execOverrideSet (h : ReqHead) (on : Option Bool) (s : State) : Host.Outcome State Fault Refusal :=
  s.request h (.overrideSet on)

/-- EDGE (R171). -/
def execEdge (line : Fin 16) (level : Level) (s : State) : Host.Outcome State Fault Refusal :=
  (s.edge line.val level).done

/-- LOCKOUT_END (R172). -/
def execLockoutEnd (line : Fin 16) (s : State) : Host.Outcome State Fault Refusal := (s.endLockout line.val).done

/-- FILTER_SAMPLE (R170). -/
def execFilterSample (line : Fin 16) (level : Level) (s : State) : Host.Outcome State Fault Refusal :=
  (s.sample line.val level).done

end Sys2Proof.Machine
end

