-- ==== Sys2Proof/Machine/TableCommands.lean ====
section
/-!
DEFINITION. The requests on the tables: texts, services, rules, cue templates and CUE ASK, and the end of a departing timer
and of watches.
-/

namespace Sys2Proof.Machine

/-! ### Texts (R55, R56) -/

/-- TEXT_LOAD (R55). -/
def execTextLoad (h : ReqHead) (items : List TextItem) (s : State) : Host.Outcome State Fault Refusal :=
  s.request h (.textLoad items)

/-! ### Services (R20 to R22, R29, R36 to R38) -/

/-- SERVICE_PUT (R20). -/
def execServicePut (h : ReqHead) (r : PutReq) (s : State) : Host.Outcome State Fault Refusal :=
  s.request h (.servicePut r)

/-- SERVICE_DROP (R37). -/
def execServiceDrop (h : ReqHead) (key : Key) (s : State) : Host.Outcome State Fault Refusal :=
  s.request h (.serviceDrop key)

/-- SERVICE_GET (R38). -/
def execServiceGet (h : ReqHead) (key : Key) (s : State) : Host.Outcome State Fault Refusal :=
  s.request h (.serviceGet key)

/-- SERVICE_LIST (R38). -/
def execServiceList (h : ReqHead) (order : ListOrder) (start : Nat) (s : State) : Host.Outcome State Fault Refusal :=
  s.request h (.serviceList order start)

/-- R29: a running departing timer ends. -/
def Work.timerEnds (b : Base) (key : Key) (w : Work) : Work :=
  if ((w.svt.find key).bind Service.timer).isSome then w.endTimer b key else w

/-- DEPARTING_TIMER_END (R29). -/
def execDepartingTimerEnd (key : Key) (s : State) : Host.Outcome State Fault Refusal :=
  (s.mapWork (Work.timerEnds s.base key)).done

/-! ### Rules (R119 to R121, R126, R128) -/

/-- RULE_PUT (R119). -/
def execRulePut (h : ReqHead) (n : Nat) (r : RuleReq) (s : State) : Host.Outcome State Fault Refusal :=
  s.request h (.rulePut n r)

/-- RULE_DROP (R121). -/
def execRuleDrop (h : ReqHead) (n : Nat) (s : State) : Host.Outcome State Fault Refusal :=
  s.request h (.ruleDrop n)

/-- WATCH_EXPIRY (R126). -/
def execWatchExpiry (slot : Fin 24) (s : State) : Host.Outcome State Fault Refusal :=
  (s.mapWork (Work.expireSlot s.base slot.val)).done

/-- WATCH_COUNT (R128). -/
def execWatchCount (slot : Fin 24) (s : State) : Host.Outcome State Fault Refusal :=
  (s.mapWork (Work.reachSlot s.base slot.val)).done

/-! ### Cue templates (R131) and CUE ASK (R135) -/

/-- TEMPLATE_PUT (R131). -/
def execTemplatePut (h : ReqHead) (n : Nat) (r : TemplateReq) (s : State) : Host.Outcome State Fault Refusal :=
  s.request h (.templatePut n r)

/-- CUE_ASK (R135). -/
def execCueAsk (h : ReqHead) (n : Nat) (key : Option Key) (s : State) : Host.Outcome State Fault Refusal :=
  s.request h (.cueAsk n key)

end Sys2Proof.Machine
end

