-- ==== Sys2Proof/Machine/TimeCommands.lean ====
section
/-!
DEFINITION. The commands of the Timebase (chapter 1) and of the Slave Clock Driver (chapter 9).
-/

namespace Sys2Proof.Machine

/-- TIME_SET (R6). -/
def execTimeSet (h : ReqHead) (hour minute second millis : Nat) (s : State) : Host.Outcome State Fault Refusal :=
  s.request h (.timeSet hour minute second millis)

/-- TIME_GET (R8). -/
def execTimeGet (h : ReqHead) (s : State) : Host.Outcome State Fault Refusal := s.request h .timeGet

/-- R4: a second event comes only while the timebase is qualified. -/
def State.takeSecond (s : State) : State := if s.base.tbs.qualified then s.secondEvent else s

/-- SECOND_EVENT (R4). -/
def execSecondEvent (s : State) : Host.Outcome State Fault Refusal := s.takeSecond.done

/-- SYNC_LOST (R12). -/
def execSyncLost (s : State) : Host.Outcome State Fault Refusal := s.losePulses.done

/-- R160, R155, R166: an impulse ends; a section that waited for it takes effect and its reply follows. -/
def State.endImpulse (n : Nat) (s : State) : State :=
  let s' := s.oneClock n (ClockLine.impulseEnds n s.base.elapsed s.base.tbs)
  match (s.clock n).waiting with
  | some x =>
    if (s.clock n).isDriving then s'.mapHlu (Hlu.answerInService (clockReply x ((s'.clock n).view s.base.tbs))) else s'
  | none => s'

/-- IMPULSE_END (R160). -/
def execImpulseEnd (line : Fin 4) (s : State) : Host.Outcome State Fault Refusal :=
  (s.endImpulse line.val).serveWaiting.done

/-- R159: the gap of a line ends. -/
def State.endGap (n : Nat) (s : State) : State := { s with scd := s.scd.modify n (ClockLine.gapEnds s.base.elapsed) }

/-- GAP_END (R159). -/
def execGapEnd (line : Fin 4) (s : State) : Host.Outcome State Fault Refusal := (s.endGap line.val).done

end Sys2Proof.Machine
end

