-- ==== Sys2Proof/Machine/WallCommands.lean ====
section
/-!
DEFINITION. The commands of the Board Composer (chapter 5) and of the wall strings (chapter 6).
-/

namespace Sys2Proof.Machine

/-- BOARD_GET (R90). -/
def execBoardGet (h : ReqHead) (n : Nat) (s : State) : Host.Outcome State Fault Refusal :=
  s.request h (.boardGet n)

/-- PAGE_EXPIRY (R71). -/
def execPageExpiry (board : Fin 16) (s : State) : Host.Outcome State Fault Refusal :=
  (s.mapWork (Work.expirePage s.base board.val)).done

/-- FLASH_END (R76). -/
def execFlashEnd (key : Key) (s : State) : Host.Outcome State Fault Refusal := (s.mapWork (Work.endFlash s.base key)).done

/-- WALL_FRAME_SENT (R97). -/
def execWallFrameSent (string : Fin 4) (s : State) : Host.Outcome State Fault Refusal :=
  (s.mapWork (Work.setString string.val (WallString.frameSent s.base.elapsed))).done

/-- R98: a module reply on a string: accepted, stray, or not received while the line is SENDING. -/
def Work.moduleReply (b : Base) (n : Nat) (r : ModReply) (w : Work) : Work :=
  if (w.string n).accepts r then w.complete b n (frameResult r.result)
  else if (w.string n).listening then w.setString n WallString.strayReply
  else w

/-- MODULE_REPLY (R98). -/
def execModuleReply (string : Fin 4) (r : ModReply) (s : State) : Host.Outcome State Fault Refusal :=
  (s.mapWork (Work.moduleReply s.base string.val r)).done

/-- R99: the reply timer of a string runs out. -/
def Work.replyTimeout (b : Base) (n : Nat) (w : Work) : Work :=
  match (w.string n).activity with
  | .awaiting _ => w.complete b n .noReply
  | _ => w

/-- REPLY_TIMEOUT (R99). -/
def execReplyTimeout (string : Fin 4) (s : State) : Host.Outcome State Fault Refusal :=
  (s.mapWork (Work.replyTimeout s.base string.val)).done

end Sys2Proof.Machine
end

