-- ==== Sys2Proof/Machine/Tick.lean ====
section
/-!
DEFINITION. What the part does by itself when no command waits: one millisecond of its oscillator (R3), and the ends of
intervals that have then come due, in one fixed order (log 2).
-/

namespace Sys2Proof.Machine

/-- R3, R4: one millisecond of the elapsed count; the fraction advances with it while the timebase is qualified. -/
def Base.millisecond (b : Base) : Base :=
  { b with
    elapsed := b.elapsed + 1
    tbs := if b.tbs.qualified then { b.tbs with secPos := b.tbs.secPos + 1 } else b.tbs }

/-- R4: whether the fraction has wrapped. -/
def Timebase.secondDue (tb : Timebase) : Bool := tb.qualified && tb.secLen ≤ tb.secPos

/-- R12: whether three periods have passed since the later of the last accepted pulse and the last restart. -/
def Timebase.lossDue (elapsed : Nat) (tb : Timebase) : Bool :=
  tb.state == .locked
    && max (tb.lastPulse.getD 0) (tb.superviseFrom.getD 0) + 3 * periodMillis tb.period ≤ elapsed

/-- R170: whether a line is sampled now (log 22). -/
def FieldLine.sampleDue (elapsed : Nat) (l : FieldLine) : Bool :=
  match l.filter with
  | some p => elapsed % p == 0
  | none => false

/-- R172: whether the lockout of a line has run out. -/
def FieldLine.lockoutDue (elapsed : Nat) (l : FieldLine) : Bool :=
  match l.lockoutEnd with
  | some e => e ≤ elapsed
  | none => false

/-- R97: whether the last character of a wall frame has gone out. -/
def WallString.sentDue (elapsed : Nat) (s : WallString) : Bool :=
  match s.activity with
  | .sending due => due ≤ 1000 * elapsed
  | _ => false

/-- R99: whether the reply timer has run out. -/
def WallString.replyDue (elapsed : Nat) (s : WallString) : Bool :=
  match s.activity with
  | .awaiting due => due ≤ elapsed
  | _ => false

/-- R144: whether the last character of the cue frame has gone out. -/
def Cuc.sentDue (elapsed : Nat) (c : Cuc) : Bool :=
  match c.link with
  | .sending due => due ≤ 1000 * elapsed
  | _ => false

/-- R145: whether the accept window has ended. -/
def Cuc.acceptDue (elapsed : Nat) (c : Cuc) : Bool :=
  match c.link with
  | .awaitAccept due => due ≤ elapsed
  | _ => false

/-- R146: whether the maximum play time has ended. -/
def Cuc.playDue (elapsed : Nat) (c : Cuc) : Bool :=
  match c.link with
  | .playing due => due ≤ elapsed
  | _ => false

/-- R160: whether the width of an impulse has ended. -/
def ClockLine.widthDue (elapsed : Nat) (l : ClockLine) : Bool :=
  match l.drive with
  | .driving due => due ≤ elapsed
  | _ => false

/-- R159: whether a gap has ended. -/
def ClockLine.gapDue (elapsed : Nat) (l : ClockLine) : Bool :=
  match l.drive with
  | .gap due => due ≤ elapsed
  | _ => false

/-- An end taken when it is due. -/
def State.takeIf (due : State → Bool) (f : State → State) (s : State) : State := if due s then f s else s

/-- An end of each of `n` objects, ascending, taken where it is due. -/
def State.takeEach (n : Nat) (due : Nat → State → Bool) (f : Nat → State → State) (s : State) : State :=
  (List.range n).foldl (fun s i => s.takeIf (due i) (f i)) s

/-- R4, R12, R178: the second event, the loss of the pulse stream, and the time limit of a host frame, when due. -/
def State.timeDues (s : State) : State :=
  ((s.takeIf (fun s => s.base.tbs.secondDue) State.takeSecond).takeIf
    (fun s => s.base.tbs.lossDue s.base.elapsed) State.losePulses).takeIf
    (fun s => s.work.hlu.rx.overdue s.base.elapsed) (State.mapHlu Hlu.timeOut)

/-- R170, R172: the samples of the field lines, which find the raw level as it was last presented, and the lockouts. -/
def State.lineDues (s : State) : State :=
  (s.takeEach 16 (fun n s => (s.line n).sampleDue s.base.elapsed) fun n s => s.sample n (s.line n).raw).takeEach 16
    (fun n s => (s.line n).lockoutDue s.base.elapsed) State.endLockout

/-- R97, R99: the wall strings. -/
def State.wallDues (s : State) : State :=
  (s.takeEach 4 (fun n s => (s.work.string n).sentDue s.base.elapsed)
    fun n s => s.mapWork (Work.setString n (WallString.frameSent s.base.elapsed))).takeEach 4
    (fun n s => (s.work.string n).replyDue s.base.elapsed) fun n s => s.mapWork (Work.replyTimeout s.base n)

/-- R144 to R146: the cue link. -/
def State.cueDues (s : State) : State :=
  ((s.takeIf (fun s => s.work.cuc.sentDue s.base.elapsed) fun s => s.mapWork (Work.cueSent s.base)).takeIf
    (fun s => s.work.cuc.acceptDue s.base.elapsed) fun s => s.mapWork (Work.acceptEnd s.base)).takeIf
    (fun s => s.work.cuc.playDue s.base.elapsed) fun s => s.mapWork (Work.playEnd s.base)

/-- R159, R160: the clock lines. -/
def State.clockDues (s : State) : State :=
  (s.takeEach 4 (fun n s => (s.clock n).widthDue s.base.elapsed) State.endImpulse).takeEach 4
    (fun n s => (s.clock n).gapDue s.base.elapsed) State.endGap

/-- R3: one millisecond, and what has come due (log 2). -/
def State.tick (s : State) : State :=
  let s' : State := { s with base := s.base.millisecond }
  s'.timeDues.lineDues.wallDues.cueDues.clockDues.serveWaiting.finish

end Sys2Proof.Machine
end

