-- ==== Sys2Proof/Machine/Dispatch.lean ====
section
/-!
DEFINITION. One arm per command: one direct call of its meaning.
-/

namespace Sys2Proof.Machine

def exec (i : Instr) (s : State) : Host.Outcome State Fault Refusal :=
  match i with
  | .powerOn => Sys2Proof.Machine.execPowerOn s
  | .hostFrame bytes => Sys2Proof.Machine.execHostFrame bytes s
  | .frameTimeout => Sys2Proof.Machine.execFrameTimeout s
  | .hostFrameSent => Sys2Proof.Machine.execHostFrameSent s
  | .identify h => Sys2Proof.Machine.execIdentify h s
  | .configureGeneral h r => Sys2Proof.Machine.execConfigureGeneral h r s
  | .configureBoard h n r => Sys2Proof.Machine.execConfigureBoard h n r s
  | .configureString h n r => Sys2Proof.Machine.execConfigureString h n r s
  | .configureLine h n r => Sys2Proof.Machine.execConfigureLine h n r s
  | .configureClockLine h n r => Sys2Proof.Machine.execConfigureClockLine h n r s
  | .configureCueLink h r => Sys2Proof.Machine.execConfigureCueLink h r s
  | .textLoad h items => Sys2Proof.Machine.execTextLoad h items s
  | .servicePut h r => Sys2Proof.Machine.execServicePut h r s
  | .serviceDrop h key => Sys2Proof.Machine.execServiceDrop h key s
  | .serviceGet h key => Sys2Proof.Machine.execServiceGet h key s
  | .serviceList h order start => Sys2Proof.Machine.execServiceList h order start s
  | .rulePut h n r => Sys2Proof.Machine.execRulePut h n r s
  | .ruleDrop h n => Sys2Proof.Machine.execRuleDrop h n s
  | .templatePut h n r => Sys2Proof.Machine.execTemplatePut h n r s
  | .cueAsk h n key => Sys2Proof.Machine.execCueAsk h n key s
  | .timeSet h hour minute second millis => Sys2Proof.Machine.execTimeSet h hour minute second millis s
  | .timeGet h => Sys2Proof.Machine.execTimeGet h s
  | .boardGet h n => Sys2Proof.Machine.execBoardGet h n s
  | .overrideSet h on => Sys2Proof.Machine.execOverrideSet h on s
  | .status h => Sys2Proof.Machine.execStatus h s
  | .reportMask h classes => Sys2Proof.Machine.execReportMask h classes s
  | .restart h => Sys2Proof.Machine.execRestart h s
  | .secondEvent => Sys2Proof.Machine.execSecondEvent s
  | .edge line level => Sys2Proof.Machine.execEdge line level s
  | .syncLost => Sys2Proof.Machine.execSyncLost s
  | .lockoutEnd line => Sys2Proof.Machine.execLockoutEnd line s
  | .departingTimerEnd key => Sys2Proof.Machine.execDepartingTimerEnd key s
  | .pageExpiry board => Sys2Proof.Machine.execPageExpiry board s
  | .flashEnd key => Sys2Proof.Machine.execFlashEnd key s
  | .wallFrameSent string => Sys2Proof.Machine.execWallFrameSent string s
  | .moduleReply string r => Sys2Proof.Machine.execModuleReply string r s
  | .replyTimeout string => Sys2Proof.Machine.execReplyTimeout string s
  | .watchExpiry slot => Sys2Proof.Machine.execWatchExpiry slot s
  | .watchCount slot => Sys2Proof.Machine.execWatchCount slot s
  | .endOfTransmission => Sys2Proof.Machine.execEndOfTransmission s
  | .acceptWindowEnd => Sys2Proof.Machine.execAcceptWindowEnd s
  | .maximumPlayTimeEnd => Sys2Proof.Machine.execMaximumPlayTimeEnd s
  | .resumeDelayEnd => Sys2Proof.Machine.execResumeDelayEnd s
  | .impulseEnd line => Sys2Proof.Machine.execImpulseEnd line s
  | .gapEnd line => Sys2Proof.Machine.execGapEnd line s
  | .feedLost => Sys2Proof.Machine.execFeedLost s
  | .filterSample line level => Sys2Proof.Machine.execFilterSample line level s

end Sys2Proof.Machine
end

