-- ==== Sys2Proof/Safety.lean ====
section
/-!
DEFINITION. What claims about the part speak of: safe outcomes, the reply a request got, what the work of an event leaves
as it is, and the invariants of the part.
-/

namespace Sys2Proof.Machine

/-- A safe outcome is a next state: the manual gives no command that stops the part. -/
def Safe (o : Host.Outcome State Fault Refusal) : Prop := ∃ t, o = .next t

/-! ### Replies (R180) -/

/-- The reply an inbound entry has got. -/
def Inbound.reply (e : Inbound) : Option Reply :=
  match e.progress with
  | .answered r => some r
  | _ => none

/-- R180: the reply to the request whose frame arrived as number `n`, while it keeps its place. -/
def State.replyTo (s : State) (n : Nat) : Option Reply :=
  (s.work.hlu.inbound.find? fun e => e.arrival == n).bind Inbound.reply

/-- R179, R180, R187: a request that arrives now is served now: a place is free, every request before it has been
answered, none of them is a RESTART that waits to take effect, and the places carry the numbers of earlier frames. -/
def State.ready (s : State) : Prop :=
  s.work.hlu.inbound.length < Config.maxInbound ∧
    ∀ e ∈ s.work.hlu.inbound, e.reply.isSome = true ∧ e.restart = false ∧ e.arrival < s.work.hlu.arrivals

/-- An inbound place but for how far its request has come. -/
def Inbound.place (e : Inbound) : Nat × Byte × Frame := (e.arrival, e.tag, e.frame)

/-- R180: no request waits whose turn has come. -/
def State.caughtUp (s : State) : Prop := nextToServe s.work.hlu.inbound = none

/-! ### What the work of an event leaves -/

/-- R17: a record without the sets, flags and count that rules and boards keep with it. -/
def Service.core (x : Service) : Service :=
  { x with stale := false, unsettled := false, held := [], conf := [], flash := 0 }

/-- The service table, its records without what rules and boards keep with them. -/
def Svt.kept (v : Svt) : Svt := { v with services := v.services.map Service.core }

/-- A board's record alone. -/
def Board.kept (bd : Board) : Board :=
  { record := bd.record, eligible := [], presentation := .normal, banner := .none, page := 0, pageCount := 0, timer := 0 }

/-- The Board Composer without the boards' dynamic state and the rows. -/
def Bcp.kept (v : Bcp) : Bcp := { v with boards := v.boards.map (Option.map Board.kept), cells := [] }

/-- A wall string without its queue, its line and the counts of offers and transmissions. -/
def WallString.kept (s : WallString) : WallString :=
  { s with activity := .idle, inFlight := none, queue := [], seq := 0, sent := 0, coalesced := 0, refused := 0, peak := 0 }

/-- The Notice Rule Engine without its watch slots. -/
def Nre.kept (v : Nre) : Nre := { v with slots := [] }

/-- The Cue Controller without its queue and the link's state. -/
def Cuc.kept (v : Cuc) : Cuc := { v with queue := [], counter := 0, link := .disabled, frame := none }

/-- The Host Link Unit without the report queue. -/
def Hlu.kept (v : Hlu) : Hlu := { v with reports := [], number := 0, lost := false }

/-- What no derivation, evaluation, selection or report changes. -/
def Work.kept (w : Work) : Work :=
  ⟨w.svt.kept, w.bcp.kept, w.wsc.map WallString.kept, w.nre.kept, w.cuc.kept, w.hlu.kept⟩

/-- The records, configurations, rules, templates and levels: what a request or an event changes only when its rule says
so. Of the Host Link Unit, the mask and the feed timeout. -/
def Work.settled (w : Work) : Work :=
  { w.kept with hlu := { Hlu.reset with mask := w.hlu.mask, feedTimeout := w.hlu.feedTimeout } }

/-- What no event of the timebase and no command of a device writes: the configurations, rules and templates, and the
states of strings and of the cue link that outlast a frame or a cue. -/
def Work.loaded (w : Work) : Work :=
  { w.settled with
    svt := { w.svt with services := [] }
    nre := { w.nre.kept with ruleTime := 0 }
    cuc := { w.cuc.kept with resume := 0 } }

/-- A clock line without its state and its impulse. -/
def ClockLine.kept (l : ClockLine) : ClockLine :=
  { l with state := .unconfigured, drive := .idle, pending := false, seen := false, impulseSense := none, decide := false }

/-- R179, R181, R186: the request `r` takes its place behind the others and resets the feed count, the transmitter, when
free, takes its next frame, and nothing else changes: what a request that only reads does. A part that was DEGRADED also
leaves that state, with what follows from it. -/
def State.onlyRead (h : ReqHead) (r : Request) (s t : State) : Prop :=
  t.base = s.base ∧ t.scd = s.scd ∧ t.pending = s.pending ∧ t.work.settled = s.work.settled ∧
    (∃ x : Inbound, t.work.hlu.inbound = s.work.hlu.inbound ++ [x] ∧
      x.place = (s.work.hlu.arrivals, h.tag, ReqHead.frame h r)) ∧
    t.work.hlu.tx = s.work.hlu.tx.or t.work.hlu.nextSending ∧
    (s.work.hlu.degraded = false →
      t.work =
        { s.work with hlu :=
            { s.work.hlu with
              arrivals := s.work.hlu.arrivals + 1, feedCount := 0
              inbound := t.work.hlu.inbound, tx := t.work.hlu.tx } })

/-! ### Rules as claims read them -/

/-- R9 steps 1 and 2: the total T of a step of `d` ms, with a changeover taken off and then the limit applied. -/
def stepTotal (tb : Timebase) (d : Int) : Int :=
  let total := 1000 * tb.t + tb.fraction + d
  max (-3600000) (if 86400000 ≤ total then total - 86400000 else total)

/-- R9: the timebase after a step of `d` ms, with its rejection history emptied. -/
def afterStep (tb : Timebase) (d : Int) : Timebase :=
  { tb with
    t := stepTotal tb d / 1000
    secPos := (stepTotal tb d - 1000 * (stepTotal tb d / 1000)).toNat
    secLen := 1000
    tHigh := max (if 86400000 ≤ 1000 * tb.t + tb.fraction + d then 0 else tb.tHigh) (stepTotal tb d / 1000)
    slew := 0
    rejected := [] }

/-- R10: the local position of a pulse. -/
def pulsePosition (tb : Timebase) : Int :=
  match tb.period with
  | .second => tb.fraction
  | .minute => 1000 * (tb.t % 60) + tb.fraction

/-- R10: the offset of a pulse. -/
def pulseOffset (tb : Timebase) : Int :=
  if 2 * pulsePosition tb < periodMillis tb.period then pulsePosition tb
  else pulsePosition tb - periodMillis tb.period

/-- R182: the report `r` stands last in the report queue, if its class is enabled and there is room after it. -/
def State.reported (t : State) (r : ReportBody) : Prop :=
  t.work.hlu.mask.contains r.cls = true → t.work.hlu.reports.length < Config.maxReports →
    t.work.hlu.reports.getLast?.map Report.body = some r

/-- R182: the report `r` stands in the report queue, if its class is enabled and no report has been lost. -/
def State.raised (t : State) (r : ReportBody) : Prop :=
  t.work.hlu.mask.contains r.cls = true → t.work.hlu.lost = false → ∃ rep ∈ t.work.hlu.reports, rep.body = r

/-- R182, R15: the reports of class `c` that are raised from `s` to `t` are `rs`, in this order, if the class is enabled and no
report has been lost. -/
def State.raisedOf (c : ReportClass) (rs : List ReportBody) (s t : State) : Prop :=
  t.work.hlu.mask.contains c = true → t.work.hlu.lost = false →
    ∃ new, t.work.hlu.reports.map Report.body = s.work.hlu.reports.map Report.body ++ new ∧
      (new.filter fun r => r.cls == c) = rs

/-- R15: the reports of a step of `d` ms: CHANGEOVER where it passes the day, and then TIME_STEPPED. -/
def stepReports (tb : Timebase) (d : Int) (cause : StepCause) : List ReportBody :=
  let before := 1000 * tb.t + tb.fraction
  (if 86400000 ≤ before + d then [.changeover tb.c0 true] else []) ++
    [.timeStepped
      { oldT := tb.t, newT := stepTotal tb d / 1000, requested := d
        applied := if before + d < -3600000 then -3600000 - before else d, cause := cause
        clamped := decide (before + d < -3600000), changeover := decide (86400000 ≤ before + d) }]

/-- R133: an entry that is QUEUED or HELD. -/
def CueEntry.waits (e : CueEntry) : Prop := e.state = .queued ∨ e.state = .held

/-- R137: what a step event does to the late cues, `back` being the amount by which a changeover before it moves a latest start:
no waiting cue whose latest start is below the new t is left; and where nothing else can take such a cue from the queue before
(an empty table; or no selection, no rule with a cue, and a cue that no removal of a service withdraws), it is dropped EXPIRED. -/
def State.lateCuesGo (back : Int) (s t : State) : Prop :=
  (∀ e ∈ t.work.cuc.queue, e.waits → t.base.tbs.t ≤ e.latest) ∧
    ∀ e ∈ s.work.cuc.queue, e.waits → e.latest - back < t.base.tbs.t →
      s.work.svt.services = [] ∨
        (s.work.cuc.maySelect = false ∧ (∀ i r, s.work.nre.rule i = some r → r.cue = none) ∧
          (e.key = none ∨ e.template.withdrawOnClear = false)) →
      t.raised (.cueDropped e.number e.key e.source .expired (some e.seq))

/-- R173, R148: what an event that changes the override leaves. At an entry OVERRIDE_ENTERED is raised with its cause, no
waiting cue but the override's is left, and, where no selection can come between (`quiet`), every cue that waited is dropped
OVERRIDE and the override template, if one is configured and held, has its cue admitted at priority 8. At an exit
OVERRIDE_EXITED is raised with its cause, and the override's waiting cues are dropped OVERRIDE_ENDED. -/
def State.overrideFollows (cause : OverrideCause) (quiet : Prop) (s t : State) : Prop :=
  (s.base.fiu.override = false → t.base.fiu.override = true →
    t.raised (.overrideEntered cause t.base.fiu.keys t.base.fiu.forced) ∧
      (∀ e ∈ t.work.cuc.queue, e.waits → e.source = .override) ∧
      (quiet →
        (∀ e ∈ s.work.cuc.queue, e.waits → t.raised (.cueDropped e.number e.key e.source .override (some e.seq))) ∧
        ∀ n tm, s.work.cuc.cfg.overrideTemplate = some n → s.work.cuc.template n = some tm →
          s.work.cuc.queue.length < 32 →
          ∃ e ∈ t.work.cuc.queue, e.waits ∧ e.number = n ∧ e.template = tm ∧ e.key = none ∧ e.source = .override ∧
            e.priority = 8 ∧ e.seq = s.work.cuc.counter + 1 ∧ e.latest = t.base.tbs.t + tm.validity)) ∧
  (s.base.fiu.override = true → t.base.fiu.override = false →
    t.raised (.overrideExited cause t.base.fiu.keys t.base.fiu.forced) ∧
      (∀ e ∈ t.work.cuc.queue, e.waits → e.source ≠ .override) ∧
      (quiet → ∀ e ∈ s.work.cuc.queue, e.waits → e.source = .override →
        t.raised (.cueDropped e.number e.key e.source .overrideEnded (some e.seq))))

/-- R41: the service seconds a carried time converts to. -/
def carriedSeconds (c0 : Nat) : Carried MsgTime → Option Int
  | .value m => convertTime c0 m
  | _ => none

/-- R17, R21: the record a creation makes at station time `t`, without what rules and boards keep with it. -/
def createdRecord (c0 : Nat) (t : Int) (seq : BitVec 32) (r : PutReq) : Service :=
  let later := match carriedSeconds c0 r.effective with | some x => decide (t < x) | none => false
  { key := r.key
    seq := seq
    cls := match r.cls with | .value c => c | _ => 0
    destination := match r.destination with | .value i => i | _ => 0
    via := match r.via with | .value i => some i | _ => none
    scheduled := (carriedSeconds c0 r.scheduled).getD 0
    expected := carriedSeconds c0 r.expected
    status := match r.status with | .value (some st) => st | _ => .scheduled
    current := match r.platform with | .value p => if later then none else some p | _ => none
    previous := none
    staged := match r.platform with
      | .value p => if later then (carriedSeconds c0 r.effective).map fun x => (p, x) else none
      | _ => none
    changeTime := none
    calling := match r.calling with | .value is => is | _ => []
    coaches := match r.coaches with | .value n => some n | _ => none
    actual := carriedSeconds c0 r.actual
    lastUpdate := t
    stale := false, unsettled := false, timer := none, held := [], conf := [], flash := 0 }

/-- R24, R25, R26: the four platform fields after a SERVICE PUT at station time `t`. -/
def platformAfter (c0 : Nat) (t : Int) (r : PutReq) (x : Service) : Service :=
  match r.platform with
  | .value p =>
    if (match carriedSeconds c0 r.effective with | some e => decide (t < e) | none => false) = true then
      { x with staged := (carriedSeconds c0 r.effective).map fun e => (p, e) }
    else if x.current = some p then { x with staged := none }
    else
      { x with
        previous := if x.current = none then x.previous else x.current
        current := some p, changeTime := some t, staged := none }
  | .none => { x with previous := if x.current = none then x.previous else x.current, current := none, staged := none }
  | _ => x

/-- R22, R23, R27: the record after a SERVICE PUT at station time `t`. -/
def updatedRecord (c0 : Nat) (t : Int) (r : PutReq) (x : Service) : Service :=
  { platformAfter c0 t r x with
    cls := match r.cls with | .value c => c | _ => x.cls
    destination := match r.destination with | .value i => i | _ => x.destination
    via := match r.via with | .value i => some i | .none => none | _ => x.via
    scheduled := match r.scheduled with | .value m => (convertTime c0 m).getD x.scheduled | _ => x.scheduled
    expected := match r.expected with | .value m => convertTime c0 m | .none => none | _ => x.expected
    calling := match r.calling with | .value is => is | _ => x.calling
    coaches := match r.coaches with | .value n => some n | .none => none | _ => x.coaches
    actual := match r.actual with | .value m => convertTime c0 m | .none => none | _ => x.actual
    status := match r.status with | .value (some st) => st | _ => x.status
    timer := match r.status with | .value (some st) => if st = x.status then x.timer else none | _ => x.timer
    lastUpdate := t }

/-- R32: a record after the changeover. -/
def rebasedRecord (x : Service) : Service :=
  let back := fun v : Int => max (-43200) (v - 86400)
  { x with
    scheduled := back x.scheduled
    expected := x.expected.map back
    actual := x.actual.map back
    staged := x.staged.map fun p => (p.1, back p.2)
    changeTime := x.changeTime.map back
    lastUpdate := back x.lastUpdate }

/-- R25, R24: a record whose staged pair, if it is due at station time `t`, has become an immediate platform change. -/
def stagedRecord (t : Int) (x : Service) : Service :=
  match x.staged with
  | some (p, at') =>
    if at' ≤ t then
      if x.current = some p then { x with staged := none }
      else
        { x with
          previous := if x.current = none then x.previous else x.current
          current := some p, changeTime := some t, staged := none }
    else x
  | none => x

/-- R29: a record after one count of its departing timer. -/
def countedRecord (x : Service) : Service :=
  match x.timer with
  | some n => if n ≤ 1 then { x with timer := none, status := .departed } else { x with timer := some (n - 1) }
  | none => x

/-- R34: whether aging frees a record at station time `t`. -/
def agedOut (v : Svt) (t : Int) (x : Service) : Bool :=
  decide (((x.status = .departed ∨ x.status = .cancelled) ∧ 60 * (v.retain : Int) < t - x.k)
    ∨ 60 * (v.abandon : Int) < t - x.k)

/-- R38: a stored time as a reply gives it. -/
def readTime (c0 : Nat) (x : Int) : TimeView :=
  { seconds := x, day := x / 86400, clock := (x - 86400 * (x / 86400) + 60 * c0) % 86400 }

/-! ### Invariants -/

/-- R1, R2, R13, R14, R16: the ranges of the timebase, and t never above the high-water mark. -/
def Timebase.Inv (tb : Timebase) : Prop :=
  -3600 ≤ tb.t ∧ tb.t ≤ tb.tHigh ∧ tb.tHigh ≤ 86399 ∧ tb.secPos < tb.secLen ∧ 990 ≤ tb.secLen ∧ tb.secLen ≤ 1010
    ∧ -2000 ≤ tb.slew ∧ tb.slew ≤ 2000 ∧ tb.rejected.length ≤ 2 ∧ tb.c0 ≤ 1439
    ∧ (tb.state = .unset → tb.t = 0 ∧ tb.tHigh = 0 ∧ tb.secPos = 0 ∧ tb.slew = 0)

/-- R19, R124: at most 192 records with distinct keys; 24 watch slots, each bound to a pair whose HEAD is in the service's
held set; no pair with two slots. -/
def Work.watchInv (w : Work) : Prop :=
  (w.svt.services.map Service.key).Nodup ∧ w.svt.services.length ≤ Config.maxServices ∧
    w.nre.slots.length = Config.slotCount ∧
    (∀ (i : Nat) (x : Slot), w.nre.slots[i]? = some (some x) → ∃ y ∈ w.svt.services, y.key = x.key ∧ x.head ∈ y.held) ∧
    ∀ (i j : Nat) (x y : Slot), w.nre.slots[i]? = some (some x) → w.nre.slots[j]? = some (some y) → x.head = y.head →
      x.key = y.key → i = j

/-- R173: override stands as the key lines and the forced flag say. -/
def Fiu.Inv (u : Fiu) : Prop := u.keys = keyCondition u.lines ∧ u.override = (u.keys || u.forced)

/-- R53, R54: 1024 entries, each of at most 32 printable characters, and phrase codes 0..4095. -/
def textsInv (txs : List TextEntry) : Prop :=
  txs.length = Config.textEntries ∧
    ∀ e ∈ txs, e.text.length ≤ Config.maxText ∧ e.text.all printable = true ∧ ∀ p ∈ e.phrase, p ≤ 4095

/-- R153, R155, R160: the ranges of a clock line and of a section that waits for its impulse; three misses in a row are
a fault, and only a line that is RUNNING or CATCHUP drives an impulse. -/
def ClockLine.Inv (l : ClockLine) : Prop :=
  l.indicated < dialSize l.kind ∧ l.miss ≤ 3 ∧ (l.state ≠ .faulted → l.miss ≤ 2)
    ∧ 100 ≤ l.width ∧ l.width ≤ 1000 ∧ 200 ≤ l.gap ∧ l.gap ≤ 2000 ∧ l.hold ≤ 360 ∧ (∀ k ∈ l.sense, k < 16)
    ∧ (l.isDriving = true → l.state = .running ∨ l.state = .catchup)
    ∧ ∀ x ∈ l.waiting, 100 ≤ x.width ∧ x.width ≤ 1000 ∧ 200 ≤ x.gap ∧ x.gap ≤ 2000 ∧ x.hold ≤ 360
        ∧ (x.position = none → x.kind = l.kind) ∧ ∀ p ∈ x.position, p < dialSize x.kind

/-- R92, R94, R97: a string queues at most 48 frames, one for each address, and its line is IDLE when no frame is in
flight and only then. -/
def WallString.Inv (u : WallString) : Prop :=
  u.queue.length ≤ Config.maxQueue ∧ (u.queue.map WallFrame.address).Nodup ∧ (u.activity = .idle ↔ u.inFlight = none)

/-- R133: queue order, priority descending and then enqueue sequence ascending. -/
def cueOrder (x y : CueEntry) : Prop := y.priority < x.priority ∨ (x.priority = y.priority ∧ x.seq.toNat ≤ y.seq.toNat)

/-- R94, R133, R177, R179, R182: the bounds of the queues, and the order of the cue queue. -/
def Work.bounds (w : Work) : Prop :=
  (∀ u ∈ w.wsc, u.Inv) ∧ w.cuc.queue.length ≤ Config.maxCues ∧ w.cuc.queue.Pairwise cueOrder
    ∧ w.hlu.inbound.length ≤ Config.maxInbound ∧ w.hlu.busy.length ≤ Config.maxBusy
    ∧ w.hlu.reports.length ≤ Config.maxReports

/-! ### Requests -/

/-- The request a request command carries, with its head. -/
def requestOf : Instr → Option (ReqHead × Request)
  | .identify h => some (h, .identify)
  | .configureGeneral h r => some (h, .configureGeneral r)
  | .configureBoard h n r => some (h, .configureBoard n r)
  | .configureString h n r => some (h, .configureString n r)
  | .configureLine h n r => some (h, .configureLine n r)
  | .configureClockLine h n r => some (h, .configureClockLine n r)
  | .configureCueLink h r => some (h, .configureCueLink r)
  | .textLoad h items => some (h, .textLoad items)
  | .servicePut h r => some (h, .servicePut r)
  | .serviceDrop h key => some (h, .serviceDrop key)
  | .serviceGet h key => some (h, .serviceGet key)
  | .serviceList h o start => some (h, .serviceList o start)
  | .rulePut h n r => some (h, .rulePut n r)
  | .ruleDrop h n => some (h, .ruleDrop n)
  | .templatePut h n r => some (h, .templatePut n r)
  | .cueAsk h n key => some (h, .cueAsk n key)
  | .timeSet h hour m sec ms => some (h, .timeSet hour m sec ms)
  | .timeGet h => some (h, .timeGet)
  | .boardGet h n => some (h, .boardGet n)
  | .overrideSet h on => some (h, .overrideSet on)
  | .status h => some (h, .status)
  | .reportMask h cs => some (h, .reportMask cs)
  | .restart h => some (h, .restart)
  | .powerOn | .hostFrame _ | .frameTimeout | .hostFrameSent | .secondEvent | .edge _ _ | .syncLost | .lockoutEnd _
  | .departingTimerEnd _ | .pageExpiry _ | .flashEnd _ | .wallFrameSent _ | .moduleReply _ _ | .replyTimeout _
  | .watchExpiry _ | .watchCount _ | .endOfTransmission | .acceptWindowEnd | .maximumPlayTimeEnd | .resumeDelayEnd
  | .impulseEnd _ | .gapEnd _ | .feedLost | .filterSample _ _ => none

/-- The refusal that the checks of a request's rule give, none where it passes them or has none to pass. -/
def State.refusalOf (s : State) : Request → Option Reply
  | .configureGeneral r => generalRefusal s r
  | .configureBoard n r => boardRefusal s n r
  | .configureString n r => stringRefusal n r
  | .configureLine n r => lineRefusal s n r
  | .configureClockLine n r => clockRefusal s n r
  | .configureCueLink r => cueLinkRefusal s r
  | .textLoad items => textRefusal items
  | .servicePut r => putRefusal s r
  | .serviceDrop key | .serviceGet key => keyRefusal s key
  | .serviceList o start => listRefusal s o start
  | .rulePut n r => ruleRefusal s n r
  | .ruleDrop n => ruleDropRefusal s n
  | .templatePut n r => templateRefusal n r
  | .cueAsk n key => askRefusal s n key
  | .timeSet h m sec ms => timeRefusal h m sec ms
  | .boardGet n => boardGetRefusal s n
  | .overrideSet none => some (Reply.badField .overrideValue)
  | .reportMask cs => if cs.contains none then some (Reply.badField .reportClass) else none
  | .overrideSet (some _) | .identify | .timeGet | .status | .restart => none

/-- R20 check 2: what makes each field of a SERVICE PUT fail, in the order of the field table: a value out of its range, none
in a field that may not carry it, a none flag of a field that is not present, and an effective time without a platform. -/
def putFieldFails (c0 : Nat) (r : PutReq) : List (FieldId × Prop) :=
  let timeFails := fun m : MsgTime => ∀ v, convertTime c0 m ≠ some v
  [(.key, keyForm r.key = false),
   (.cls, r.cls = .strayNone ∨ r.cls = .none ∨ ∃ n, r.cls = .value n ∧ 15 < n),
   (.destination, r.destination = .strayNone ∨ r.destination = .none ∨ ∃ i, r.destination = .value i ∧ 1023 < i),
   (.via, r.via = .strayNone ∨ ∃ i, r.via = .value i ∧ 1023 < i),
   (.scheduled, r.scheduled = .strayNone ∨ r.scheduled = .none ∨ ∃ m, r.scheduled = .value m ∧ timeFails m),
   (.expected, r.expected = .strayNone ∨ ∃ m, r.expected = .value m ∧ timeFails m),
   (.status, r.status = .strayNone ∨ r.status = .none ∨ r.status = .value none),
   (.platform, r.platform = .strayNone ∨
      ∃ d, r.platform = .value d ∧ (d.num < 1 ∨ 40 < d.num ∨ 2 < d.suffix)),
   (.effective, r.effective = .strayNone ∨ r.effective = .none ∨
      ∃ m, r.effective = .value m ∧ (timeFails m ∨ ∀ d, r.platform ≠ .value d)),
   (.calling, r.calling = .strayNone ∨ r.calling = .none ∨
      ∃ is, r.calling = .value is ∧ (20 < is.length ∨ ∃ i ∈ is, 1023 < i)),
   (.coaches, r.coaches = .strayNone ∨ ∃ n, r.coaches = .value n ∧ (n < 1 ∨ 16 < n)),
   (.actual, r.actual = .strayNone ∨ ∃ m, r.actual = .value m ∧ timeFails m)]

/-- A field that, when carried, is outside lo..hi. -/
def beyond (lo hi : Nat) (v : Option Nat) : Prop := ∃ n, v = some n ∧ (n < lo ∨ hi < n)

/-- A required field that is missing or outside lo..hi. -/
def unfit (lo hi : Nat) (v : Option Nat) : Prop := ∀ n, v = some n → n < lo ∨ hi < n

/-- A range lo..hi that is malformed or ends above `top`. -/
def crooked (top : Nat) (v : Option (Nat × Nat)) : Prop := ∃ lo hi, v = some (lo, hi) ∧ (hi < lo ∨ top < hi)

/-- A carried set that is empty or has a member outside lo..hi. -/
def illSet (lo hi : Nat) (v : Option (List Nat)) : Prop := ∃ xs, v = some xs ∧ (xs = [] ∨ ∃ x ∈ xs, x < lo ∨ hi < x)

/-- Checks on fields, each refused BAD_FIELD with the field named. -/
def fieldChecks (xs : List (FieldId × Prop)) : List (Reply × Prop) := xs.map fun p => (⟨.badField, [], .field p.1⟩, p.2)

/-- R119 check 2: what makes the predicates and the actions of a RULE PUT fail, in the order of 11.7. -/
def ruleFieldFails (r : RuleReq) : List (FieldId × Prop) :=
  let p := r.preds
  let head := r.kind ≠ .is .term
  let term := r.kind = .is .term
  [(.predicate 0, ∃ ss, p.status = some ss ∧ (ss = [] ∨ none ∈ ss)), (.predicate 1, illSet 0 15 p.cls),
   (.predicate 2, illSet 1 40 p.platform), (.predicate 3, beyond 0 1023 p.destination),
   (.predicate 4, beyond 0 1023 p.calling), (.predicate 5, crooked 999 p.delay), (.predicate 6, crooked 99 p.countdown),
   (.predicate 7, beyond 1 3600 p.changed), (.predicate 8, p.stale = .unknown), (.predicate 9, p.unsettled = .unknown),
   (.predicate 10, p.actual = .unknown),
   (.terms, term ∧ r.terms ≠ none), (.priority, (term ∧ r.priority ≠ none) ∨ (head ∧ beyond 0 7 r.priority)),
   (.notice, (term ∧ r.notice ≠ none) ∨ (head ∧ beyond 0 1023 r.notice)),
   (.banner, (term ∧ r.banner ≠ none) ∨ (head ∧ ∃ i bs, r.banner = some (i, bs) ∧ (1023 < i ∨ bs = [] ∨ ∃ n ∈ bs, 15 < n))),
   (.cue, (term ∧ r.cue ≠ none) ∨ (head ∧ beyond 0 63 r.cue)),
   (.watch, (term ∧ r.watch ≠ .omitted) ∨ (head ∧ (r.watch = .unknown ∨ (∃ n, r.watch = .is (.timeout n) ∧ (n < 10 ∨ 3600 < n))
      ∨ ∃ n, r.watch = .is (.count n) ∧ (n < 2 ∨ 15 < n)))),
   (.reportAction, term ∧ r.report = true)]

/-- R119 check 4, R121: IN_USE for a TERM of place `n` that some other HEAD lists; the lowest such HEAD comes first. -/
def listedChecks (e : Nre) (n : Nat) (when : Prop) : List (Reply × Prop) :=
  (List.range 64).map fun h => (⟨.inUse, [], .holder h⟩,
    when ∧ (∃ q, e.rule n = some q ∧ q.kind = .term) ∧ h ≠ n ∧ ∃ q, e.rule h = some q ∧ q.kind = .head ∧ n ∈ q.terms)

/-- R37, R38: the checks on a request that names a service. -/
def keyChecks (s : State) (key : Key) : List (Reply × Prop) :=
  [(⟨.badField, [], .field .key⟩, keyForm key = false), (⟨.notFound, [], .field .key⟩, s.work.svt.find key = none)]

/-- The checks that each request's own rule lists, in their order, each with the reply it gives and with what makes it fail:
R2, R6, R18, R20, R37, R38, R40, R55, R61, R63, R90, R91, R119, R121, R131, R132, R135, R149, R154, R168, R174, R183, R186. -/
def State.checksOf (s : State) : Request → List (Reply × Prop)
  | .configureGeneral r =>
    let v := s.work.svt
    let abandon := r.abandon.getD v.abandon
    fieldChecks
      [(.c0, beyond 0 1439 r.c0), (.syncPeriod, r.period = .unknown), (.overdue, beyond 0 240 r.overdue),
       (.retain, beyond 1 240 r.retain),
       (.abandon, beyond 30 720 r.abandon ∨ abandon < r.retain.getD v.retain ∨ abandon < r.overdue.getD v.overdue),
       (.window, beyond 0 1800 r.window), (.departing, beyond 10 300 r.departing), (.tolerance, beyond 0 5 r.tolerance),
       (.flashTime, beyond 0 120 r.flashTime), (.startText, beyond 0 1023 r.startText),
       (.degradedText, beyond 0 1023 r.degradedText), (.overrideText, beyond 0 1023 r.overrideText),
       (.feedTimeout, beyond 10 600 r.feedTimeout ∧ r.feedTimeout ≠ some 0)]
    ++ [(⟨.state, [], .field .c0⟩, s.base.tbs.state ≠ .unset ∧ ∃ c, r.c0 = some c ∧ c ≠ s.base.tbs.c0)]
  | .configureBoard n r =>
    let first := r.first.getD 1
    let rows := r.rows.getD 1
    fieldChecks
      [(.boardNumber, 15 < n), (.enabled, r.enabled = .unknown), (.string, unfit 0 3 r.string),
       (.firstModule, unfit 1 63 r.first), (.rows, unfit 1 24 r.rows), (.kind, ∀ k, r.kind ≠ .is k),
       (.platformFilter, ∃ p ∈ r.platforms.getD [], p < 1 ∨ 40 < p), (.classFilter, ∃ c ∈ r.classes.getD [], 15 < c),
       (.horizon, beyond 10 720 r.horizon), (.fixedRows, beyond 0 rows r.fixed), (.firstModule, 64 < first + rows)]
    ++ (List.range 16).map fun m => (⟨.inUse, [], .holder m⟩,
        m ≠ n ∧ ∃ bd, s.work.board m = some bd ∧ bd.record.string = r.string.getD 0 ∧
          bd.record.first < first + rows ∧ first < bd.record.first + bd.record.rows)
  | .configureString n r =>
    fieldChecks [(.stringNumber, 3 < n), (.enabled, r.enabled = .unknown), (.lineRate, r.rate = .unknown)]
  | .configureLine n r =>
    fieldChecks
      [(.lineNumber, 15 < n),
       (.role, (∀ x, r.role ≠ .is x) ∨ (∃ p, r.role = .is (.dispatch p) ∧ (p < 1 ∨ 40 < p)) ∨ ∃ k, r.role = .is (.sense k) ∧ 3 < k),
       (.activeLevel, r.active = .unknown),
       (.filter, r.filter = .unknown ∨ ∃ p, r.filter = .is (some p) ∧ p ≠ 1 ∧ p ≠ 4 ∧ p ≠ 16 ∧ p ≠ 64),
       (.edgeReports, r.reports = .unknown), (.lockout, beyond 0 60 r.lockout)]
    ++ (List.range 16).map fun m => (⟨.inUse, [], .holder m⟩,
        m ≠ n ∧ ∃ x l, r.role = .is x ∧ (x = .sync ∨ x = .paOverride ∨ x = .playBusy ∨ ∃ k, x = .sense k) ∧
          s.base.fiu.lines[m]? = some l ∧ l.role = x)
  | .configureClockLine n r =>
    let kind := argOr .minute r.kind
    fieldChecks
      [(.clockLine, 3 < n), (.active, r.active = .unknown), (.kind, ∀ k, r.kind ≠ .is k),
       (.indicated, ¬ (r.indicated = .is .keep ∧ (s.clock n).kind = kind) ∧
          ¬ ∃ h m sec, r.indicated = .is (.reading h m sec) ∧ h ≤ 23 ∧ m ≤ 59 ∧ (sec = 0 ∨ (kind = .halfMinute ∧ sec = 30))),
       (.polarity, r.polarity = .unknown), (.hold, beyond 0 360 r.hold)]
  | .configureCueLink r =>
    fieldChecks
      [(.enabled, r.enabled = .unknown), (.lineRate, r.rate = .unknown), (.phraseWidth, r.width = .unknown),
       (.numberBase, beyond 0 3096 r.numberBase), (.hourBase, beyond 0 4072 r.hourBase),
       (.minuteBase, beyond 0 4036 r.minuteBase), (.suffixA, beyond 0 4095 r.suffixA), (.suffixB, beyond 0 4095 r.suffixB),
       (.truncation, beyond 0 4095 r.truncation),
       (.zoneMap, ∃ es, r.zones = some es ∧ (es = [] ∨ 40 < es.length ∨
          ∃ e ∈ es, e.1 < 1 ∨ 40 < e.1 ∨ ∃ z ∈ e.2, z < 1 ∨ 8 < z)),
       (.overrideTemplate, ∃ n, r.overrideTemplate = some (some n) ∧ 63 < n)]
    ++ [(⟨.state, [], .field .disablePending⟩, s.work.cuc.disablePending = true ∧ r.enabled = .is true)]
  | .textLoad items =>
    let each := fun (fails : Nat → TextItem → Prop) =>
      fieldChecks (items.zipIdx.map fun p => (.item p.2 p.1.index, fails p.2 p.1))
    fieldChecks [(.itemCount, items = [] ∨ 16 < items.length)]
    ++ each (fun _ x => 1023 < x.index)
    ++ each (fun i x => ∃ j y, j < i ∧ items[j]? = some y ∧ y.index = x.index)
    ++ each (fun _ x => 32 < x.text.length)
    ++ each (fun _ x => ∃ c ∈ x.text, c.toNat < 0x20 ∨ (0x7E < c.toNat ∧ c.toNat < 0xA0))
    ++ each (fun _ x => beyond 0 4095 x.phrase)
  | .servicePut r =>
    let held := s.work.svt.find r.key
    [(⟨.state, [], .field .timebase⟩, s.base.tbs.state = .unset)]
    ++ fieldChecks (putFieldFails s.base.tbs.c0 r)
    ++ fieldChecks
      [(.destination, held = none ∧ ∀ i, r.destination ≠ .value i), (.scheduled, held = none ∧ ∀ m, r.scheduled ≠ .value m)]
    ++ [(⟨.state, [], .field .actual⟩,
          ∃ x, held = some x ∧ x.actual ≠ none ∧ (r.actual = .none ∨ ∃ m, r.actual = .value m))]
  | .serviceDrop key | .serviceGet key => keyChecks s key
  | .serviceList o start =>
    fieldChecks [(.order, o = .unknown ∨ ∃ b, o = .board b ∧ 15 < b), (.startIndex, 191 < start)]
    ++ [(⟨.notFound, [], .field .order⟩, ∃ b, o = .board b ∧ s.work.board b = none)]
  | .rulePut n r =>
    let e := s.work.nre
    fieldChecks ([(.ruleNumber, 63 < n), (.kind, ∀ k, r.kind ≠ .is k), (.enabled, r.enabled = .unknown)] ++ ruleFieldFails r)
    ++ fieldChecks [(.terms, r.kind = .is .head ∧ ∃ ts, ts = r.terms.getD [] ∧ (4 < ts.length ∨ ¬ ts.Nodup ∨
          ∃ i ∈ ts, 63 < i ∨ i = n ∨ ∀ q, e.rule i = some q → q.kind ≠ .term))]
    ++ listedChecks e n (r.kind = .is .head)
  | .ruleDrop n =>
    [(⟨.badField, [], .field .ruleNumber⟩, 63 < n), (⟨.notFound, [], .field .ruleNumber⟩, s.work.nre.rule n = none)]
    ++ listedChecks s.work.nre n True
  | .templatePut n r =>
    fieldChecks
      [(.templateNumber, 63 < n),
       (.items, r.items = [] ∨ 12 < r.items.length ∨ none ∈ r.items ∨ ∃ c, some (.phrase c) ∈ r.items ∧ 4095 < c),
       (.priority, unfit 0 7 r.priority),
       (.zoneSource, (∀ z, r.zones ≠ .is z) ∨ ∃ zs, r.zones = .is (.fixed zs) ∧ (zs = [] ∨ ∃ z ∈ zs, z < 1 ∨ 8 < z))]
  | .cueAsk n key =>
    let tm := s.work.cuc.template n
    [(⟨.state, [], .field .timebase⟩, s.base.tbs.state = .unset), (⟨.badField, [], .field .templateNumber⟩, 63 < n),
     (⟨.badField, [], .field .key⟩, ∃ k, key = some k ∧ keyForm k = false),
     (⟨.notFound, [], .field .templateNumber⟩, tm = none),
     (⟨.notFound, [], .field .key⟩, ∃ k, key = some k ∧ s.work.svt.find k = none),
     (⟨.badField, [], .field .key⟩, key = none ∧ ∃ m, tm = some m ∧ (m.zones = .platform ∨ ∃ x, .slot x ∈ m.items))]
  | .timeSet h m sec ms => fieldChecks [(.hour, 23 < h), (.minute, 59 < m), (.second, 59 < sec), (.millis, 999 < ms)]
  | .boardGet n =>
    [(⟨.badField, [], .field .boardNumber⟩, 15 < n), (⟨.notFound, [], .field .boardNumber⟩, s.work.board n = none)]
  | .overrideSet on => fieldChecks [(.overrideValue, on = none)]
  | .reportMask cs => fieldChecks [(.reportClass, none ∈ cs)]
  | .identify | .timeGet | .status | .restart => []

/-- R173: at least one line has the role OVERRIDE_KEY and every line with that role is active. -/
def keysTurned (lines : List FieldLine) : Prop :=
  (∃ l ∈ lines, l.role = .overrideKey) ∧ ∀ l ∈ lines, l.role = .overrideKey → l.filtered = l.active

/-! ### Clock lines -/

/-- R153: N. -/
def positions (k : ClockKind) : Nat := match k with | .minute => 720 | .halfMinute => 1440

/-- R157: d of a position against the target at a clock second. -/
def stepsBehind (k : ClockKind) (clock position : Nat) : Nat :=
  let target := match k with | .minute => clock / 60 % 720 | .halfMinute => clock / 30 % 1440
  (target + positions k - position) % positions k

/-- R158: the state the decision gives. -/
def decidedState (k : ClockKind) (hold d : Nat) : ClockState :=
  let h := match k with | .minute => hold | .halfMinute => 2 * hold
  if d = 0 then .running else if d + h ≤ positions k - 1 then .catchup else .holding

/-- R158, R159: a line on which the decision is taken, and the impulse that it starts when the line is IDLE. -/
def decidedLine (elapsed clock : Nat) (l : ClockLine) : ClockLine :=
  let next := decidedState l.kind l.hold (stepsBehind l.kind clock l.indicated)
  if next = .catchup ∧ (l.pending = true ∨ l.state ≠ .catchup) then
    if l.drive = .idle then
      { l with
        state := next, pending := false, drive := .driving (elapsed + l.width), seen := false, impulseSense := l.sense }
    else { l with state := next, pending := true }
  else { l with state := next, pending := false }

/-- R164: a line after a step event: decided at once, or, while it drives an impulse, to be decided at the impulse's end. -/
def steppedLine (elapsed clock : Nat) (l : ClockLine) : ClockLine :=
  if l.state = .running ∨ l.state = .catchup ∨ l.state = .holding then
    if l.isDriving = true then { l with decide := true } else decidedLine elapsed clock l
  else l

/-- R157, R165: the target of a line; absent in an UNSET timebase, and for a line that is UNCONFIGURED or WAITING. -/
def lineTarget (tb : Timebase) (l : ClockLine) : Option Nat :=
  if tb.state = .unset ∨ l.state = .unconfigured ∨ l.state = .waiting then none
  else some (match l.kind with | .minute => tb.clockSeconds / 60 % 720 | .halfMinute => tb.clockSeconds / 30 % 1440)

/-- R166: the report of line `n` changing state from that of `old` to that of `new`; none where the state is the same. -/
def stateChange (n : Nat) (tb : Timebase) (cause : ClockCause) (old new : ClockLine) : List ReportBody :=
  if old.state = new.state then []
  else
    [.clockLineState n old.state new.state cause new.indicated (lineTarget tb new)
      ((lineTarget tb new).map fun _ => stepsBehind new.kind tb.clockSeconds new.indicated)]

/-- R166: the reports of an event that takes the lines `old` to the lines `new`, in ascending line number. -/
def stateChanges (tb : Timebase) (cause : ClockCause) (old new : List ClockLine) : List ReportBody :=
  (old.zip new).zipIdx.flatMap fun p => stateChange p.2 tb cause p.1.1 p.1.2

/-! ### Cues (R141, R142) -/

/-- R138: the record a cue entry speaks of: that of its key, if it has its service sequence. -/
def CueEntry.record (w : Work) (e : CueEntry) : Option Service :=
  e.key.bind fun k => w.svt.services.find? fun x => x.key == k && some x.seq == e.serviceSeq

/-- R141: the phrases of a slot for a record; none when it is unresolvable. -/
def slotSpeech (b : Base) (cfg : CueConfig) (x : Service) : CueSlot → Option (List Nat) :=
  let code := fun i : Nat => (textEntry b.txs i).phrase
  let platform := fun d : Designator => [cfg.numberBase + d.num] ++
    match d.suffix with | 1 => [cfg.suffixA] | 2 => [cfg.suffixB] | _ => []
  let time := fun m : Int => let shown := ((m + b.tbs.c0) % 1440).toNat
    [cfg.hourBase + shown / 60, cfg.minuteBase + shown % 60]
  fun
  | .platform => x.current.map platform
  | .oldPlatform => x.previous.map platform
  | .dest => (code x.destination).map ([·])
  | .via => (x.via.bind code).map ([·])
  | .schedTime => some (time (x.scheduled / 60))
  | .expTime => x.expected.map fun e => time ((e + 30) / 60)
  | .delayMin => if 1 ≤ x.delay ∧ x.delay ≤ 999 then some [cfg.numberBase + x.delay] else none
  | .callingPoints => if ∀ i ∈ x.calling, (code i).isSome = true then some (x.calling.filterMap code) else none
  | .coaches => x.coaches.map fun n => [cfg.numberBase + n]

/-- R141, R142: the phrases of a cue entry in order; none where an item is unresolvable, as every slot is without a record. -/
def CueEntry.speech (b : Base) (w : Work) (e : CueEntry) : Option (List Nat) :=
  let item : CueItem → Option (List Nat) := fun
    | .phrase c => some [c]
    | .slot k => (e.record w).bind fun x => slotSpeech b w.cuc.cfg x k
  if ∀ i ∈ e.template.items, (item i).isSome = true then some (e.template.items.filterMap item).flatten else none

/-- R142: the zone set of a cue entry; none where it cannot be found. -/
def CueEntry.zoneSet (w : Work) (e : CueEntry) : Option (List Nat) :=
  match e.template.zones with
  | .fixed zs => some zs
  | .platform =>
    match (e.record w).bind Service.current with
    | some d => if w.cuc.cfg.zones.getD (d.num - 1) [] = [] then none else w.cuc.cfg.zones[d.num - 1]?
    | none => none

/-! ### Rows at a text change (R57, R59) -/

/-- R70, R72, R68: what the last derivation of a board gave row `row`. -/
def Board.assigned (b : Base) (w : Work) (bd : Board) (row : Nat) : RowSource :=
  let list := bd.eligible.filterMap fun k => w.svt.services.find? fun x => x.key == k
  let shown := if bd.banner ≠ .none ∧ (bd.record.kind = .list ∨ 3 ≤ bd.record.rows) then 1 else 0
  let fixed := min bd.record.fixed (bd.record.rows - shown)
  let rotating := bd.record.rows - fixed - shown
  let position := fun i : Nat => match list[i - 1]? with | some x => RowSource.service x | none => .blank
  let banner := match bd.banner with
    | .none => none
    | .degraded => some w.bcp.degradedText
    | .rule h => (w.nre.rule h).bind fun r => r.banner.map Prod.fst
  if b.fiu.override = true then (if row = 1 then .banner w.bcp.overrideText else .blank)
  else if b.tbs.state = .unset then (if row = 1 then .banner w.bcp.startText else .blank)
  else if shown = 1 ∧ row = bd.record.rows then (match banner with | some i => .banner i | none => .blank)
  else if bd.record.kind = .list then
    (if row ≤ fixed then position row else position (fixed + bd.page * rotating + (row - fixed)))
  else if row = 1 then position 1
  else if row = 2 then (match list.head? with | some x => .calling x | none => .blank)
  else position (row - 1)

/-- R57, R74: whether a row reads the text index `i`; its notice is that of the highest priority, and of equal priorities the
lowest number, among the HEADs in the record's held set that have one. -/
def RowSource.reads (w : Work) (i : Nat) : RowSource → Prop
  | .service x =>
    let candidate := fun (h : Nat) (r : Rule) => h < 64 ∧ h ∈ x.held ∧ w.nre.rule h = some r ∧ r.kind = .head ∧ r.notice ≠ none
    i = x.destination ∨ x.via = some i ∨ ∃ h r, candidate h r ∧ r.notice = some i ∧
      ∀ g q, candidate g q → g = h ∨ q.priority < r.priority ∨ (q.priority = r.priority ∧ h < g)
  | .calling x => i ∈ x.calling
  | .banner j => i = j
  | .blank => False

/-! ### Payloads (11.7) -/

/-- A number as two bytes, most significant first. -/
def twoBytes (n : Nat) : List Byte := [BitVec.ofNat 8 (n / 256), BitVec.ofNat 8 (n % 256)]

/-- 11.7: the payload of a TEXT LOAD. -/
def textPayload (items : List TextItem) : List Byte :=
  BitVec.ofNat 8 items.length :: items.flatMap fun x =>
    twoBytes x.index ++ twoBytes (x.phrase.getD 0xFFFF) ++ BitVec.ofNat 8 x.text.length :: x.text

/-- R178: the kind and the payload of each frame that bytes complete for a receiver, in their order. -/
def completedFrames (elapsed : Nat) : Receiver → List Byte → List (Byte × List Byte)
  | _, [] => []
  | rx, x :: xs =>
    match rx.take elapsed x with
    | (rx', .frame kind _ payload) => (kind, payload) :: completedFrames elapsed rx' xs
    | (rx', _) => completedFrames elapsed rx' xs

end Sys2Proof.Machine
end

