-- ==== Sys2Proof/Certificates/Slice0/Obligations.lean ====
section
/-!
DEFINITION. The statements for the provers, chapter by chapter. Each says what a command or the whole part does by the
manual's rules. A statement about a request speaks of one that is `ready`: it is served as soon as its frame arrives, and its
frame arrives with its command (log 3).
-/

open Sys2Proof Sys2Proof.Machine

/-! ### Station time (chapter 1) -/

/-- R8: a TIME GET is answered OK in every state with the snapshot of the rule, whose values agree with one another; while
UNSET the clock time is absent and the others read 0 (the timebase's invariant being a statement of its own).
Choices of the model in it: log 3. -/
def Obligations.TimeGetAnswersTheSnapshot : Prop :=
  ∀ (h : ReqHead) (s : State), s.ready → h.misfit = none →
    ∃ t v, exec (.timeGet h) s = .next t ∧ s.onlyRead h .timeGet t ∧ t.replyTo s.work.hlu.arrivals = some ⟨.ok, [], .time v⟩ ∧
      v =
        { state := s.base.tbs.state
          clock := if s.base.tbs.state = .unset then none
            else some (((s.base.tbs.t + 60 * s.base.tbs.c0) * 1000
              + (1000 * s.base.tbs.secPos / s.base.tbs.secLen : Nat)) % 86400000)
          t := s.base.tbs.t
          fraction := 1000 * s.base.tbs.secPos / s.base.tbs.secLen
          tHigh := s.base.tbs.tHigh
          slew := s.base.tbs.slew
          c0 := s.base.tbs.c0
          period := s.base.tbs.period } ∧
      (s.base.tbs.Inv → s.base.tbs.state = .unset →
        v = ⟨.unset, none, 0, 0, 0, 0, s.base.tbs.c0, s.base.tbs.period⟩)

/-- R6: the first TIME SET places t in the service day that begins at C0 and puts the state to FREE; R165: every clock line
that is WAITING is decided against the new time, and no other line changes. R15, R166: the reports are TIME_STEPPED, marked
initial, and one for each clock line that changes its state, with the cause TIME SET. R137: no waiting cue whose latest start is
below the new t is left; where nothing else can take it before, it is dropped EXPIRED. Choices of the model in it: log 3, 36,
45. -/
def Obligations.FirstTimeSetPlacesTheDay : Prop :=
  ∀ (h : ReqHead) (hour minute second millis : Nat) (s : State), s.ready → h.misfit = none →
    hour ≤ 23 → minute ≤ 59 → second ≤ 59 → millis ≤ 999 → s.base.tbs.state = .unset → s.base.tbs.c0 ≤ 1439 →
    ∃ t, exec (.timeSet h hour minute second millis) s = .next t ∧
      t.replyTo s.work.hlu.arrivals = some Reply.ok ∧
      t.base =
        { s.base with tbs :=
            { s.base.tbs with
              state := .free
              t := ((3600 * hour + 60 * minute + second : Nat) - 60 * (s.base.tbs.c0 : Int)) % 86400
              tHigh := ((3600 * hour + 60 * minute + second : Nat) - 60 * (s.base.tbs.c0 : Int)) % 86400
              secPos := millis
              secLen := 1000
              slew := 0
              rejected := []
              lastPulse := none
              superviseFrom := none } } ∧
      t.pending = s.pending ∧ t.work.loaded = s.work.loaded ∧
      s.raisedOf .time [.timeSteppedInitial] t ∧ s.lateCuesGo 0 t ∧
      s.raisedOf .clockLine (stateChanges t.base.tbs .timeSet s.scd t.scd) t ∧
      t.scd.map ClockLine.kept = s.scd.map ClockLine.kept ∧
      ∀ (n : Nat) (l : ClockLine), s.scd[n]? = some l →
        t.scd[n]? = some
          (if l.state = .waiting then decidedLine s.base.elapsed t.base.tbs.clockSeconds l else l)

/-- R7, R9: a TIME SET in a qualified state steps the clock by d, the shorter way round the dial to the carried time; d is
the one amount in −43200000..43199999 that carries the clock milliseconds to the carried time; R164: the step decides every
RUNNING, CATCHUP and HOLDING clock line, at once or at the end of the impulse it drives. R15, R166: the reports are CHANGEOVER
where the step passes the day, then TIME_STEPPED, and one for each clock line that changes its state, with the cause STEP;
an amount of 0 raises none. R137: at the step event no waiting cue whose latest start is below the new t is left; where nothing
else can take it before (an empty table; or no selection, no rule with a cue, and a cue that no removal of a service withdraws),
it is dropped with CUE_DROPPED EXPIRED, and a step that passes the day compares a latest start moved back by 86400.
Choices of the model in it: log 3, 45. -/
def Obligations.TimeSetStepsTheClock : Prop :=
  ∀ (h : ReqHead) (hour minute second millis : Nat) (s : State) (d : Int), s.ready → h.misfit = none →
    hour ≤ 23 → minute ≤ 59 → second ≤ 59 → millis ≤ 999 → s.base.tbs.state ≠ .unset →
    -43200000 ≤ d → d ≤ 43199999 →
    (s.base.tbs.clockMillis + d - ((3600 * hour + 60 * minute + second) * 1000 + millis : Nat)) % 86400000 = 0 →
    ∃ t, exec (.timeSet h hour minute second millis) s = .next t ∧
      t.pending = s.pending ∧ t.work.loaded = s.work.loaded ∧
      t.scd.map ClockLine.kept = s.scd.map ClockLine.kept ∧
      if d = 0 then
        t.base = s.base ∧ t.scd = s.scd ∧ s.raisedOf .time [] t ∧ s.raisedOf .clockLine [] t ∧
          t.replyTo s.work.hlu.arrivals = some ⟨.ok, [], .stepped 0 0 false false⟩
      else
        let before := 1000 * s.base.tbs.t + s.base.tbs.fraction
        let clamped := before + d < -3600000
        t.base = { s.base with tbs := afterStep s.base.tbs d } ∧
          s.raisedOf .time (stepReports s.base.tbs d .timeSet) t ∧
          s.lateCuesGo (if 86400000 ≤ before + d then 86400 else 0) t ∧
          s.raisedOf .clockLine (stateChanges t.base.tbs .step s.scd t.scd) t ∧
          (∀ (n : Nat) (l : ClockLine), s.scd[n]? = some l →
            t.scd[n]? = some (steppedLine s.base.elapsed t.base.tbs.clockSeconds l)) ∧
          t.replyTo s.work.hlu.arrivals = some ⟨.ok, [], .stepped d
            (if clamped then -3600000 - before else d) (decide clamped) (decide (86400000 ≤ before + d))⟩

/-- R4, R5, R13: a second event advances t and t_high, or changes over, and sets the length of the second it begins; R15: of the
TIME reports it raises CHANGEOVER at a changeover and no other. At the
Board Composer (R86, R76, R71): every flash count above 0 falls by one, after a staged pair that is due and changes the
platform (R25) has set its service's count to the flash time, and the page timer of an ONLINE LIST board in the
NORMAL presentation advances, or returns to 0 at the page period. At the Notice Rule Engine (R115): the rule time becomes
t_high, and every time HEAD is in the held sets of the services it holds for. At the Cue Controller (R137): no waiting cue
whose latest start is below t is left, and the resume count falls by one; where nothing else can take such a cue from the queue
before (an empty table, or no selection and no rule with a cue), each is dropped with CUE_DROPPED EXPIRED. At the Host Link Unit
(R186): the feed count grows while it runs, and at the feed timeout the part is DEGRADED, with FEED_LOST. That a flash count set
by a staged pair falls by one at that same second event rests on the order in which the model takes the receivers of the event,
the Service Table before the Board Composer: R4 lists them and does not order them, and the order is the model's (log 6).
Choices of the model in it: log 5, 6, 7. -/
def Obligations.SecondEventAdvancesTime : Prop :=
  ∀ s : State, s.base.tbs.state ≠ .unset →
    let tb := s.base.tbs
    let next := if 86399 ≤ tb.t then 0 else tb.t + 1
    let a : Int := min 10 |tb.slew|
    let feed := s.work.hlu
    ∃ t, exec .secondEvent s = .next t ∧
      t.base =
        { s.base with
          elapsed := s.base.elapsed + (tb.secLen - tb.secPos)
          tbs := { tb with
            t := next
            tHigh := if 86399 ≤ tb.t then 0 else max tb.tHigh next
            secPos := 0
            secLen := (if 0 < tb.slew then 1000 + a else 1000 - a).toNat
            slew := if 0 < tb.slew then tb.slew - a else tb.slew + a } } ∧
      t.pending = s.pending ∧ t.work.loaded = s.work.loaded ∧
      t.scd.map ClockLine.kept = s.scd.map ClockLine.kept ∧
      ((s.work.svt.services.map Service.key).Nodup → ∀ x ∈ t.work.svt.services,
        (∃ y ∈ s.work.svt.services, y.key = x.key ∧ x.flash = (match y.staged with
          | some (p, at') =>
            if (if 86399 ≤ tb.t then max (-43200) (at' - 86400) else at') ≤ next ∧ y.current ≠ some p then
              s.work.bcp.flashTime - 1
            else y.flash - 1
          | none => y.flash - 1)) ∧
          ∀ h r, h < 64 → t.work.nre.rule h = some r → t.work.nre.timeHead r = true →
            (h ∈ x.held ↔ t.work.nre.headHolds t.base.tbs.t t.base.tbs.tHigh t.base.tbs.tHigh r x = true)) ∧
      (∀ n bd, n < 16 → s.work.board n = some bd → ∃ bd', t.work.board n = some bd' ∧ bd'.record = bd.record ∧
        (s.work.online n = false → bd'.timer = bd.timer ∧ bd'.page = bd.page) ∧
        (s.work.online n = true → s.base.fiu.override = false → bd.presentation = .normal →
          bd'.timer =
            (if bd.record.kind = .platform then bd.timer
            else if bd.record.period ≤ bd.timer + 1 then 0 else bd.timer + 1))) ∧
      t.work.nre.ruleTime = t.base.tbs.tHigh ∧
      (∀ e ∈ t.work.cuc.queue, e.waits → next ≤ e.latest) ∧ t.work.cuc.resume = s.work.cuc.resume - 1 ∧
      s.raisedOf .time (if 86399 ≤ tb.t then [.changeover tb.c0 false] else []) t ∧
      (s.work.svt.services = [] ∨
          (s.work.cuc.maySelect = false ∧ ∀ i r, s.work.nre.rule i = some r → r.cue = none) →
        ∀ e ∈ s.work.cuc.queue, e.waits →
        (if 86399 ≤ tb.t then e.latest - 86400 else e.latest) < next →
        t.raised (.cueDropped e.number e.key e.source .expired (some e.seq))) ∧
      (feed.feedTimeout = 0 ∨ feed.degraded = true →
        t.work.hlu.feedCount = feed.feedCount ∧ t.work.hlu.degraded = feed.degraded) ∧
      (feed.feedTimeout ≠ 0 → feed.degraded = false →
        t.work.hlu.feedCount = feed.feedCount + 1 ∧
          (t.work.hlu.degraded = true ↔ feed.feedTimeout ≤ feed.feedCount + 1) ∧
          (feed.feedTimeout ≤ feed.feedCount + 1 → t.raised (.feedLost feed.feedTimeout)))

/-- R10, R11, R14: what a pulse does: an activating edge of the SYNC line; R164: an agreement step decides the clock lines, and
no other pulse changes one. R15, R166: the reports: SYNC_REGAINED for a pulse that takes FREE or HOLDOVER to LOCKED, behind
those of its step when it is taken by agreement, and SYNC_REJECTED for a pulse that is rejected; and one for each clock line
that the step changes, with the cause STEP. R137: an agreement step leaves no waiting cue whose latest start is below the new t;
where nothing else can take it before, it is dropped EXPIRED. Choices of the model in it: log 11, 45. -/
def Obligations.SyncPulseMeasured : Prop :=
  ∀ (n : Fin 16) (v : Level) (s : State), n.val < s.base.fiu.lines.length → (s.line n).role = .sync →
    (s.line n).active = v → (s.line n).filtered ≠ v → s.base.tbs.rejected.length ≤ 2 →
    let tb := s.base.tbs
    let o := pulseOffset tb
    let ignored := tb.state = .unset ∨ ∃ p, tb.lastPulse = some p ∧ 2 * s.base.elapsed < 2 * p + periodMillis tb.period
    let agreed := ∃ x y, tb.rejected = [x, y] ∧ |o - x| ≤ 100 ∧ |o - y| ≤ 100
    let regained := fun agreement : Bool =>
      if tb.state = .locked then [] else [ReportBody.syncRegained tb.state o agreement]
    ∃ t, exec (.edge n v) s = .next t ∧ t.pending = s.pending ∧ t.base.elapsed = s.base.elapsed ∧
      t.base.txs = s.base.txs ∧ t.work.loaded = s.work.loaded ∧
      t.scd.map ClockLine.kept = s.scd.map ClockLine.kept ∧
      (ignored ∨ |o| ≤ 2000 ∨ ¬ agreed → t.scd = s.scd) ∧
      (¬ ignored → 2000 < |o| → agreed → ∀ (n : Nat) (l : ClockLine), s.scd[n]? = some l →
        t.scd[n]? = some (steppedLine s.base.elapsed t.base.tbs.clockSeconds l)) ∧
      s.raisedOf .clockLine (stateChanges t.base.tbs .step s.scd t.scd) t ∧
      (¬ ignored → 2000 < |o| → agreed →
        s.lateCuesGo (if 86400000 ≤ 1000 * tb.t + tb.fraction - o then 86400 else 0) t) ∧
      (ignored → s.raisedOf .time [] t) ∧
      (¬ ignored → |o| ≤ 2000 → s.raisedOf .time (regained false) t) ∧
      (¬ ignored → 2000 < |o| → agreed → s.raisedOf .time (stepReports tb (-o) .sync ++ regained true) t) ∧
      (¬ ignored → 2000 < |o| → ¬ agreed → s.raisedOf .time [.syncRejected o t.base.tbs.rejected.length] t) ∧
      (ignored → t.base.tbs = tb) ∧
      (¬ ignored → |o| ≤ 2000 → t.base.tbs =
        { tb with
          slew := o, rejected := [], lastPulse := some s.base.elapsed, state := .locked
          secPos := tb.fraction, secLen := 1000 }) ∧
      (¬ ignored → 2000 < |o| → agreed → t.base.tbs =
        { afterStep tb (-o) with lastPulse := some s.base.elapsed, state := .locked }) ∧
      (¬ ignored → 2000 < |o| → ¬ agreed → t.base.tbs =
        { tb with rejected := (tb.rejected ++ [o]).drop (tb.rejected.length - 1) })

/-- R12: three periods without an accepted pulse take LOCKED to HOLDOVER with SYNC_LOST; nothing else changes.
Choices of the model in it: log 15, 38. -/
def Obligations.SyncLostGivesHoldover : Prop :=
  ∀ s : State, s.base.tbs.state = .locked →
    ∃ t, exec .syncLost s = .next t ∧
      t.base = { s.base with tbs := { s.base.tbs with state := .holdover } } ∧ t.scd = s.scd ∧ t.pending = s.pending ∧
      t.work = { s.work with hlu :=
        (s.work.hlu.raise (.syncLost (s.base.elapsed - s.base.tbs.lastPulse.getD s.base.elapsed))).pump }

/-- R1, R2, R13, R14, R16: every step of the part keeps the timebase in its ranges, with t never above t_high.
Choices of the model in it: log 2. -/
def Obligations.TimebaseRangesKept : Prop :=
  ∀ s t : State, s.base.tbs.Inv → step s = .next t → t.base.tbs.Inv

/-! ### The service table (chapter 2) -/

/-- R21: a SERVICE PUT that passes every check and names a key not held creates the record, with the next sequence, in a
table that has room; R111, R114: the record's held set is then that of the HEADs that hold for it. Choices of the model in
it: log 3. -/
def Obligations.PutCreatesTheRecord : Prop :=
  ∀ (h : ReqHead) (r : PutReq) (s : State), s.ready → h.misfit = none → putRefusal s r = none →
    s.work.svt.find r.key = none → s.work.svt.services.length < 192 →
    ∃ t, exec (.servicePut h r) s = .next t ∧ t.replyTo s.work.hlu.arrivals = some Reply.ok ∧
      t.base = s.base ∧ t.scd = s.scd ∧ t.pending = s.pending ∧
      (∀ x ∈ t.work.svt.services, x.key = r.key → ∀ k g, k < 64 → t.work.nre.rule k = some g →
        (k ∈ x.held ↔ t.work.nre.headHolds s.base.tbs.t s.work.nre.ruleTime s.work.nre.ruleTime g x = true)) ∧
      t.work.settled =
        { s.work.settled with svt :=
          { s.work.settled.svt with
            counter := s.work.svt.counter + 1
            services := s.work.svt.services.map Service.core ++
              [(createdRecord s.base.tbs.c0 s.base.tbs.t (s.work.svt.counter + 1) r).core] } }

/-- R22, R24 to R27: a SERVICE PUT that passes every check and names a held key updates that record; R111, R114: its held set
is then that of the HEADs that hold for it. R114, R126, R128: the marks of its event at the watch slots of the service that
remain, those whose HEAD holds for the updated record and is in the held set afterwards: the expected field, carried, restarts a
TIMEOUT slot at its full period, and nothing else moves one; a platform change advances a COUNT slot by one, and nothing else
does, and at its threshold the slot counts afresh, the unsettled flag is set and WATCH_COUNT is raised. The slot of a HEAD that
rises at the event, alone and with a slot free, is advanced by that same platform change. Choices of the model in it: log 3. -/
def Obligations.PutUpdatesTheRecord : Prop :=
  ∀ (h : ReqHead) (r : PutReq) (x : Service) (s : State), s.ready → h.misfit = none → putRefusal s r = none →
    s.work.svt.find r.key = some x →
    ∃ t, exec (.servicePut h r) s = .next t ∧ t.replyTo s.work.hlu.arrivals = some Reply.ok ∧
      t.base = s.base ∧ t.scd = s.scd ∧ t.pending = s.pending ∧
      (∀ x ∈ t.work.svt.services, x.key = r.key → ∀ k g, k < 64 → t.work.nre.rule k = some g →
        (k ∈ x.held ↔ t.work.nre.headHolds s.base.tbs.t s.work.nre.ruleTime s.work.nre.ruleTime g x = true)) ∧
      t.work.settled =
        { s.work.settled with svt :=
          { s.work.settled.svt with
            services := s.work.svt.services.map fun y =>
              if y.key = r.key then (updatedRecord s.base.tbs.c0 s.base.tbs.t r x).core else y.core } } ∧
      (isPresent r.expected = true → ∀ y ∈ t.work.svt.services, y.key = r.key → y.stale = false) ∧
      let u := { updatedRecord s.base.tbs.c0 s.base.tbs.t r x with stale := x.stale && !isPresent r.expected }
      let moved := decide (u.current ≠ x.current) && u.current.isSome
      let holds := fun g => s.work.nre.headHolds s.base.tbs.t s.work.nre.ruleTime s.work.nre.ruleTime g u = true
      let stays := fun h => (t.work.svt.find r.key).map (fun y => y.held.contains h) = some true
      let counted := fun th n : Nat => if moved = true then (if th ≤ n + 1 then 0 else n + 1) else n
      (∀ (i : Nat) (slot : Slot), i < 24 → s.work.nre.slots[i]? = some (some slot) → slot.key = r.key →
        (∀ g, s.work.nre.rule slot.head = some g → holds g) → stays slot.head →
        t.work.nre.slots[i]? = some (some
          { slot with mode := match slot.mode with
              | .timeout p left => .timeout p (if isPresent r.expected = true then p else left)
              | .count th n => .count th (counted th n) }) ∧
          ∀ th n, slot.mode = .count th n → moved = true → th ≤ n + 1 →
            (∀ y ∈ t.work.svt.services, y.key = r.key → y.unsettled = true) ∧
              t.raised (.watchCount slot.head r.key th)) ∧
      ∀ h g wt, h < 64 → s.work.nre.rule h = some g → g.watch = some wt → h ∉ x.held → holds g → stays h →
        (∀ k q, k < 64 → s.work.nre.rule k = some q → holds q → k ∈ x.held ∨ k = h) →
        (∃ i, i < 24 ∧ s.work.nre.slots[i]? = some none) →
        some ⟨h, r.key, match wt with | .timeout p => .timeout p p | .count th => .count th (counted th 0), true⟩ ∈
          t.work.nre.slots

/-- R180: a request of the wrong length, or one that its owner refuses, gets the refusal as its reply and changes nothing; and
the owner refuses it exactly as the checks of its own rule say: the first check that fails gives the reply, and a request
that passes every check is not refused. The checks: R2, R18, R40, R63, R186 (CONFIGURE GENERAL), R61, R91, R168, R154, R132 and
R149 (the other sections), R55, R20 checks 1 to 4, R37, R38, R119, R121, R131, R135, R6, R90, R174, R183.
Choices of the model in it: log 3, 14, 33 (none in calling points), 34 (the enabled flag and the priority of a RULE PUT may be
left out), 49. -/
def Obligations.RefusedRequestsChangeNothing : Prop :=
  (∀ (c : Instr) (h : ReqHead) (q : Request) (rep : Reply) (s : State), requestOf c = some (h, q) → s.ready →
    ((∃ n, h.misfit = some n ∧ rep = ⟨.badLength, [], .length n⟩) ∨ (h.misfit = none ∧ s.refusalOf q = some rep)) →
    ∃ t, exec c s = .next t ∧ s.onlyRead h q t ∧ t.replyTo s.work.hlu.arrivals = some rep) ∧
  ∀ (q : Request) (s : State),
    let checks := s.checksOf q
    (∀ (i : Nat) (rep : Reply) (fails : Prop), checks[i]? = some (rep, fails) → fails →
      (∀ (j : Nat) (other : Reply) (earlier : Prop), j < i → checks[j]? = some (other, earlier) → ¬ earlier) →
      s.refusalOf q = some rep) ∧
    ((∀ p ∈ checks, ¬ p.2) → s.refusalOf q = none)

/-- R36: a creation in a full table evicts the first DEPARTED or CANCELLED record in table order, and if there is none the
first overdue one, with one SERVICE_EVICTED, and no waiting WITHDRAW_ON_CLEAR cue of the evicted service is left (R33); with
neither it is refused TABLE_FULL. Choices of the model in it: log 3. -/
def Obligations.FullTableEvictsOrRefuses : Prop :=
  ∀ (h : ReqHead) (r : PutReq) (s : State), s.ready → h.misfit = none → putRefusal s r = none →
    s.work.svt.find r.key = none → 192 ≤ s.work.svt.services.length →
    let order := s.work.svt.ordered
    let ended := order.find? fun x => x.status == .departed || x.status == .cancelled
    let overdue := order.find? fun x => decide (60 * (s.work.svt.overdue : Int) < s.base.tbs.t - x.k)
    match ended.or overdue with
    | some x =>
      ∃ t, exec (.servicePut h r) s = .next t ∧ t.replyTo s.work.hlu.arrivals = some Reply.ok ∧
        t.base = s.base ∧ t.scd = s.scd ∧ t.pending = s.pending ∧
        s.raisedOf .serviceEvicted [.serviceEvicted x.key x.status x.k] t ∧
        (∀ e ∈ t.work.cuc.queue, e.key = some x.key → e.template.withdrawOnClear = true → ¬ e.waits) ∧
        t.work.settled =
          { s.work.settled with svt :=
            { s.work.settled.svt with
              counter := s.work.svt.counter + 1
              services := (s.work.svt.services.filter fun y => y.key != x.key).map Service.core ++
                [(createdRecord s.base.tbs.c0 s.base.tbs.t (s.work.svt.counter + 1) r).core] } }
    | none =>
      ∃ t, exec (.servicePut h r) s = .next t ∧ s.onlyRead h (.servicePut r) t ∧
        t.replyTo s.work.hlu.arrivals = some ⟨.tableFull, [], .nothing⟩

/-- R37, R33: a SERVICE DROP frees the record and its watch slots, leaves no waiting WITHDRAW_ON_CLEAR cue of the service, and
raises no SERVICE_EVICTED; a malformed key is refused BAD_FIELD and a key not held
NOT_FOUND. Choices of the model in it: log 3. -/
def Obligations.DropFreesTheRecord : Prop :=
  ∀ (h : ReqHead) (key : Key) (s : State), s.ready → h.misfit = none →
    if keyForm key = false then
      ∃ t, exec (.serviceDrop h key) s = .next t ∧ s.onlyRead h (.serviceDrop key) t ∧
        t.replyTo s.work.hlu.arrivals = some ⟨.badField, [], .field .key⟩
    else if s.work.svt.find key = none then
      ∃ t, exec (.serviceDrop h key) s = .next t ∧ s.onlyRead h (.serviceDrop key) t ∧
        t.replyTo s.work.hlu.arrivals = some ⟨.notFound, [], .field .key⟩
    else
      ∃ t, exec (.serviceDrop h key) s = .next t ∧ t.replyTo s.work.hlu.arrivals = some Reply.ok ∧
        t.base = s.base ∧ t.scd = s.scd ∧ t.pending = s.pending ∧
        (∀ x, some x ∈ t.work.nre.slots → x.key ≠ key) ∧
        (∀ e ∈ t.work.cuc.queue, e.key = some key → e.template.withdrawOnClear = true → ¬ e.waits) ∧
        s.raisedOf .serviceEvicted [] t ∧
        t.work.settled =
          { s.work.settled with svt :=
            { s.work.settled.svt with
              services := (s.work.svt.services.filter fun y => y.key != key).map Service.core } }

/-- R19, R35: table order holds the records of the table and no others, each as often, in ascending K and then ascending
admission sequence. -/
def Obligations.TableOrderSortsTheRecords : Prop :=
  ∀ v : Svt, v.ordered.Perm v.services ∧
    v.ordered.Pairwise fun x y => x.k < y.k ∨ (x.k = y.k ∧ x.seq.toNat ≤ y.seq.toNat)

/-- R28, R172: an activating edge of a DISPATCH line: ignored while its lockout runs, else the first candidate in table
order departs and the lockout starts, else the dispatch is unmatched. Choices of the model in it: log 6, 11, 15. -/
def Obligations.DispatchCapturesTheCandidate : Prop :=
  ∀ (n : Fin 16) (v : Level) (p : Nat) (s : State), n.val < s.base.fiu.lines.length →
    (s.line n).role = .dispatch p → (s.line n).active = v → (s.line n).filtered ≠ v →
    let candidate := fun x : Service =>
      (match x.current with | some d => d.num == p | none => false) &&
        (x.status == .scheduled || x.status == .delayed) && x.actual.isNone &&
        decide (x.k - s.base.tbs.t ≤ (s.work.svt.window : Int))
    ∃ t, exec (.edge n v) s = .next t ∧ t.base.tbs = s.base.tbs ∧ t.scd = s.scd ∧ t.pending = s.pending ∧
      t.work.loaded = s.work.loaded ∧
      match (s.line n).lockoutEnd, s.work.svt.ordered.find? candidate with
      | some e, _ =>
        t.reported (.dispatchIgnored n p (e - s.base.elapsed)) ∧ t.work.svt = s.work.svt ∧
          (t.line n).lockoutEnd = some e
      | none, none =>
        t.reported (.dispatchUnmatched n p) ∧ t.work.svt = s.work.svt ∧ (t.line n).lockoutEnd = none
      | none, some x =>
        t.reported (.dispatchCaptured x.key n p s.base.tbs.t) ∧
          (t.line n).lockoutEnd =
            (if (s.line n).lockout = 0 then none else some (s.base.elapsed + 1000 * (s.line n).lockout)) ∧
          t.work.svt.services.map Service.core = s.work.svt.services.map fun y =>
            if y.key = x.key then
              ({ y with actual := some s.base.tbs.t, status := .departing, timer := some s.work.svt.departing } : Service).core
            else y.core

/-- R29: a running departing timer that ends leaves its record DEPARTED. Choices of the model in it: log 15. -/
def Obligations.TimerEndMakesDeparted : Prop :=
  ∀ (key : Key) (x : Service) (s : State), s.work.svt.find key = some x → x.timer.isSome = true →
    ∃ t, exec (.departingTimerEnd key) s = .next t ∧ t.base = s.base ∧ t.scd = s.scd ∧ t.pending = s.pending ∧
      t.work.settled =
        { s.work.settled with svt :=
          { s.work.settled.svt with
            services := s.work.svt.services.map fun y =>
              if y.key = key then ({ y with timer := none, status := .departed } : Service).core else y.core } }

/-- R25, R24: a staged pair that is due becomes an immediate platform change at t, and one that is not due stays; R32: the
changeover event takes 86400 from every stored time of every record, not below −43200; R4, R25, R29, R34: a second event applies
the staged pairs that are due, counts the departing timers, and at a minute event ages the table, after the changeover if it
is due; R9: a TIME SET step applies the staged pairs that are due and ages the table. Choices of the model in it: log 3, 7. -/
def Obligations.TimeEventsAtTheTable : Prop :=
  (∀ (b : Base) (w : Work) (key : Key) (x : Service) (p : Designator) (at' : Int),
    w.svt.find key = some x → x.staged = some (p, at') →
    (w.applyStaged b key).settled =
      if at' ≤ b.tbs.t then
        { w.settled with svt := { w.settled.svt with services := w.svt.services.map fun y =>
            if y.key = key then
              (if x.current = some p then { x with staged := none }
                else
                  { x with
                    previous := if x.current = none then x.previous else x.current
                    current := some p, changeTime := some b.tbs.t, staged := none } : Service).core
            else y.core } }
      else w.settled) ∧
  (∀ (b : Base) (w : Work),
    (w.serviceChangeover b).settled =
      { w.settled with svt := { w.settled.svt with
          services := w.svt.services.map fun x => (rebasedRecord x).core } }) ∧
  (∀ s : State, s.base.tbs.state ≠ .unset → (s.work.svt.services.map Service.key).Nodup →
    ∃ t, exec .secondEvent s = .next t ∧
      let now := t.base.tbs.t
      let day := fun x => if 86399 ≤ s.base.tbs.t then rebasedRecord x else x
      t.work.svt.services.map Service.core =
        ((s.work.svt.services.map fun x => countedRecord (stagedRecord now (day x))).filter fun x =>
          !(decide (t.base.tbs.clockSeconds % 60 = 0) && agedOut s.work.svt now x)).map Service.core) ∧
  ∀ (h : ReqHead) (hour minute second millis : Nat) (s : State) (d : Int), s.ready → h.misfit = none →
    hour ≤ 23 → minute ≤ 59 → second ≤ 59 → millis ≤ 999 → s.base.tbs.state ≠ .unset →
    -43200000 ≤ d → d ≤ 43199999 → d ≠ 0 →
    (s.base.tbs.clockMillis + d - ((3600 * hour + 60 * minute + second) * 1000 + millis : Nat)) % 86400000 = 0 →
    (s.work.svt.services.map Service.key).Nodup →
    ∃ t, exec (.timeSet h hour minute second millis) s = .next t ∧
      let now := t.base.tbs.t
      let day := fun x => if 86400000 ≤ 1000 * s.base.tbs.t + s.base.tbs.fraction + d then rebasedRecord x else x
      t.work.svt.services.map Service.core =
        ((s.work.svt.services.map fun x => stagedRecord now (day x)).filter fun x =>
          !agedOut s.work.svt now x).map Service.core

/-! ### Departure arithmetic (chapter 3) -/

/-- R41, R38: a message time is accepted exactly when its fields are in range and its value is within the stored range; and
the value read back under R38 gives the clock time and the day indicator that were written. -/
def Obligations.MessageTimesConvertAndReadBack : Prop :=
  ∀ (c0 : Nat) (m : MsgTime) (v : Int), c0 ≤ 1439 →
    (convertTime c0 m = some v ↔
      m.h ≤ 23 ∧ m.m ≤ 59 ∧ m.s ≤ 59 ∧ -1 ≤ m.day ∧ m.day ≤ 1 ∧
        v = ((3600 * m.h + 60 * m.m + m.s : Nat) - 60 * (c0 : Int)) % 86400 + 86400 * m.day ∧
        -43200 ≤ v ∧ v ≤ 129599) ∧
    (convertTime c0 m = some v → timeView c0 v = ⟨v, m.day, ((3600 * m.h + 60 * m.m + m.s : Nat) : Int)⟩)

/-- R43, R44: the displayed scheduled and expected minutes with their texts and ranges; R45: the delay minutes; R46: the
ordering key, the larger of S and E, with its range, and the order it gives the table and every board's list; R47: the
countdown, the time to departure in whole minutes, rounded up, and 0 from the departure on, with the ranges of both; a
countdown predicate reads it at the rule time. -/
def Obligations.DepartureFiguresRead : Prop :=
  (∀ (c0 : Nat) (x : Service),
    let shown := fun m : Int => (⟨((m + c0) % 1440 / 60).toNat, ((m + c0) % 60).toNat⟩ : HourMin)
    schedMinute x.scheduled = x.scheduled / 60 ∧ schedText c0 x = shown (x.scheduled / 60) ∧
      (-43200 ≤ x.scheduled → x.scheduled ≤ 129599 →
        -720 ≤ schedMinute x.scheduled ∧ schedMinute x.scheduled ≤ 2159) ∧
      (x.expected = none → expText c0 x = none) ∧
      ∀ e, x.expected = some e → expMinute e = (e + 30) / 60 ∧ expText c0 x = some (shown ((e + 30) / 60)) ∧
        (-43200 ≤ e → e ≤ 129599 → -720 ≤ expMinute e ∧ expMinute e ≤ 2160)) ∧
  (∀ x : Service, (x.expected = none → x.delay = 0) ∧
    ∀ e : Int, x.expected = some e →
      (e < x.scheduled → x.delay = 0) ∧
      (x.scheduled ≤ e → x.scheduled / 60 ≤ (e + 30) / 60 ∧ (x.delay : Int) = (e + 30) / 60 - x.scheduled / 60) ∧
      (-43200 ≤ x.scheduled → e ≤ 129599 → x.delay ≤ 2880)) ∧
  (∀ (b : Base) (w : Work) (r : BoardRec) (list : List Service), list = w.svt.ordered ∨ list = eligibleRecords b w r →
    list.Pairwise fun x y => x.k < y.k ∨ (x.k = y.k ∧ x.seq.toNat ≤ y.seq.toNat)) ∧
  (∀ (t ruleTime : Int) (p : Preds) (x : Service) (lo hi : Nat), p.countdown = some (lo, hi) →
    predsHold t ruleTime ruleTime p x = true →
    lo ≤ countdown (x.k - ruleTime) ∧ countdown (x.k - ruleTime) ≤ hi) ∧
  ∀ (x : Service) (t : Int),
    x.k = (match x.expected with | some e => max x.scheduled e | none => x.scheduled) ∧
      (t < x.k → 60 * ((countdown (x.k - t) : Int) - 1) < x.k - t ∧ x.k - t ≤ 60 * (countdown (x.k - t) : Int)) ∧
      (x.k ≤ t → countdown (x.k - t) = 0) ∧
      (-43200 ≤ x.scheduled → x.scheduled ≤ 129599 → (∀ e, x.expected = some e → e ≤ 129599) →
        -43200 ≤ x.k ∧ x.k ≤ 129599 ∧
          (-3600 ≤ t → t ≤ 86399 → -129599 ≤ x.k - t ∧ x.k - t ≤ 133199 ∧ countdown (x.k - t) ≤ 2220))

/-! ### The text store (chapter 4) -/

/-- R55, R56: a TEXT LOAD that passes the checks writes every item's entry whole and no other entry; R180, 11.7: the bytes of
its layout spell it, and a byte more is answered with the length that its counts and lengths give. R57, R59: the text change
event: a row of an ONLINE board that reads an index whose characters changed has its desired content derived afresh with the
new characters, by the assignment of the board's last derivation; a row that reads none keeps its desired content. (No other
board meets the rows, as R61 has it.) Choices of the model in it: log 3, 4, 18, 42. -/
def Obligations.TextLoadWritesTheEntries : Prop :=
  ∀ (h : ReqHead) (items : List TextItem) (s : State), s.ready → h.misfit = none →
    1 ≤ items.length → items.length ≤ 16 → (items.map TextItem.index).Nodup →
    (∀ x ∈ items, x.index ≤ 1023 ∧ x.text.length ≤ 32 ∧ (∀ p, x.phrase = some p → p ≤ 4095) ∧
      ∀ c ∈ x.text, (0x20 ≤ c.toNat ∧ c.toNat ≤ 0x7E) ∨ 0xA0 ≤ c.toNat) →
    s.base.txs.length = 1024 →
    readPayload .textLoad (textPayload items) = .request (.textLoad items) ∧
    (∀ x xs, readPayload .textLoad (textPayload items ++ x :: xs) = .misfit (textPayload items).length) ∧
    ∃ t, exec (.textLoad h items) s = .next t ∧ t.replyTo s.work.hlu.arrivals = some Reply.ok ∧
      t.base = { s.base with txs := t.base.txs } ∧ t.scd = s.scd ∧ t.pending = s.pending ∧
      t.work.settled = s.work.settled ∧ t.base.txs.length = 1024 ∧
      (∀ x ∈ items, t.base.txs[x.index]? = some ⟨x.text, x.phrase⟩) ∧
      (∀ i : Nat, (∀ x ∈ items, x.index ≠ i) → t.base.txs[i]? = s.base.txs[i]?) ∧
      ∀ (n : Nat) (bd : Board) (row : Nat), n < 16 → s.work.online n = true → s.work.board n = some bd →
        s.work.hlu.degraded = false → bd.record.string < s.work.bcp.cells.length → 1 ≤ bd.record.first →
        bd.record.first + bd.record.rows - 1 ≤ (s.work.bcp.cells.getD bd.record.string []).length →
        1 ≤ row → row ≤ bd.record.rows →
        (∀ m other, m < 16 → m ≠ n → s.work.board m = some other → other.record.string = bd.record.string →
          1 ≤ other.record.first ∧ (other.record.first + other.record.rows ≤ bd.record.first ∨
            bd.record.first + bd.record.rows ≤ other.record.first)) →
        let chars := fun (u : State) (i : Nat) => (textEntry u.base.txs i).text
        let desired := fun u : State => (u.work.cell bd.record.string (bd.record.first + row - 1)).desired
        let src := bd.assigned s.base s.work row
        ((∃ i, src.reads s.work i ∧ chars t i ≠ chars s i) → desired t = match src with
          | .service x => .service (serviceRow t.base s.work bd.record x)
          | .calling x => .calling x.key (x.calling.map (chars t))
          | .banner i => .banner (chars t i)
          | .blank => .blank) ∧
        ((∀ i, src.reads s.work i → chars t i = chars s i) → desired t = desired s)

/-- R53, R54: every step of the part keeps 1024 entries of at most 32 printable characters with phrase codes 0..4095, and
changes them only by a TEXT LOAD, which is the command, a frame that the bytes received complete, or a request that waits to be
served, or at power-on. Choices of the model in it: log 2. -/
def Obligations.TextsChangeOnlyByTextLoad : Prop :=
  ∀ s t : State, step s = .next t →
    (textsInv s.base.txs → textsInv t.base.txs) ∧
      ((∀ h items, s.pending.head? ≠ some (.textLoad h items)) → s.pending.head? ≠ some .powerOn →
        (∀ bytes, s.pending.head? = some (.hostFrame bytes) →
          ∀ f ∈ completedFrames s.base.elapsed
              (if s.work.hlu.rx.overdue s.base.elapsed = true then .hunt else s.work.hlu.rx) bytes,
            ∀ items, frameOf f.1 f.2 ≠ .request (.textLoad items)) →
        (∀ e ∈ s.work.hlu.inbound, e.progress = .waiting → ∀ items, e.frame ≠ .request (.textLoad items)) →
        t.base.txs = s.base.txs)

/-! ### Board composition (chapter 5) -/

/-- R61, R62: an accepted CONFIGURE BOARD replaces the record whole, starts at page 0 and forgets what is on the wall at
every address of the record; an ONLINE board that it disables is OFFLINE, and a BLANK frame is offered to each of its rows,
which stands newest at its address where the string has room; that the rows blanked are those of the record held before the
section is read from R62 by inference (log 9). Choices of the model in it: log 3, 9, 35. -/
def Obligations.ConfigureBoardStoresTheRecord : Prop :=
  ∀ (h : ReqHead) (n : Nat) (r : BoardReq) (s : State), s.ready → h.misfit = none → boardRefusal s n r = none →
    n < s.work.bcp.boards.length →
    let period := r.period.getD 10
    let stored : BoardRec :=
      { enabled := argOr true r.enabled, string := r.string.getD 0, first := r.first.getD 1, rows := r.rows.getD 1
        kind := argOr .list r.kind, platforms := asSet (r.platforms.getD []), classes := asSet (r.classes.getD [])
        horizon := r.horizon.getD 120, fixed := r.fixed.getD 0
        period := if period < 5 then 5 else if 60 < period then 60 else period
        showDue := r.showDue.getD true, showExpected := r.showExpected.getD true
        showCoaches := r.showCoaches.getD false }
    ∃ t bd, exec (.configureBoard h n r) s = .next t ∧
      t.replyTo s.work.hlu.arrivals =
        some (if stored.period = period then ⟨.ok, [], .nothing⟩
          else ⟨.clamped, [(.pagePeriod, stored.period)], .nothing⟩) ∧
      t.base = s.base ∧ t.scd = s.scd ∧ t.pending = s.pending ∧
      t.work.board n = some bd ∧ bd.record = stored ∧ bd.page = 0 ∧ bd.timer = 0 ∧
      (∀ row, 1 ≤ row → row ≤ stored.rows → (t.work.cell stored.string (stored.first + row - 1)).onWall = none) ∧
      (∀ old, stored.enabled = false → s.work.online n = true → s.work.board n = some old →
        t.work.online n = false ∧
          (s.work.hlu.degraded = false → old.record.string < s.work.bcp.cells.length → 1 ≤ old.record.first →
            old.record.first + old.record.rows - 1 ≤ (s.work.bcp.cells.getD old.record.string []).length →
            (s.work.string old.record.string).drain = false →
            (s.work.string old.record.string).queue.length + old.record.rows ≤ 48 →
            ∀ row, 1 ≤ row → row ≤ old.record.rows →
              (t.work.cell old.record.string (old.record.first + row - 1)).outstanding.getLast? = some .blank)) ∧
      t.work.settled =
        { s.work.settled with bcp :=
          { s.work.settled.bcp with boards := s.work.settled.bcp.boards.set n (some bd.kept) } }

/-- R67, R68, R70, R72: the desired content of each row after a derivation: the override or start-up text alone, or the
list position that the assignment of the board's kind gives; R66: which services the list holds; R69: the banner chosen and
when a row shows it; R73, R43, R44: the fields of a SERVICE row; R49: its remark, by the first condition that holds; R48: its
DUE column; R74: its notice. R70, R72, R71, R68: the list a derivation leaves with the board, its page count, which is the rotating
services divided by the rotating rows and rounded up, and its page: 0 on a return to NORMAL and where the page held is at or
beyond the page count, and otherwise the page held. The via of an entry without characters is the model's choice: log 42. -/
def Obligations.DerivationAssignsTheRows : Prop :=
  (∀ (b : Base) (w : Work) (n : Nat) (bd : Board) (row : Nat), w.board n = some bd →
    bd.record.string < w.bcp.cells.length → 1 ≤ bd.record.first →
    bd.record.first + bd.record.rows - 1 ≤ (w.bcp.cells.getD bd.record.string []).length →
    1 ≤ row → row ≤ bd.record.rows →
    let rec' := bd.record
    let u := w.deriveBoard b none false n
    let desired := (u.cell rec'.string (rec'.first + row - 1)).desired
    let list := w.svt.ordered.filter (isEligible w.svt b.tbs.t rec')
    let src := bannerSource b w n
    let fixed := min rec'.fixed (rec'.rows - bannerRows rec' src)
    let rotating := rec'.rows - fixed - bannerRows rec' src
    let page := ((u.board n).map Board.page).getD 0
    let position := fun i : Nat => match list[i - 1]? with
      | some x => RowContent.service (serviceRow b w rec' x)
      | none => .blank
    if b.fiu.override = true then
      desired = if row = 1 then .banner (textEntry b.txs w.bcp.overrideText).text else .blank
    else if b.tbs.state = .unset then
      desired = if row = 1 then .banner (textEntry b.txs w.bcp.startText).text else .blank
    else if rec'.kind = .list then
      if bannerRows rec' src = 1 ∧ row = rec'.rows then
        desired = match bannerText w src with | some i => .banner (textEntry b.txs i).text | none => .blank
      else if row ≤ fixed then desired = position row
      else desired = position (fixed + page * rotating + (row - fixed))
    else if bannerRows rec' src = 1 ∧ row = rec'.rows then
      desired = match bannerText w src with | some i => .banner (textEntry b.txs i).text | none => .blank
    else if row = 1 then desired = position 1
    else if row = 2 then
      desired = match list.head? with
        | some x => .calling x.key (x.calling.map fun i => (textEntry b.txs i).text)
        | none => .blank
    else desired = position (row - 1)) ∧
  (∀ (b : Base) (w : Work) (rec' : BoardRec) (x : Service),
    isEligible w.svt b.tbs.t rec' x = true ↔
      (rec'.classes = [] ∨ x.cls ∈ rec'.classes) ∧
        (rec'.platforms = [] ∨ ∃ p, x.current = some p ∧ p.num ∈ rec'.platforms) ∧
        (x.status = .departing ∨
          ((x.status = .scheduled ∨ x.status = .delayed ∨ x.status = .cancelled) ∧
            x.k - b.tbs.t ≤ 60 * (rec'.horizon : Int) ∧ b.tbs.t - x.k ≤ 60 * (w.svt.overdue : Int)))) ∧
  (∀ (b : Base) (w : Work) (n : Nat), b.fiu.override = false → b.tbs.state ≠ .unset →
    let candidate := fun (h : Nat) (r : Rule) => h < 64 ∧ w.nre.rule h = some r ∧ r.kind = .head ∧
      (∃ i bs, r.banner = some (i, bs) ∧ n ∈ bs) ∧ ∃ x ∈ w.svt.services, h ∈ x.held
    match bannerSource b w n with
    | .degraded => w.hlu.degraded = true ∧ bannerText w .degraded = some w.bcp.degradedText
    | .none => w.hlu.degraded = false ∧ ∀ h r, ¬ candidate h r
    | .rule h => w.hlu.degraded = false ∧ ∃ r, candidate h r ∧ bannerText w (.rule h) = r.banner.map Prod.fst ∧
        ∀ g q, candidate g q → g = h ∨ q.priority < r.priority ∨ (q.priority = r.priority ∧ h < g)) ∧
  (∀ (rec' : BoardRec) (src : BannerSource),
    bannerRows rec' src = if src ≠ .none ∧ (rec'.kind = .list ∨ 3 ≤ rec'.rows) then 1 else 0) ∧
  (∀ (b : Base) (w : Work) (rec' : BoardRec) (x : Service),
    let shown := fun m : Int => (⟨((m + b.tbs.c0) % 1440 / 60).toNat, ((m + b.tbs.c0) % 60).toNat⟩ : HourMin)
    let chars := fun i : Nat => (textEntry b.txs i).text
    let left := x.k - b.tbs.t
    let row := serviceRow b w rec' x
    row.key = x.key ∧ row.scheduled = shown (x.scheduled / 60) ∧
      row.expected = (x.expected.map fun e => shown ((e + 30) / 60)) ∧ row.destination = chars x.destination ∧
      row.via = x.via.map chars ∧ row.platform = x.current ∧ (row.flash = true ↔ 0 < x.flash) ∧ row.coaches = x.coaches ∧
      row.showDue = rec'.showDue ∧ row.showExpected = rec'.showExpected ∧ row.showCoaches = rec'.showCoaches ∧
      row.remark =
        (if x.status = .cancelled then .cancelled
        else if x.status = .departing then .departing
        else if x.stale = true then .awaiting
        else if left ≤ 0 ∧ (x.status = .scheduled ∨ x.status = .delayed) then .due
        else if x.status = .delayed ∧ x.expected = none then .delayed
        else if x.delay ≤ w.bcp.tolerance then .onTime
        else match x.expected with
          | some e => if x.delay ≤ 999 then .expected (shown ((e + 30) / 60)) x.delay else .delayed
          | none => .delayed) ∧
      row.due =
        (if x.status = .cancelled ∨ x.status = .departing then .blank
        else if left ≤ 0 then .word
        else if left ≤ 99 * 60 then .figure ((left + 59) / 60).toNat
        else .blank)) ∧
  (∀ (b : Base) (w : Work) (rec' : BoardRec) (x : Service),
    let candidate := fun (h : Nat) (r : Rule) (i : Nat) => h < 64 ∧ h ∈ x.held ∧ w.nre.rule h = some r ∧ r.kind = .head ∧ r.notice = some i
    ((∀ h r i, ¬ candidate h r i) → (serviceRow b w rec' x).notice = none) ∧
      (∀ h r i, candidate h r i →
        (∀ g q j, candidate g q j → g = h ∨ q.priority < r.priority ∨ (q.priority = r.priority ∧ h < g)) →
        (serviceRow b w rec' x).notice = some (textEntry b.txs i).text)) ∧
  ∀ (b : Base) (w : Work) (n : Nat) (bd : Board), w.board n = some bd → ∃ bd', (w.deriveBoard b none false n).board n = some bd' ∧
    let rec' := bd.record
    let normal := b.fiu.override = false ∧ b.tbs.state ≠ .unset
    let shown := bannerRows rec' (bannerSource b w n)
    let fixed := min rec'.fixed (rec'.rows - shown)
    let rotating := rec'.rows - fixed - shown
    let listed := bd'.eligible.length
    bd'.record = rec' ∧ bd'.banner = bannerSource b w n ∧
      (normal → bd'.eligible = (w.svt.ordered.filter (isEligible w.svt b.tbs.t rec')).map Service.key) ∧
      (¬ normal → bd'.eligible = []) ∧
      (rec'.kind = .platform ∨ rotating = 0 ∨ listed ≤ fixed + rotating → bd'.pageCount = 1) ∧
      (rec'.kind = .list → 0 < rotating → fixed + rotating < listed →
        rotating * (bd'.pageCount - 1) < listed - fixed ∧ listed - fixed ≤ rotating * bd'.pageCount) ∧
      (normal → bd.presentation ≠ .normal → bd'.page = 0 ∧ bd'.timer = 0) ∧
      (bd'.pageCount ≤ bd.page → bd'.page = 0) ∧
      (¬ normal ∨ bd.presentation = .normal → (bd.page < bd'.pageCount → bd'.page = bd.page) ∧ bd'.timer = bd.timer)

/-- R71: a page expiry turns a running board's page, wrapping after the last, sets its timer to 0, and leaves no rotating row
dirty that is not released; R76: the end of a flash clears its count. How rows are staged: R77: when a row is dirty; R78: when
the difference is urgent; R79: which rows are due, and what releases a rotating row; R82: the guard releases the dirty rows
that stand in the way; R80, R82: a due row is offered its desired content, which an accepted offer makes its newest
outstanding frame, or is held back, with an interim BLANK where it shows another service. Choices of the model in it: log 15. -/
def Obligations.PageAndFlashEnd : Prop :=
  (∀ (n : Fin 16) (bd : Board) (s : State), s.work.online n = true → s.work.board n = some bd →
    bd.record.kind = .list → bd.presentation = .normal →
    ∃ t bd', exec (.pageExpiry n) s = .next t ∧ t.base = s.base ∧ t.scd = s.scd ∧ t.pending = s.pending ∧
      t.work.settled = s.work.settled ∧ t.work.board n = some bd' ∧ bd'.record = bd.record ∧ bd'.timer = 0 ∧
      (let next := if bd.page + 1 < bd.pageCount then bd.page + 1 else 0
       bd'.page = if next < bd'.pageCount then next else 0) ∧
      (bd.record.string < s.work.bcp.cells.length → 1 ≤ bd.record.first →
        bd.record.first + bd.record.rows - 1 ≤ (s.work.bcp.cells.getD bd.record.string []).length →
        ∀ row, 1 ≤ row → row ≤ bd.record.rows → bd'.rotating row = true →
          let c := t.work.cell bd.record.string (bd.record.first + row - 1)
          c.dirty = true → c.released = true)) ∧
  (∀ (key : Key) (x : Service) (s : State), s.work.svt.find key = some x → 0 < x.flash →
    ∃ t, exec (.flashEnd key) s = .next t ∧ t.base = s.base ∧ t.scd = s.scd ∧ t.pending = s.pending ∧
      t.work.settled = s.work.settled ∧ (∀ y ∈ t.work.svt.services, y.key = key → y.flash = 0)) ∧
  (∀ (c : Cell) (list : List Key),
    let reference := match c.outstanding.getLast? with | some q => some q | none => c.onWall
    (c.dirty = true ↔ reference ≠ some c.desired) ∧
      (c.urgent list = true ↔
        reference = none ∨ (∃ txt, reference = some (.banner txt)) ∨
          ∃ r, reference = some (.service r) ∧
            (r.key ∉ list ∨ ∃ e, c.desired = .service e ∧ e.key = r.key ∧
              (e.platform ≠ r.platform ∨ (e.remark = .cancelled ∧ r.remark ≠ .cancelled) ∨
                (e.remark ≠ .cancelled ∧ r.remark = .cancelled) ∨ (e.remark = .departing ∧ r.remark ≠ .departing) ∨
                (e.remark ≠ .departing ∧ r.remark = .departing) ∨ e.flash ≠ r.flash)))) ∧
  (∀ (bd : Board) (r : Nat) (c : Cell),
    let shown := bannerRows bd.record bd.banner
    let fixed := min bd.record.fixed (bd.record.rows - shown)
    (bd.rotating r = true ↔
      bd.record.kind = .list ∧ bd.presentation = .normal ∧ fixed < r ∧ r ≤ bd.record.rows - shown) ∧
    (bd.due r c = true ↔ c.dirty = true ∧ (bd.rotating r = false ∨ c.released = true))) ∧
  ∀ (b : Base) (bd : Board) (r : Nat) (w : Work),
    let rec' := bd.record
    let at' := fun q : Nat => rec'.first + q - 1
    let cell := fun (v : Work) (q : Nat) => v.cell rec'.string (at' q)
    let shows := fun (q : Nat) (k : Key) => 1 ≤ q ∧ q ≤ rec'.rows ∧ q ≠ r ∧ ∃ e : ServiceRow, e.key = k ∧
      ((cell w q).onWall = some (.service e) ∨ .service e ∈ (cell w q).outstanding)
    rec'.string < w.bcp.cells.length → 1 ≤ rec'.first → rec'.string < w.wsc.length →
    rec'.first + rec'.rows - 1 ≤ (w.bcp.cells.getD rec'.string []).length → 1 ≤ r → r ≤ rec'.rows →
    (∀ expired returning,
      let c := cell w r
      (cell (w.releaseRow bd expired returning r) r).released =
        if c.dirty = false then false
        else c.released || returning || (bd.rotating r && (expired || c.urgent bd.eligible))) ∧
    (bd.due r (cell w r) = true → ∀ e q, (cell w r).desired = .service e → shows q e.key → (cell w q).dirty = true →
      (cell (w.guardReleases bd) q).released = true) ∧
    let u := w.offerRow b bd r
    (bd.due r (cell w r) = false → u = w) ∧
      (bd.due r (cell w r) = true → (∀ e q, (cell w r).desired = .service e → ¬ shows q e.key) →
        let p := (w.string rec'.string).offer b.elapsed (at' r) (cell w r).desired
        u.string rec'.string = p.1 ∧
          cell u r =
            (match p.2 with
            | .refused => { cell w r with heldBack := false }
            | .queued => { cell w r with
                outstanding := (cell w r).outstanding ++ [(cell w r).desired], released := false, heldBack := false }
            | .replaced => { cell w r with
                outstanding := (cell w r).outstanding.dropLast ++ [(cell w r).desired]
                released := false, heldBack := false })) ∧
      (bd.due r (cell w r) = true → ∀ e q, (cell w r).desired = .service e → shows q e.key →
        (cell u r).heldBack = true ∧ (cell u r).desired = (cell w r).desired ∧ (cell u r).onWall = (cell w r).onWall ∧
          ((∃ x, (cell w r).reference = some (.service x) ∧ x.key ≠ e.key) →
            u.string rec'.string = ((w.string rec'.string).offer b.elapsed (at' r) .blank).1) ∧
          ((¬ ∃ x, (cell w r).reference = some (.service x) ∧ x.key ≠ e.key) →
            u.string rec'.string = w.string rec'.string ∧ (cell u r).outstanding = (cell w r).outstanding))

/-- R84: once the sets are brought up to date, a board is in a service's confirmation set exactly when it is ONLINE and
assigns the service a row whose on-wall content does not show it with its current platform. -/
def Obligations.ConfirmationSetNamesUnshownBoards : Prop :=
  ∀ (b : Base) (ev : List (Key × BitVec 32 × Bool)) (w : Work) (x : Service) (n : Nat), n < 16 →
    x ∈ (w.refreshConfirmations b ev).svt.services →
    (n ∈ x.conf ↔
      w.online n = true ∧ ∃ bd row, w.board n = some bd ∧ 1 ≤ row ∧ row ≤ bd.record.rows ∧
        (∃ r, (w.cell bd.record.string (bd.record.first + row - 1)).desired = .service r ∧ r.key = x.key) ∧
        ¬ ∃ r, (w.cell bd.record.string (bd.record.first + row - 1)).onWall = some (.service r) ∧
          r.key = x.key ∧ r.platform = x.current)

/-! ### Wall strings (chapter 6) -/

/-- R91, R103, R104: an accepted CONFIGURE STRING stores the record; an enable takes the stored rate as the operating rate
and forgets what is on the wall at the rows of the string's boards; a disable empties the queue and leaves the frame on the
line; R83: the frames it discards leave the outstanding lists of their addresses, and the string's boards are OFFLINE.
Choices of the model in it: log 3. -/
def Obligations.ConfigureStringStoresTheRecord : Prop :=
  ∀ (h : ReqHead) (n : Nat) (r : StringReq) (s : State), s.ready → h.misfit = none → stringRefusal n r = none →
    n < s.work.wsc.length →
    let on := argOr false r.enabled
    let rate := argOr .r125 r.rate
    let was := (s.work.string n).enabled
    ∃ t, exec (.configureString h n r) s = .next t ∧ t.replyTo s.work.hlu.arrivals = some Reply.ok ∧
      t.base = s.base ∧ t.scd = s.scd ∧ t.pending = s.pending ∧
      t.work.settled =
        { s.work.settled with wsc := s.work.settled.wsc.modify n fun u =>
          { u with enabled := on, rate := rate, opRate := if was = false ∧ on = true then rate else u.opRate } } ∧
      (was = true → on = false → s.work.hlu.degraded = false →
        (t.work.string n).queue = [] ∧ (t.work.string n).activity = (s.work.string n).activity ∧
          (t.work.string n).inFlight = (s.work.string n).inFlight ∧
          ((∀ f ∈ (s.work.string n).queue, 1 ≤ f.address) → ∀ a, 1 ≤ a →
            let discarded := (s.work.string n).queue.countP fun f => f.address == a
            t.work.cell n a = { s.work.cell n a with
              outstanding := (s.work.cell n a).outstanding.take ((s.work.cell n a).outstanding.length - discarded) }) ∧
          ∀ m bd, t.work.board m = some bd → bd.record.string = n → t.work.online m = false) ∧
      (was = false → on = true → ∀ m bd row, m < 16 → s.work.board m = some bd → bd.record.enabled = true →
        bd.record.string = n → 1 ≤ row → row ≤ bd.record.rows →
        (t.work.cell n (bd.record.first + row - 1)).onWall = none)

/-- R94, R95: the answer to an offer by the first case that applies, and the transmission that starts when the line is
IDLE; R96, 11.7: the characters of a row frame: the start 0xD2, the address, the sequence value, the kind, for a ROW frame each
field its content holds with its tag, its length and its value in the order of the rule's table, and the check over the
address through the last field; their number is L. The codes of tags, kinds and flags are free constants. Choices of the
model in it: log 20, 40. -/
def Obligations.OffersAreAnsweredInOrder : Prop :=
  (∀ (e a : Nat) (c : RowContent) (s : WallString),
    let p := s.offer e a c
    let answered : WallString × OfferAnswer :=
      if ∃ f ∈ s.queue, f.address = a then
        ({ s with
            queue := s.queue.map fun f => if f.address = a then ⟨a, c⟩ else f, coalesced := s.coalesced + 1 }, .replaced)
      else if s.queue.length < 48 then
        ({ s with queue := s.queue ++ [⟨a, c⟩], peak := max s.peak (s.queue.length + 1) }, .queued)
      else ({ s with refused := s.refused + 1 }, .refused)
    if s.enabled = false ∨ s.drain = true then p = ({ s with refused := s.refused + 1 }, .refused)
    else if s.activity = .idle then
      p = (match answered.1.queue with
        | [] => answered
        | f :: q =>
          ({ answered.1 with
              queue := q, seq := s.seq + 1, inFlight := some (f, s.seq + 1), sent := s.sent + 1
              activity := .sending (1000 * e + frameLength f.content * wallCharMicros s.opRate) }, answered.2))
    else p = answered) ∧
  (∀ (f : WallFrame) (q : Byte) (s : WallString),
    let covered := BitVec.ofNat 8 f.address :: q :: Config.wallKindCode (decide (f.content ≠ .blank)) :: contentFields f.content
    (∃ hi lo : Byte, frameChars f q = 0xD2 :: covered ++ [hi, lo] ∧ 256 * hi.toNat + lo.toNat = (crc16 covered).toNat) ∧
      (frameChars f q).length = frameLength f.content ∧
      ∀ due, s.activity = .sending due → s.inFlight = some (f, q) → s.onLine = some (frameChars f q)) ∧
  let field := fun (tag : Config.WallField) (value : List Byte) =>
    Config.wallTag tag :: BitVec.ofNat 8 value.length :: value
  let digit := fun n : Nat => BitVec.ofNat 8 (48 + n % 10)
  let hhmm := fun x : HourMin => [digit (x.hour / 10), digit x.hour, 0x3A, digit (x.minute / 10), digit x.minute]
  contentFields .blank = [] ∧
    (∀ txt, contentFields (.banner txt) = field .rowKind [Config.rowKindCode .banner] ++ field .text txt) ∧
    (∀ k ps, contentFields (.calling k ps) =
      field .rowKind [Config.rowKindCode .calling] ++ field .key k ++
        Config.wallTag .calling :: BitVec.ofNat 8 ps.length :: (ps.map fun p => BitVec.ofNat 8 p.length :: p).flatten) ∧
    ∀ r : ServiceRow, ∃ remark platform due : List Byte, contentFields (.service r) =
      (field .rowKind [Config.rowKindCode .service] :: field .key r.key :: field .scheduled (hhmm r.scheduled)
        :: (r.expected.toList.map fun x => field .expected (hhmm x)) ++ [field .destination r.destination]
        ++ (r.via.toList.map fun x => field .via x)
        ++ [field .platform platform, field .remark remark, field .due due]
        ++ (r.notice.toList.map fun x => field .notice x) ++ [field .flash [Config.flashCode r.flash]]
        ++ (r.coaches.toList.map fun n => field .coaches [BitVec.ofNat 8 n])
        ++ [field .columns [Config.columnsCode r.showDue r.showExpected r.showCoaches]]).flatten ∧
      (r.platform = none → platform = [0x2D]) ∧
      (∀ p, r.platform = some p → 1 ≤ p.num → p.num ≤ 40 → p.suffix ≤ 2 →
        platform = (if p.num < 10 then [] else [digit (p.num / 10)]) ++ [digit p.num]
          ++ (if p.suffix = 0 then [] else if p.suffix = 1 then [0x41] else [0x42])) ∧
      (∀ x d, r.remark = .expected x d → d ≤ 999 →
        remark = Config.remarkCode .expected :: hhmm x ++ [digit (d / 100), digit (d / 10), digit d]) ∧
      ((∀ x d, r.remark ≠ .expected x d) → remark = [Config.remarkCode r.remark.kind]) ∧
      due = (match r.due with
        | .word => [0x44, 0x75, 0x65]
        | .figure c => (if c < 10 then [] else [digit (c / 10)]) ++ [digit c]
        | .blank => [])

/-- R97: the last character of the frame on the line has gone out: the string awaits the reply for 20 ms; R98: a reply that
is not accepted is stray and only counted, and while a frame is going out it is not received at all.
Choices of the model in it: log 15. -/
def Obligations.FrameSentAwaitsTheReply : Prop :=
  (∀ (n : Fin 4) (due : Nat) (s : State), (s.work.string n).activity = .sending due →
    ∃ t, exec (.wallFrameSent n) s = .next t ∧ t.base = s.base ∧ t.scd = s.scd ∧ t.pending = s.pending ∧
      t.work =
        { s.work with
          wsc := s.work.wsc.modify n fun u => { u with activity := .awaiting (s.base.elapsed + 20) }
          hlu := s.work.hlu.pump }) ∧
  ∀ (n : Fin 4) (r : ModReply) (s : State),
    (∀ due f q, (s.work.string n).activity = .awaiting due → (s.work.string n).inFlight = some (f, q) →
      r.checkGood = false ∨ r.address ≠ f.address ∨ r.sequence ≠ q) →
    ∃ t, exec (.moduleReply n r) s = .next t ∧ t.base = s.base ∧ t.scd = s.scd ∧ t.pending = s.pending ∧
      t.work =
        { s.work with
          wsc := match (s.work.string n).activity with
            | .sending _ => s.work.wsc
            | _ => s.work.wsc.modify n fun u => { u with stray := u.stray + 1 }
          hlu := s.work.hlu.pump }

/-- R98, R99, R100, R81: an accepted reply, or the end of the reply timer, completes the frame on the line: the health
entry and the counts of R102, the end of a drain, the frame recorded as on the wall, and the next transmission.
Choices of the model in it: log 15, 27. -/
def Obligations.CompletionsAreRecorded : Prop :=
  ∀ (c : Instr) (n : Fin 4) (f : WallFrame) (q : Byte) (due : Nat) (res : FrameResult) (s : State),
    n.val < s.work.wsc.length → (s.work.string n).activity = .awaiting due → (s.work.string n).inFlight = some (f, q) →
    ((c = .replyTimeout n ∧ res = .noReply) ∨
      ∃ r, c = .moduleReply n ⟨f.address, q, r, true⟩ ∧ res = (match r with | .ok => .ok | .fault k => .fault k)) →
    let health := match res with | .ok => Health.ok | .fault k => .fault k | .noReply => .noReply
    let old := s.work.string n
    ∃ t, exec c s = .next t ∧ t.base = s.base ∧ t.scd = s.scd ∧ t.pending = s.pending ∧
      t.work.settled =
        { s.work.settled with
          bcp := { s.work.settled.bcp with recompose := t.work.bcp.recompose }
          wsc := s.work.settled.wsc.modify n fun u =>
            { u with
              drain := false
              health := u.health.set (f.address - 1) health
              repliesOk := if res = .ok then u.repliesOk + 1 else u.repliesOk
              repliesFault := match res with | .fault _ => u.repliesFault + 1 | _ => u.repliesFault
              timeouts := if res = .noReply then u.timeouts + 1 else u.timeouts } } ∧
      (old.drain = false → t.work.bcp.recompose = s.work.bcp.recompose) ∧
      (n.val < s.work.bcp.cells.length → f.address - 1 < (s.work.bcp.cells.getD n []).length →
        (t.work.cell n f.address).onWall = some f.content) ∧
      (old.drain = false → old.enabled = true → ∀ g rest, old.queue = g :: rest →
        (t.work.string n).inFlight = some (g, old.seq + 1)) ∧
      (old.healthOf f.address ≠ health → s.work.hlu.mask.contains .moduleState = true →
        s.work.hlu.reports.length < 24 →
        ∃ rep ∈ t.work.hlu.reports, rep.body = .moduleState n f.address (old.healthOf f.address) health q)

/-! ### Notice rules (chapter 7) -/

/-- R120, R121, R122: an accepted RULE PUT stores the rule, an accepted RULE DROP empties the place and takes its number out of
every held set, and the quiet re-evaluation brings every held set into line with the new table: it makes no enqueue request
and raises no RULE_HOLDS; with no service held and no banner in the place before, the Board Composer is told of nothing, whatever
banner the new record has. R111 to R114, R125: what a loud evaluation at a record change event does: the held set is that of
the HEADs that hold; a HEAD that rises reports, makes its enqueue request and starts its watch in the lowest free slot; one
that falls has no slot left, and its waiting cues are withdrawn. R118: at a step event every HEAD is evaluated, its countdown
judged by crossing from the old rule time when that rises, and by what crossing a HEAD holds.
Choices of the model in it: log 3, 7, 18 (which boards a rule load tells), 34, 35, 51 (the priority
and the holder count that the reply carries for a TERM). -/
def Obligations.RuleLoadsBringHeldSetsIntoLine : Prop :=
  (∀ (c : Instr) (h : ReqHead) (n : Nat) (stored : Option Rule) (s : State), s.ready → h.misfit = none →
    (s.work.svt.services.map Service.key).Nodup →
    ((∃ r, c = .rulePut h n r ∧ ruleRefusal s n r = none ∧ stored = some
        { kind := argOr .head r.kind, enabled := argOr true r.enabled, preds := storedPreds r.preds
          terms := r.terms.getD [], priority := r.priority.getD 0, notice := r.notice
          banner := r.banner.map fun p => (p.1, asSet p.2), cue := r.cue
          watch := match r.watch with | .is x => some x | _ => none
          report := r.report }) ∨
      (c = .ruleDrop h n ∧ ruleDropRefusal s n = none ∧ stored = none)) →
    ∃ t, exec c s = .next t ∧ t.base = s.base ∧ t.scd = s.scd ∧ t.pending = s.pending ∧
      t.replyTo s.work.hlu.arrivals = some (match stored with
        | some r => ⟨.ok, [], .rule r (t.work.svt.services.countP fun x => x.held.contains n)⟩
        | none => Reply.ok) ∧
      t.work.settled =
        { s.work.settled with nre := { s.work.settled.nre with rules := s.work.nre.rules.set n stored } } ∧
      (stored = none → ∀ x ∈ t.work.svt.services, n ∉ x.held) ∧
      (s.work.hlu.degraded = false → s.work.svt.services = [] → (∀ r, s.work.nre.rule n = some r → r.banner = none) →
        t.work.bcp = s.work.bcp ∧ t.work.wsc = s.work.wsc) ∧
      (∀ e ∈ t.work.cuc.queue, ∃ q ∈ s.work.cuc.queue, q.seq = e.seq) ∧
      (∀ rep ∈ t.work.hlu.reports, (∃ k p key at', rep.body = .ruleHolds k p key at') → rep ∈ s.work.hlu.reports) ∧
      ∀ x ∈ t.work.svt.services, ∀ k g, k < 64 → t.work.nre.rule k = some g →
        (k ∈ x.held ↔
          t.work.nre.headHolds s.base.tbs.t s.work.nre.ruleTime s.work.nre.ruleTime g x = true)) ∧
  (∀ (b : Base) (key : Key) (x : Service) (w : Work), w.svt.find key = some x →
    let u := w.evaluateChange b key
    let holds := fun (h : Nat) (r : Rule) => h < 64 ∧ w.nre.rule h = some r ∧
      w.nre.headHolds b.tbs.t w.nre.ruleTime w.nre.ruleTime r x = true
    let latest := fun m : Template => if m.deadline = true then min (b.tbs.t + m.validity) x.k else b.tbs.t + m.validity
    let raised := fun body : ReportBody => w.hlu.mask.contains body.cls = true → u.hlu.lost = false →
      ∃ rep ∈ u.hlu.reports, rep.body = body
    (∃ y, u.svt.find key = some y ∧ y.core = x.core ∧ ∀ h r, h < 64 → w.nre.rule h = some r → (h ∈ y.held ↔ holds h r)) ∧
    (∀ h r, holds h r → h ∉ x.held →
      (r.report = true → raised (.ruleHolds h r.priority key b.tbs.t)) ∧
        ((∀ g q, holds g q → g ∈ x.held ∨ g = h) →
          (∀ c tm, r.cue = some c → w.cuc.template c = some tm → b.fiu.override = false → w.cuc.maySelect = false →
            w.cuc.queue.length < 32 → (∀ e ∈ w.cuc.queue, e.number = c → e.key = some key → ¬ e.waits) →
            b.tbs.t ≤ latest tm →
            ∃ e ∈ u.cuc.queue, e.waits ∧ e.number = c ∧ e.template = tm ∧ e.key = some key ∧ e.source = .rule h ∧
              e.serviceSeq = some x.seq ∧ e.priority = tm.priority ∧ e.latest = latest tm ∧ e.seq = w.cuc.counter + 1) ∧
          ∀ wt, r.watch = some wt → (∀ g q, g < 64 → w.nre.rule g = some q → g ∈ x.held → holds g q) →
            (∀ i : Nat, w.nre.slots[i]? = some none → (∀ j : Nat, j < i → w.nre.slots[j]? ≠ some none) →
              u.nre.slots = w.nre.slots.set i (some ⟨h, key,
                match wt with | .timeout p => .timeout p p | .count th => .count th 0, true⟩)) ∧
            ((∀ i : Nat, w.nre.slots[i]? ≠ some none) → u.nre.slots = w.nre.slots ∧ raised (.watchFull h key)))) ∧
    ∀ h r, h < 64 → w.nre.rule h = some r → h ∈ x.held → ¬ holds h r →
      (∀ slot, some slot ∈ u.nre.slots → ¬ (slot.head = h ∧ slot.key = key)) ∧
        ((∀ g q, holds g q → g ∈ x.held) → ∀ c, r.cue = some c → ∀ e ∈ u.cuc.queue, e.number = c →
          e.key = some key → e.template.withdrawOnClear = true → ¬ e.waits)) ∧
  (∀ (h : ReqHead) (hour minute second millis : Nat) (s : State) (d : Int), s.ready → h.misfit = none →
    hour ≤ 23 → minute ≤ 59 → second ≤ 59 → millis ≤ 999 → s.base.tbs.state ≠ .unset →
    -43200000 ≤ d → d ≤ 43199999 → d ≠ 0 →
    (s.base.tbs.clockMillis + d - ((3600 * hour + 60 * minute + second) * 1000 + millis : Nat)) % 86400000 = 0 →
    (s.work.svt.services.map Service.key).Nodup →
    let passes := 86400000 ≤ 1000 * s.base.tbs.t + s.base.tbs.fraction + d
    let old := if passes then s.work.nre.ruleTime - 86400 else s.work.nre.ruleTime
    ∃ t, exec (.timeSet h hour minute second millis) s = .next t ∧
      let now := t.base.tbs
      t.work.nre.ruleTime = now.tHigh ∧
      ∀ x ∈ t.work.svt.services, ∀ k g, k < 64 → t.work.nre.rule k = some g →
        (k ∈ x.held ↔
          t.work.nre.headHolds now.t (if old < now.tHigh then old else now.tHigh) now.tHigh g x = true)) ∧
  ∀ (e : Nre) (t a c : Int) (r : Rule) (x : Service), r.kind = .head →
    (e.headHolds t a c r x = true ↔
      r.enabled = true ∧ (∀ i ∈ r.terms, ∃ q, e.rule i = some q ∧ q.kind = .term ∧ q.enabled = true) ∧
        ∀ p, (p = r.preds ∨ ∃ i ∈ r.terms, ∃ q, e.rule i = some q ∧ q.preds = p) →
          predsHold t c c { p with countdown := none } x = true ∧
            ∀ lo hi, p.countdown = some (lo, hi) →
              ∃ n, lo ≤ n ∧ n ≤ hi ∧ countdown (x.k - c) ≤ n ∧ n ≤ countdown (x.k - a))

/-- R109: a HEAD holds for a service exactly when it is enabled, its predicates hold, and each TERM it lists is enabled and its
predicates hold, all at one t and one rule time; it is a time HEAD when one of the predicates of its chain is a time
predicate; a TERM does not hold by itself, enters no held set, and carries no action. -/
def Obligations.HeadHoldsByItsChain : Prop :=
  (∀ (e : Nre) (t u : Int) (r : Rule) (x : Service), r.kind = .head →
    (e.headHolds t u u r x = true ↔
      r.enabled = true ∧ (∀ i ∈ r.terms, ∃ q, e.rule i = some q ∧ q.kind = .term ∧ q.enabled = true) ∧
        ∀ p, (p = r.preds ∨ ∃ i ∈ r.terms, ∃ q, e.rule i = some q ∧ q.preds = p) →
          (∀ ss, p.status = some ss → x.status ∈ ss) ∧ (∀ cs, p.cls = some cs → x.cls ∈ cs) ∧
          (∀ ns, p.platform = some ns → ∃ d, x.current = some d ∧ d.num ∈ ns) ∧
          (∀ i, p.destination = some i → x.destination = i) ∧ (∀ i, p.calling = some i → i ∈ x.calling) ∧
          (∀ lo hi, p.delay = some (lo, hi) → lo ≤ x.delay ∧ x.delay ≤ hi) ∧
          (∀ lo hi, p.countdown = some (lo, hi) → lo ≤ countdown (x.k - u) ∧ countdown (x.k - u) ≤ hi) ∧
          (∀ n, p.changed = some n → ∃ ct, x.changeTime = some ct ∧ t - ct ≤ n) ∧
          (∀ v, p.stale = some v → x.stale = v) ∧ (∀ v, p.unsettled = some v → x.unsettled = v) ∧
          (∀ v, p.actual = some v → x.actual.isSome = v)) ∧
      (e.timeHead r = true ↔
        ∃ p, (p = r.preds ∨ ∃ i ∈ r.terms, ∃ q, e.rule i = some q ∧ q.preds = p) ∧
          (p.countdown ≠ none ∨ p.changed ≠ none))) ∧
  (∀ (e : Nre) (t a c : Int) (r : Rule) (x : Service), r.kind = .term → e.headHolds t a c r x = false) ∧
  (∀ (b : Base) (group : Rule → Bool) (a c : Int) (x : Service) (w : Work) (h : Nat), h ∈ w.rising b group a c x →
    ∃ r, w.nre.rule h = some r ∧ r.kind = .head) ∧
  ∀ (n : Nat) (r : RuleReq) (s : State), ruleRefusal s n r = none → r.kind = .is .term →
    let q := ruleRecord r
    q.kind = .term ∧ q.terms = [] ∧ q.notice = none ∧ q.banner = none ∧ q.cue = none ∧ q.watch = none ∧ q.report = false

/-- R126, R128: a TIMEOUT slot that expires sets the stale flag and is freed, and a COUNT slot that reaches its threshold
sets the unsettled flag and counts afresh, as long as its HEAD still holds; each raises its report. R115, R126: at a second
event that brings nothing else about, every TIMEOUT slot is lowered by one and no COUNT slot changes, and the lowest slot that
reaches 0 has that expiry. Choices of the model in it: log 15. -/
def Obligations.WatchOutcomesSetTheFlags : Prop :=
  (∀ s : State, s.base.tbs.state ≠ .unset → s.base.tbs.t < 86399 →
    (∀ x ∈ s.work.svt.services, x.staged = none ∧ x.timer = none) →
    (∀ i r, s.work.nre.rule i = some r → s.work.nre.timeHead r = false) →
    ∃ t, exec .secondEvent s = .next t ∧ (t.base.tbs.clockSeconds % 60 ≠ 0 →
      ((∀ x p left, some x ∈ s.work.nre.slots → x.mode = .timeout p left → 1 < left) →
        t.work.nre.slots = s.work.nre.slots.map (Option.map fun x =>
          { x with fresh := false, mode := match x.mode with | .timeout p left => .timeout p (left - 1) | m => m })) ∧
      ∀ (i : Nat) (x : Slot) (p left : Nat), i < 24 → s.work.nre.slots[i]? = some (some x) → x.mode = .timeout p left →
        left ≤ 1 →
        (∀ (j : Nat) (y : Slot) (q rest : Nat), j < i → s.work.nre.slots[j]? = some (some y) →
          y.mode = .timeout q rest → 1 < rest) →
        (∀ y ∈ t.work.svt.services, y.key = x.key → y.stale = true) ∧ t.raised (.watchExpired x.head x.key p))) ∧
  ∀ (i : Fin 24) (head : Nat) (key : Key) (fresh : Bool) (s : State),
    (∀ period left, s.work.nre.slots.getD i none = some ⟨head, key, .timeout period left, fresh⟩ →
      ∃ t, exec (.watchExpiry i) s = .next t ∧ t.base = s.base ∧ t.scd = s.scd ∧ t.pending = s.pending ∧
        t.work.settled = s.work.settled ∧ (∀ x ∈ t.work.svt.services, x.key = key → x.stale = true) ∧
        ((s.work.svt.find key).map Service.stale = some true → t.work.nre.slots = s.work.nre.slots.set i none) ∧
        (s.work.watchInv → ∀ x, some x ∈ t.work.nre.slots → ¬ (x.head = head ∧ x.key = key)) ∧
        (s.work.hlu.mask.contains .watch = true → s.work.hlu.reports.length < 24 →
          ∃ rep ∈ t.work.hlu.reports, rep.body = .watchExpired head key period)) ∧
    (∀ threshold n, s.work.nre.slots.getD i none = some ⟨head, key, .count threshold n, fresh⟩ →
      ∃ t, exec (.watchCount i) s = .next t ∧ t.base = s.base ∧ t.scd = s.scd ∧ t.pending = s.pending ∧
        t.work.settled = s.work.settled ∧ (∀ x ∈ t.work.svt.services, x.key = key → x.unsettled = true) ∧
        ((s.work.svt.find key).map Service.unsettled = some true →
          t.work.nre.slots = s.work.nre.slots.set i (some ⟨head, key, .count threshold 0, fresh⟩)) ∧
        (s.work.watchInv →
          (∀ x, some x ∈ t.work.nre.slots → x.head = head → x.key = key → x = ⟨head, key, .count threshold 0, fresh⟩) ∧
            ((∃ x ∈ t.work.svt.services, x.key = key ∧ head ∈ x.held) →
              t.work.nre.slots.getD i none = some ⟨head, key, .count threshold 0, fresh⟩)) ∧
        (s.work.hlu.mask.contains .watch = true → s.work.hlu.reports.length < 24 →
          ∃ rep ∈ t.work.hlu.reports, rep.body = .watchCount head key threshold))

/-- R19, R110, R124: every step keeps at most 192 records with distinct keys, 24 watch slots, each bound to a pair whose HEAD
is in the service's held set, and no pair with two slots. Choices of the model in it: log 2. -/
def Obligations.WatchSlotsFollowHeldRules : Prop :=
  ∀ s t : State, s.work.watchInv → step s = .next t → t.work.watchInv

/-! ### Announcement cues (chapter 8) -/

/-- R131: an accepted TEMPLATE PUT replaces the place's template whole, its validity clamped, and answers with it.
Choices of the model in it: log 3, 35. -/
def Obligations.TemplatePutStoresTheTemplate : Prop :=
  ∀ (h : ReqHead) (n : Nat) (r : TemplateReq) (s : State), s.ready → h.misfit = none → templateRefusal n r = none →
    let validity := r.validity.getD 120
    let stored : Template :=
      { items := r.items.filterMap id, priority := r.priority.getD 0
        validity := if validity < 10 then 10 else if 900 < validity then 900 else validity
        zones := match r.zones with | .is (.fixed zs) => .fixed (asSet zs) | _ => .platform
        needsShown := r.needsShown.getD false, requiresFeed := r.requiresFeed.getD false
        withdrawOnClear := r.withdrawOnClear.getD false, deadline := r.deadline.getD false }
    ∃ t, exec (.templatePut h n r) s = .next t ∧
      t.replyTo s.work.hlu.arrivals = some (if stored.validity = validity then ⟨.ok, [], .template stored⟩
        else ⟨.clamped, [(.validity, stored.validity)], .template stored⟩) ∧
      t.base = s.base ∧ t.scd = s.scd ∧ t.pending = s.pending ∧
      t.work.settled =
        { s.work.settled with cuc :=
          { s.work.settled.cuc with templates := s.work.cuc.templates.set n (some stored) } }

/-- R134, R135: what a CUE ASK that passes its checks comes to: the cases of the enqueue request in order, each with its
reply; and, where no selection can follow, the queue after it: a merge changes its entry, an admitted entry joins in its order,
at a full queue after the waiting entry of the lowest priority and, of those, the greatest sequence has gone with CUE_DROPPED
DISPLACED, and a refusal (OVERRIDE, EXPIRED, FULL) leaves the queue as it was and is reported. Choices of the model in it:
log 3. -/
def Obligations.CueAskJoinsTheQueue : Prop :=
  ∀ (h : ReqHead) (n : Nat) (key : Option Key) (tm : Template) (s : State), s.ready → h.misfit = none →
    askRefusal s n key = none → s.work.cuc.template n = some tm → s.work.hlu.degraded = false →
    s.work.cuc.queue.Pairwise (fun a b => b.priority ≤ a.priority) →
    let cuc := s.work.cuc
    let service := key.bind s.work.svt.find
    let latest := fun m : Template => match service with
      | some x => if m.deadline then min (s.base.tbs.t + m.validity) x.k else s.base.tbs.t + m.validity
      | none => s.base.tbs.t + m.validity
    let waiting := fun e : CueEntry => e.state == .queued || e.state == .held
    let same := cuc.queue.find? fun e => waiting e && e.number == n && e.key == key
    ∃ t, exec (.cueAsk h n key) s = .next t ∧ t.base = s.base ∧ t.scd = s.scd ∧ t.pending = s.pending ∧
      t.work.settled = s.work.settled ∧
      t.replyTo s.work.hlu.arrivals = some (
        if s.base.fiu.override = true then ⟨.state, [], .field .overrideReason⟩
        else match same with
          | some e => ⟨.ok, [], .merged e.seq⟩
          | none =>
            if latest tm < s.base.tbs.t then ⟨.state, [], .field .expiredReason⟩
            else if cuc.queue.length < 32 ∨ (∃ e ∈ cuc.queue, waiting e = true ∧ e.priority < tm.priority) then
              ⟨.ok, [], .admitted (cuc.counter + 1)⟩
            else ⟨.tableFull, [], .nothing⟩) ∧
      (cuc.queue.Pairwise cueOrder → t.work.cuc.queue.Pairwise cueOrder) ∧
      (cuc.maySelect = false → s.base.fiu.override = true →
        t.work.cuc.queue = cuc.queue ∧ t.raised (.cueDropped n key .host .override none)) ∧
      (cuc.maySelect = false → s.base.fiu.override = false →
        let joins := fun q : List CueEntry =>
          t.work.cuc.counter = cuc.counter + 1 ∧
            ∃ e, t.work.cuc.queue.Perm (e :: q) ∧ e.number = n ∧ e.template = tm ∧ e.key = key ∧
              e.serviceSeq = service.map Service.seq ∧ e.priority = tm.priority ∧ e.source = .host ∧
              e.seq = cuc.counter + 1 ∧ e.latest = latest tm ∧ e.resolved = none ∧ e.unobserved = false ∧
              (e.state = if tm.needsShown = true ∧ ∃ x, service = some x ∧ s.work.confirmation x ≠ []
                then .held else .queued)
        match same with
        | some e => t.work.cuc.queue = cuc.queue.map fun q =>
            if q.seq = e.seq then
              { q with
                latest := max q.latest (latest q.template)
                serviceSeq := match service with | some x => some x.seq | none => q.serviceSeq }
            else q
        | none =>
          (latest tm < s.base.tbs.t →
            t.work.cuc.queue = cuc.queue ∧ t.raised (.cueDropped n key .host .expired none)) ∧
          (s.base.tbs.t ≤ latest tm → cuc.queue.length < 32 → joins cuc.queue) ∧
          (s.base.tbs.t ≤ latest tm → 32 ≤ cuc.queue.length →
            (cuc.queue.Pairwise cueOrder → ∀ d ∈ cuc.queue, waiting d = true → d.priority < tm.priority →
              (∀ q ∈ cuc.queue, waiting q = true → q.seq = d.seq → q = d) →
              (∀ q ∈ cuc.queue, waiting q = true →
                d.priority < q.priority ∨ (q.priority = d.priority ∧ q.seq.toNat ≤ d.seq.toNat)) →
              joins (cuc.queue.filter fun q => q.seq != d.seq) ∧
                t.raised (.cueDropped d.number d.key d.source .displaced (some d.seq))) ∧
            ((∀ d ∈ cuc.queue, waiting d = true → tm.priority ≤ d.priority) →
              t.work.cuc.queue = cuc.queue ∧ t.raised (.cueDropped n key .host .full none))))

/-- R132, R149, R150: an accepted CONFIGURE CUE LINK stores the fields it carries; an enable takes the operating rate and
width; a disable takes the link to DISABLED: in SENDING at the end of the frame that is going out, with its entry marked
unobserved, and otherwise at once; in AWAIT_ACCEPT and PLAYING the entry on the link is freed with CUE_DONE UNOBSERVED; and no
waiting entry goes.
Choices of the model in it: log 3, 23, 35. -/
def Obligations.ConfigureCueLinkStoresTheFields : Prop :=
  ∀ (h : ReqHead) (r : CueLinkReq) (s : State), s.ready → h.misfit = none → cueLinkRefusal s r = none →
    s.work.hlu.degraded = false →
    let c := s.work.cuc
    let delay := r.resumeDelay.getD c.cfg.resumeDelay
    let cfg : CueConfig :=
      { enabled := argOr c.cfg.enabled r.enabled, rate := argOr c.cfg.rate r.rate, width := argOr c.cfg.width r.width
        numberBase := r.numberBase.getD c.cfg.numberBase, hourBase := r.hourBase.getD c.cfg.hourBase
        minuteBase := r.minuteBase.getD c.cfg.minuteBase, suffixA := r.suffixA.getD c.cfg.suffixA
        suffixB := r.suffixB.getD c.cfg.suffixB, truncation := r.truncation.getD c.cfg.truncation
        zones := (r.zones.getD []).foldl (fun m e => m.set (e.1 - 1) (asSet e.2)) c.cfg.zones
        overrideTemplate := r.overrideTemplate.getD c.cfg.overrideTemplate
        resumeDelay := if 30 < delay then 30 else delay }
    let enables := r.enabled = .is true ∧ c.link = .disabled
    ∃ t, exec (.configureCueLink h r) s = .next t ∧ t.base = s.base ∧ t.scd = s.scd ∧ t.pending = s.pending ∧
      t.replyTo s.work.hlu.arrivals = some (match r.resumeDelay with
        | some v => if 30 < v then ⟨.clamped, [(.resumeDelay, 30)], .nothing⟩ else Reply.ok
        | none => Reply.ok) ∧
      t.work.settled =
        { s.work.settled with cuc :=
          { s.work.settled.cuc with
            cfg := cfg
            opRate := if enables then cfg.rate else c.opRate
            opWidth := if enables then cfg.width else c.opWidth
            disablePending := t.work.cuc.disablePending } } ∧
      (r.enabled = .is false → match c.link with
        | .sending due => t.work.cuc.link = .sending due ∧ t.work.cuc.disablePending = true ∧ t.work.cuc.frame = c.frame ∧
            t.work.cuc.queue = c.queue.map fun q => if q.state = .sending then { q with unobserved := true } else q
        | .awaitAccept _ | .playing _ => t.work.cuc.link = .disabled ∧ t.work.cuc.disablePending = c.disablePending ∧
            t.work.cuc.frame = none ∧
            ∀ e, c.onLink = some e → (t.work.cuc.queue = c.queue.filter fun q => q.seq != e.seq) ∧
              t.raised (.cueDone e.number e.key e.source e.seq .unobserved e.resolved)
        | .disabled | .idle | .blocked => t.work.cuc.link = .disabled ∧ t.work.cuc.disablePending = c.disablePending ∧
            t.work.cuc.queue = c.queue) ∧
      (r.enabled ≠ .is false → t.work.cuc.disablePending = c.disablePending) ∧
      (enables → (∀ e ∈ c.queue, e.state ≠ .queued) → t.work.cuc.link = if c.busy then .blocked else .idle)

/-- R144: the last character of a cue frame has gone out: the entry awaits acceptance for 500 ms, or, marked unobserved, is
freed with CUE_DONE, and the link is DISABLED if disable pending was set. Choices of the model in it: log 15. -/
def Obligations.CueFrameSentAwaitsAcceptance : Prop :=
  ∀ (due : Nat) (e : CueEntry) (s : State), s.work.cuc.link = .sending due → s.work.cuc.onLink = some e →
    (e.unobserved = false →
      ∃ t, exec .endOfTransmission s = .next t ∧ t.base = s.base ∧ t.scd = s.scd ∧ t.pending = s.pending ∧
        t.work = { s.work with
          cuc := { s.work.cuc with
            link := .awaitAccept (s.base.elapsed + 500)
            queue := s.work.cuc.queue.map fun q => if q.state = .sending then { q with state := .awaitAccept } else q }
          hlu := s.work.hlu.pump }) ∧
    (e.unobserved = true →
      ∃ t, exec .endOfTransmission s = .next t ∧ t.base = s.base ∧ t.scd = s.scd ∧ t.pending = s.pending ∧
        t.work.cuc.disablePending = false ∧ (∀ q ∈ t.work.cuc.queue, q.seq ≠ e.seq) ∧
        (s.work.cuc.disablePending = true → t.work.cuc.link = .disabled) ∧
        (s.work.cuc.disablePending = false → s.work.cuc.busy = true → t.work.cuc.link = .blocked) ∧
        (s.work.hlu.mask.contains .cue = true → s.work.hlu.reports.length < 24 →
          ∃ rep ∈ t.work.hlu.reports, rep.body = .cueDone e.number e.key e.source e.seq .unobserved e.resolved))

/-- R145, R146, R147: the ends of the accept window, of the maximum play time and of the resume delay; and what an edge of the
PLAY_BUSY line does to the link: in AWAIT_ACCEPT, becoming active, it is PLAYING for 120 s; in PLAYING, becoming inactive, the
entry is freed with CUE_DONE, PLAYED or SUPERSEDED, and the link is IDLE; IDLE and BLOCKED follow the level; and an edge of
the PA_OVERRIDE line, which clears the resume count or sets it to the configured delay. Choices of the model in it: log 11,
15. -/
def Obligations.CueIntervalsEnd : Prop :=
  (∀ (due : Nat) (e : CueEntry) (s : State),
    (s.work.cuc.link = .awaitAccept due → s.work.cuc.onLink = some e →
      ∃ t, exec .acceptWindowEnd s = .next t ∧ t.base = s.base ∧ t.scd = s.scd ∧ t.pending = s.pending ∧
        t.work.settled = s.work.settled ∧ (∀ q ∈ t.work.cuc.queue, q.seq ≠ e.seq) ∧
        (s.work.cuc.busy = true → t.work.cuc.link = .blocked) ∧
        (s.work.cuc.busy = false → (∀ q ∈ s.work.cuc.queue, q.state ≠ .queued) → t.work.cuc.link = .idle) ∧
        (s.work.hlu.mask.contains .cue = true → s.work.hlu.reports.length < 24 →
          ∃ rep ∈ t.work.hlu.reports,
            rep.body = .cueDropped e.number e.key e.source .notAccepted (some e.seq))) ∧
    (s.work.cuc.link = .playing due → s.work.cuc.onLink = some e →
      ∃ t, exec .maximumPlayTimeEnd s = .next t ∧ t.base = s.base ∧ t.scd = s.scd ∧ t.pending = s.pending ∧
        t.work = { s.work with
          cuc := { s.work.cuc with
            link := .blocked, frame := none, queue := s.work.cuc.queue.filter fun q => q.seq != e.seq }
          hlu := (s.work.hlu.raise (.cueStuck e.number e.key e.seq)).pump }) ∧
    (0 < s.work.cuc.resume →
      ∃ t, exec .resumeDelayEnd s = .next t ∧ t.base = s.base ∧ t.scd = s.scd ∧ t.pending = s.pending ∧
        t.work.cuc.resume = 0 ∧ t.work.loaded = s.work.loaded ∧
        (s.work.cuc.link ≠ .idle → t.work = { s.work with
          cuc := { s.work.cuc with resume := 0 }, hlu := s.work.hlu.pump }))) ∧
  ∀ (n : Fin 16) (v : Level) (l : FieldLine) (s : State), s.base.fiu.lines[n.val]? = some l → l.filtered ≠ v →
    let c := s.work.cuc
    let level := decide (l.active = v)
    let nothingQueued := ∀ q ∈ c.queue, q.state ≠ .queued
    ∃ t, exec (.edge n v) s = .next t ∧
      (l.role = .playBusy →
        (c.busy = level → t.work.cuc = c) ∧
        (c.busy ≠ level → match c.link with
          | .awaitAccept _ =>
            if level = true then
              t.work.cuc = { c with
                busy := true, link := .playing (s.base.elapsed + 120000)
                queue := c.queue.map fun q => if q.state = .awaitAccept then { q with state := .playing } else q }
            else t.work.cuc = { c with busy := false }
          | .playing _ =>
            if level = true then t.work.cuc = { c with busy := true }
            else
              (nothingQueued → t.work.cuc.link = .idle) ∧
              ∀ e, c.onLink = some e →
                let outcome := match e.key with
                  | none => DoneOutcome.played
                  | some k =>
                    match s.work.svt.services.find? fun x => x.key == k && some x.seq == e.serviceSeq with
                    | some x => if e.resolved = some x.current then .played else .superseded
                    | none => .superseded
                (∀ q ∈ t.work.cuc.queue, q.seq ≠ e.seq) ∧
                  t.raised (.cueDone e.number e.key e.source e.seq outcome e.resolved)
          | .idle =>
            if level = true then t.work.cuc = { c with busy := true, link := .blocked }
            else nothingQueued → t.work.cuc = { c with busy := false }
          | .blocked =>
            if level = true then t.work.cuc = { c with busy := true }
            else nothingQueued → t.work.cuc = { c with busy := false, link := .idle }
          | .disabled | .sending _ => t.work.cuc = { c with busy := level })) ∧
      (l.role = .paOverride →
        (c.paOverride = level → t.work.cuc = c) ∧
        (c.paOverride ≠ level → level = true ∨ c.cfg.resumeDelay ≠ 0 ∨ c.link ≠ .idle ∨ nothingQueued →
          t.work.cuc = { c with paOverride := level, resume := if level = true then 0 else c.cfg.resumeDelay }))

/-- R139, R140: selection is made only with the link IDLE, disable pending clear, PA_OVERRIDE inactive and the resume count 0;
it takes the QUEUED entries in queue order, under override those of the override alone: it drops one that requires a feed that is
DEGRADED, holds back one by the interlock, drops an unresolvable one, and ends with the first that it sends, with its resolved
platform, its frame and the length of the transmission. No cue with NEEDS_PLATFORM_SHOWN goes on the link while its service has
a non-empty confirmation set, and while override is active none whose source is not the override. R141, R142: what an entry
resolves to: its phrases item by item, more than 48 cut to 47 and the truncation phrase, and its zone set. R143: the check of its
frame, over the zone set, the priority, the phrase count and the phrases. Choices of the model in it: log 41 (how phrases are
packed), 48 (the phrase code of an empty entry). -/
def Obligations.SelectionObeysTheInterlock : Prop :=
  (∀ (b : Base) (w : Work) (e : CueEntry), (w.cuc.queue.map CueEntry.seq).Nodup →
    (∀ q ∈ w.cuc.queue, q.state ≠ .sending) → e ∈ (w.select b).cuc.queue → e.state = .sending →
    (∃ due, (w.select b).cuc.link = .sending due) ∧ (b.fiu.override = true → e.source = .override) ∧
      ∀ x, e.template.needsShown = true → w.entryService e = some x → w.confirmation x = []) ∧
  (∀ (b : Base) (w : Work),
    ¬ (w.cuc.link = .idle ∧ w.cuc.disablePending = false ∧ w.cuc.paOverride = false ∧ w.cuc.resume = 0) ∨
        (∀ q ∈ w.cuc.queue, q.state = .queued → b.fiu.override = true ∧ q.source ≠ .override) →
      w.select b = w) ∧
  (∀ (b : Base) (w : Work) (passed later : List CueEntry) (e : CueEntry),
    w.cuc.link = .idle → w.cuc.disablePending = false → w.cuc.paOverride = false → w.cuc.resume = 0 →
    (w.cuc.queue.map CueEntry.seq).Nodup →
    (w.cuc.queue.filter fun q => q.state == .queued && (!b.fiu.override || q.source == .override)) = passed ++ e :: later →
    let starved := fun q : CueEntry => w.hlu.degraded = true ∧ q.template.requiresFeed = true
    let locked := fun q : CueEntry => q.template.needsShown = true ∧ ∃ x, q.record w = some x ∧ w.confirmation x ≠ []
    let u := w.select b
    let freed := fun (q : CueEntry) (why : DropReason) => (∀ r ∈ u.cuc.queue, r.seq ≠ q.seq) ∧
      (w.hlu.mask.contains .cue = true → u.hlu.lost = false →
        ∃ rep ∈ u.hlu.reports, rep.body = .cueDropped q.number q.key q.source why (some q.seq))
    (∀ q ∈ passed, starved q ∨ locked q ∨ resolve b w q = none) →
      (starved e → freed e .degraded) ∧
      (¬ starved e → locked e → { e with state := .held } ∈ u.cuc.queue) ∧
      (¬ starved e → ¬ locked e → resolve b w e = none → freed e .unresolved) ∧
      ∀ f, ¬ starved e → ¬ locked e → resolve b w e = some f →
        { e with state := .sending, resolved := some ((e.record w).bind Service.current) } ∈ u.cuc.queue ∧
          (∀ q ∈ later, q ∈ u.cuc.queue) ∧ u.cuc.frame = some f ∧
          let n := f.phrases.length
          let chars := match w.cuc.opWidth with | .wide => 6 + 2 * n | .narrow => 6 + 3 * (n / 2) + 2 * (n % 2)
          u.cuc.link = .sending
            (1000 * b.elapsed + chars * match w.cuc.opRate with | .r100 => 100 | .r200 => 50 | .r400 => 25)) ∧
  (∀ (b : Base) (w : Work) (e : CueEntry),
    (resolve b w e).map (fun f => (f.zones, f.priority, f.phrases)) =
      match e.speech b w, e.zoneSet w with
      | some ps, some zs =>
        if ps = [] then none
        else some (zs, e.priority, if 48 < ps.length then ps.take 47 ++ [w.cuc.cfg.truncation] else ps)
      | _, _ => none) ∧
  ∀ (b : Base) (w : Work) (e : CueEntry) (f : CueFrame), resolve b w e = some f → (∀ p ∈ f.phrases, p ≤ 4095) →
    let n := f.phrases.length
    ∃ body : List Byte,
      f.check = crc16
        (BitVec.ofNat 8 (f.zones.map fun z => 2 ^ (z - 1)).sum :: BitVec.ofNat 8 f.priority :: BitVec.ofNat 8 n :: body) ∧
      let bits := body.foldl (fun v x => 256 * v + x.toNat) 0
      match w.cuc.opWidth with
      | .wide => body.length = 2 * n ∧ bits = f.phrases.foldl (fun v p => 65536 * v + p) 0
      | .narrow => body.length = 3 * (n / 2) + 2 * (n % 2) ∧
          bits = (if n % 2 = 1 then 16 else 1) * f.phrases.foldl (fun v p => 4096 * v + p) 0

/-! ### Slave clock lines (chapter 9) -/

/-- R154, R155, R158, R159, R166: an accepted CONFIGURE CLOCK LINE takes effect at once on a line that is not driving an
impulse, and is answered with the record as stored; on a line that is driving, it waits, and so does its reply. R166: a change
of the line's state is reported, with the cause CONFIGURE. Choices of the model in it: log 3, 8, 47 (the items of the reply's
record). -/
def Obligations.ConfigureClockLineTakesTheSection : Prop :=
  ∀ (h : ReqHead) (n : Nat) (r : ClockReq) (l : ClockLine) (s : State), s.ready → h.misfit = none →
    clockRefusal s n r = none → s.scd[n]? = some l →
    let kind := argOr .minute r.kind
    let width := r.width.getD 300
    let gap := r.gap.getD 700
    let W := if width < 100 then 100 else if 1000 < width then 1000 else width
    let G := if gap < 200 then 200 else if 2000 < gap then 2000 else gap
    let indicated := match r.indicated with
      | .is (.reading hh m sec) =>
        if kind = .minute then 60 * (hh % 12) + m else 2 * (60 * (hh % 12) + m) + (if sec = 30 then 1 else 0)
      | _ => l.indicated
    let stored : ClockLine :=
      { l with
        kind := kind, width := W, gap := G, hold := r.hold.getD 60, indicated := indicated
        polarity := match r.polarity with | .is (some p) => p | _ => l.polarity
        miss := 0, pending := false, decide := false, waiting := none }
    let next := if r.active = .is false then .unconfigured else if s.base.tbs.state = .unset then .waiting
      else decidedState kind (r.hold.getD 60) (stepsBehind kind s.base.tbs.clockSeconds indicated)
    ∃ t l', exec (.configureClockLine h n r) s = .next t ∧ t.base = s.base ∧ t.pending = s.pending ∧
      t.work.settled = s.work.settled ∧ (∀ k, k ≠ n → t.scd[k]? = s.scd[k]?) ∧ t.scd[n]? = some l' ∧
      s.raisedOf .clockLine (stateChange n t.base.tbs .configure l l') t ∧
      ((∃ due, l.drive = .driving due) →
        l' = { l with waiting := some (clockSection r) } ∧ t.replyTo s.work.hlu.arrivals = none) ∧
      ((∀ due, l.drive ≠ .driving due) →
        l'.kept = stored.kept ∧ l'.state = next ∧
          (next = .catchup ∧ l.drive = .idle → l'.drive = .driving (s.base.elapsed + W) ∧ l'.pending = false) ∧
          (next = .catchup ∧ l.drive ≠ .idle → l'.drive = l.drive ∧ l'.pending = true) ∧
          (next ≠ .catchup → l'.drive = l.drive ∧ l'.pending = false) ∧
          t.replyTo s.work.hlu.arrivals = some (if W = width ∧ G = gap then ⟨.ok, [], .clock (l'.view s.base.tbs)⟩
            else
              ⟨.clamped, (if W = width then [] else [(.width, W)]) ++ (if G = gap then [] else [(.gap, G)]),
                .clock (l'.view s.base.tbs)⟩))

/-- R160: the width of an impulse ends: the impulse counted and judged, the polarity flipped, the gap begun and the state
set; R164: the decision that a step event left to this end is then taken; R155, R166: a section that waited for it is applied to
the result and answered. R166: the reports are those of the judgement, with the cause IMPULSE or CLOCK_LINE_FAULT, of the step's
decision, with the cause STEP, and of the section, with the cause CONFIGURE. Then the requests whose turn has come are served.
Choices of the model in it: log 8, 15, 30, 45 (the causes), 46, 47 (the items of the reply's record). -/
def Obligations.ImpulseEndJudgesTheImpulse : Prop :=
  ∀ (n : Fin 4) (l : ClockLine) (due : Nat) (s : State), s.scd[n.val]? = some l → l.drive = .driving due →
    (l.state = .running ∨ l.state = .catchup) →
    let seen := l.impulseSense = none ∨ l.seen = true
    let position := if seen then (l.indicated + 1) % positions l.kind else l.indicated
    let miss := if seen then 0 else l.miss + 1
    let d := stepsBehind l.kind s.base.tbs.clockSeconds position
    let counted : ClockLine :=
      { l with
        indicated := position, miss := miss, drive := .gap (s.base.elapsed + l.gap), impulseSense := none
        polarity := match l.polarity with | .positive => .negative | .negative => .positive }
    let judged : ClockLine :=
      if miss = 3 then { counted with state := .faulted, pending := false }
      else if d = 0 then { counted with state := .running }
      else if l.state = .catchup then { counted with pending := true }
      else { counted with
        state := decidedState l.kind l.hold d, pending := decidedState l.kind l.hold d == .catchup }
    let ended : ClockLine :=
      if l.decide = true then
        let open' : ClockLine := { judged with decide := false }
        if judged.state = .faulted then open' else decidedLine s.base.elapsed s.base.tbs.clockSeconds open'
      else judged
    let reports : List ReportBody :=
      (if miss = 3 then [.clockLineFault n position (lineTarget s.base.tbs judged) l.polarity l.impulseSense]
        else stateChange n s.base.tbs .impulse l judged) ++ stateChange n s.base.tbs .step judged ended
    ∃ u : State, exec (.impulseEnd n) s = .next u.serveWaiting.finish ∧
      (s.caughtUp → l.waiting = none → u.serveWaiting = u) ∧
      u.base = s.base ∧ u.pending = s.pending ∧ u.work = { s.work with hlu := u.work.hlu } ∧
      (∀ k : Nat, k ≠ n → u.scd[k]? = s.scd[k]?) ∧
      (l.waiting = none → u.scd[n.val]? = some ended ∧ u.work.hlu.inbound = s.work.hlu.inbound ∧
        s.raisedOf .clockLine reports u ∧
        (miss = 3 → u.reported (.clockLineFault n position (judged.target s.base.tbs) l.polarity l.impulseSense))) ∧
      ∀ x, l.waiting = some x → ∃ l', u.scd[n.val]? = some l' ∧ l'.drive = .gap (s.base.elapsed + l.gap) ∧
        l'.kept = ({ counted with
          kind := x.kind, width := x.width, gap := x.gap, hold := x.hold
          indicated := x.position.getD position, polarity := x.polarity.getD counted.polarity
          miss := 0, waiting := none } : ClockLine).kept ∧
        l'.state = (if x.active = false then .unconfigured
          else if s.base.tbs.state = .unset then .waiting
          else decidedState x.kind x.hold (stepsBehind x.kind s.base.tbs.clockSeconds (x.position.getD position))) ∧
        (l'.pending = true ↔ l'.state = .catchup) ∧ l'.decide = false ∧
        s.raisedOf .clockLine (reports ++ stateChange n s.base.tbs .configure ended l') u ∧
        u.work.hlu.inbound = s.work.hlu.inbound.map fun e =>
          if e.progress = .inService then
            { e with progress := .answered (clockReply x (l'.view s.base.tbs)), restart := false }
          else e

/-- R159: the end of a gap, and the impulse that then starts. Choices of the model in it: log 15. -/
def Obligations.GapEndStartsThePendingImpulse : Prop :=
  ∀ (n : Fin 4) (l : ClockLine) (due : Nat) (s : State), s.scd[n.val]? = some l → l.drive = .gap due →
    ∃ t, exec (.gapEnd n) s = .next t ∧ t.base = s.base ∧ t.pending = s.pending ∧
      t.work = { s.work with hlu := s.work.hlu.pump } ∧
      t.scd = s.scd.set n (
        if l.pending = true ∧ (l.state = .running ∨ l.state = .catchup) then
          { l with
            pending := false, drive := .driving (s.base.elapsed + l.width), seen := false, impulseSense := l.sense }
        else { l with drive := .idle })

/-- R157, R161, R162, R163: what a second event does to each clock line: nothing unless it is a boundary of the line's
kind; then a RUNNING line drives an impulse, and a HOLDING line that the target has reached becomes RUNNING. R166: each change of
state is reported, with the cause BOUNDARY, in ascending line number. -/
def Obligations.BoundariesMoveTheLines : Prop :=
  ∀ s : State, s.base.tbs.state ≠ .unset →
    ∃ t, exec .secondEvent s = .next t ∧ t.scd.length = s.scd.length ∧
      s.raisedOf .clockLine (stateChanges t.base.tbs .boundary s.scd t.scd) t ∧
      ∀ (n : Nat) (l : ClockLine), s.scd[n]? = some l → ∃ l', t.scd[n]? = some l' ∧
        let clock := t.base.tbs.clockSeconds
        let boundary := match l.kind with | .minute => clock % 60 = 0 | .halfMinute => clock % 30 = 0
        (¬ boundary → l' = l) ∧
          (boundary → l.state = .running → l.drive = .idle → l' = { l with
            pending := false, drive := .driving (t.base.elapsed + l.width), seen := false, impulseSense := l.sense }) ∧
          (boundary → l.state = .running → l.drive ≠ .idle → l' = { l with pending := true }) ∧
          (boundary → l.state = .holding →
            l' = if stepsBehind l.kind clock l.indicated = 0 then { l with state := .running } else l) ∧
          (l.state ≠ .running → l.state ≠ .holding → l' = l)

/-- R153, R160: every step of the part keeps each clock line in its ranges, faults it at the third miss, and lets only a
RUNNING or CATCHUP line drive an impulse. Choices of the model in it: log 2. -/
def Obligations.ClockLinesKeepTheirRanges : Prop :=
  ∀ s t : State, (∀ l ∈ s.scd, l.Inv) → step s = .next t → ∀ l ∈ t.scd, l.Inv

/-! ### Field inputs (chapter 10) -/

/-- R168, R169, R173, R148: an accepted CONFIGURE LINE stores the section, re-initialises the filter if need be, tells the
consumers, and recomputes the key condition and the override, with what an entry or an exit brings, its cause KEYS.
Choices of the model in it: log 3, 15, 37. -/
def Obligations.ConfigureLineStoresTheSection : Prop :=
  ∀ (h : ReqHead) (n : Nat) (r : LineReq) (l : FieldLine) (s : State), s.ready → h.misfit = none →
    lineRefusal s n r = none → s.base.fiu.lines[n]? = some l →
    let role := argOr .unused r.role
    let active := argOr .high r.active
    let filter := argOr none r.filter
    let again := role ≠ l.role ∨ active ≠ l.active ∨ filter ≠ l.filter
    let stored : FieldLine :=
      { l with
        role := role, active := active, filter := filter, reports := argOr false r.reports, lockout := r.lockout.getD 10
        filtered := if again then l.raw else l.filtered
        disagree := if again then 0 else l.disagree
        lockoutEnd := if role ≠ l.role then none else l.lockoutEnd }
    let level := fun (x : Role) (held : Bool) =>
      if role = x then decide (stored.filtered = active) else if l.role = x then false else held
    let pa := level .paOverride s.work.cuc.paOverride
    let other := fun x : Role => x ≠ .playBusy ∧ x ≠ .paOverride
    ∃ t, exec (.configureLine h n r) s = .next t ∧ t.replyTo s.work.hlu.arrivals = some Reply.ok ∧
      t.pending = s.pending ∧ t.base = { s.base with fiu := t.base.fiu } ∧
      t.base.fiu.lines = s.base.fiu.lines.set n stored ∧ t.base.fiu.forced = s.base.fiu.forced ∧
      (t.base.fiu.keys = true ↔ keysTurned t.base.fiu.lines) ∧
      t.base.fiu.override = (t.base.fiu.keys || t.base.fiu.forced) ∧
      s.overrideFollows .keys (s.work.cuc.maySelect = false ∧ other l.role ∧ other role) t ∧
      t.work.settled =
        { s.work.settled with cuc :=
          { s.work.settled.cuc with
            busy := level .playBusy s.work.cuc.busy
            paOverride := pa
            resume := if pa = s.work.cuc.paOverride then s.work.cuc.resume
              else if pa = true then 0 else s.work.cuc.cfg.resumeDelay } } ∧
      ∀ k : Nat, t.scd[k]? = (s.scd[k]?).map fun c =>
        let sense := if role = .sense k then some n else if l.role = .sense k then none else c.sense
        { c with sense := sense, impulseSense := if sense = c.sense then c.impulseSense else none }

/-- R171: an edge marks the line, is reported where reports are on, and is delivered by the line's role; an edge of an UNUSED
line and a deactivating edge of a DISPATCH, SYNC or SENSE line are delivered to no block, and leave every block as it was;
R173, R148: an edge of an OVERRIDE_KEY line brings override entry or exit, its cause KEYS. (What an activating edge of SYNC
and of DISPATCH does, and PLAY_BUSY and PA_OVERRIDE do to the link, stands in statements of their own.)
Choices of the model in it: log 11, 15, 37. -/
def Obligations.EdgesAreMarkedReportedDelivered : Prop :=
  ∀ (n : Fin 16) (v : Level) (l : FieldLine) (s : State), s.base.fiu.lines[n.val]? = some l → l.filtered ≠ v →
    ∃ t lockout, exec (.edge n v) s = .next t ∧ t.pending = s.pending ∧ t.base.elapsed = s.base.elapsed ∧
      t.base.txs = s.base.txs ∧ t.base.fiu.forced = s.base.fiu.forced ∧
      t.base.fiu.lines = s.base.fiu.lines.set n
        { l with raw := v, filtered := v, disagree := 0, mark := true, lockoutEnd := lockout } ∧
      ((∀ p, l.role ≠ .dispatch p) → lockout = l.lockoutEnd) ∧
      (l.role ≠ .sync → t.base.tbs = s.base.tbs) ∧
      (if l.role = .overrideKey then
        (t.base.fiu.keys = true ↔ keysTurned t.base.fiu.lines) ∧
          t.base.fiu.override = (t.base.fiu.keys || t.base.fiu.forced)
      else t.base.fiu.keys = s.base.fiu.keys ∧ t.base.fiu.override = s.base.fiu.override) ∧
      (t.work.cuc.busy = if l.role = .playBusy then decide (l.active = v) else s.work.cuc.busy) ∧
      (t.work.cuc.paOverride = if l.role = .paOverride then decide (l.active = v) else s.work.cuc.paOverride) ∧
      (l.role ≠ .playBusy → l.role ≠ .paOverride → t.work.loaded = s.work.loaded) ∧
      (l.role = .unused ∨ (l.active ≠ v ∧ (l.role = .sync ∨ (∃ p, l.role = .dispatch p) ∨ ∃ k, l.role = .sense k)) →
        t.base.tbs = s.base.tbs ∧ t.scd = s.scd ∧ lockout = l.lockoutEnd ∧
          t.work = { s.work with hlu := t.work.hlu } ∧
          t.work.settled = s.work.settled) ∧
      (l.role ≠ .sync → (∀ p, l.role ≠ .dispatch p) → t.work.settled =
        { s.work.settled with cuc :=
          { s.work.settled.cuc with
            busy := if l.role = .playBusy then decide (l.active = v) else s.work.cuc.busy
            paOverride := if l.role = .paOverride then decide (l.active = v) else s.work.cuc.paOverride
            resume := if l.role = .paOverride ∧ s.work.cuc.paOverride ≠ decide (l.active = v) then
                (if l.active = v then 0 else s.work.cuc.cfg.resumeDelay)
              else s.work.cuc.resume } }) ∧
      (l.role = .overrideKey → s.overrideFollows .keys (s.work.cuc.maySelect = false) t) ∧
      (l.role ≠ .sync → ∀ k : Nat, t.scd[k]? = (s.scd[k]?).map fun c =>
        if l.role = .sense k ∧ l.active = v ∧ c.isDriving = true then { c with seen := true } else c) ∧
      (l.reports = true → s.work.hlu.mask.contains .inputEdge = true → s.work.hlu.reports.length < 24 →
        ∃ rep ∈ t.work.hlu.reports, rep.body = .inputEdge n l.role (decide (l.active = v))
          (if s.base.tbs.state = .unset then none
            else some (s.base.tbs.t, 1000 * s.base.tbs.secPos / s.base.tbs.secLen)))

/-- R170: a sample of a filtered line: it agrees, or it is counted, or as the third to disagree it is an edge; R172: the
end of a lockout. Choices of the model in it: log 11, 15, 22 (a FILTER_SAMPLE is a sample at any elapsed count). -/
def Obligations.SamplesAndLockouts : Prop :=
  ∀ (n : Fin 16) (v : Level) (l : FieldLine) (s : State), s.base.fiu.lines[n.val]? = some l →
    (l.filter ≠ none → l.filtered = v ∨ l.disagree + 1 < 3 →
      ∃ t, exec (.filterSample n v) s = .next t ∧ t.scd = s.scd ∧ t.pending = s.pending ∧
        t.work = { s.work with hlu := s.work.hlu.pump } ∧
        t.base = { s.base with fiu := { s.base.fiu with
          lines := s.base.fiu.lines.set n
            ({ l with raw := v, disagree := if l.filtered = v then 0 else l.disagree + 1 } : FieldLine) } }) ∧
    (l.filter ≠ none → l.filtered ≠ v → 3 ≤ l.disagree + 1 →
      exec (.filterSample n v) s = exec (.edge n v) s ∧ ∃ t, exec (.filterSample n v) s = .next t) ∧
    ∃ t, exec (.lockoutEnd n) s = .next t ∧ t.scd = s.scd ∧ t.pending = s.pending ∧
      t.work = { s.work with hlu := s.work.hlu.pump } ∧
      t.base = { s.base with fiu := { s.base.fiu with lines := s.base.fiu.lines.set n { l with lockoutEnd := none } } }

/-- R174, R173, R148: OVERRIDE SET sets or clears the forced flag, the override follows, and the reply tells all three; an entry
is reported and leaves no waiting cue but the override's; an exit is reported and leaves none of the override's; each with
its cause FORCED. Choices of the model in it: log 3, 37. -/
def Obligations.OverrideSetForcesTheOverride : Prop :=
  ∀ (h : ReqHead) (on : Bool) (s : State), s.ready → h.misfit = none →
    ∃ t, exec (.overrideSet h (some on)) s = .next t ∧ t.scd = s.scd ∧ t.pending = s.pending ∧
      t.work.settled = s.work.settled ∧
      t.base = { s.base with fiu := t.base.fiu } ∧ t.base.fiu.lines = s.base.fiu.lines ∧ t.base.fiu.forced = on ∧
      (t.base.fiu.keys = true ↔ keysTurned s.base.fiu.lines) ∧ t.base.fiu.override = (t.base.fiu.keys || on) ∧
      t.replyTo s.work.hlu.arrivals = some ⟨.ok, [], .override on t.base.fiu.keys (t.base.fiu.keys || on)⟩ ∧
      s.overrideFollows .forced (s.work.cuc.maySelect = false) t ∧
      (s.base.fiu.override = false → t.base.fiu.override = true →
        (∀ e ∈ t.work.cuc.queue, e.state = .queued ∨ e.state = .held → e.source = .override) ∧
          (s.work.hlu.degraded = false → s.work.hlu.mask.contains .override = true →
            s.work.hlu.reports.length < 24 →
            ∃ rep ∈ t.work.hlu.reports, rep.body = .overrideEntered .forced t.base.fiu.keys on))

/-- R173, R175: every step keeps the key condition as the key lines stand, and override active exactly while the key
condition holds or the forced flag is set. Choices of the model in it: log 2. -/
def Obligations.OverrideFollowsKeysAndForcing : Prop :=
  ∀ s t : State, s.base.fiu.Inv → step s = .next t → t.base.fiu.Inv

/-! ### Host link (chapter 11) -/

/-- R178, R179, R186: bytes received in HUNT that make a whole frame: a frame with its check is queued, refused BUSY or
lost to overrun and resets the feed; one with another check, or with a length out of range, is discarded and counted.
R180: a queued frame is served in its turn: one that spells a request as that request, one whose kind names no request is
answered BAD_KIND, and one whose payload does not fit its layout BAD_LENGTH; the requests whose turn has come are served one
after another, oldest first. Choices of the model in it: log 3, 4, 24, 30, 40. -/
def Obligations.HostFramesAreTaken : Prop :=
  (∀ (kind tag : Byte) (payload : List Byte) (s : State), s.work.hlu.rx = .hunt → payload.length ≤ 1024 →
    let size := payload.length + 2
    let covered : List Byte := BitVec.ofNat 8 (size / 256) :: BitVec.ofNat 8 (size % 256) :: kind :: tag :: payload
    let check := crc16 covered
    let bytes := 0xA5 :: covered ++ [check.extractLsb' 8 8, check.extractLsb' 0 8]
    let frame := frameOf kind payload
    (∃ u : State, exec (.hostFrame bytes) s = .next u.serveWaiting.finish ∧
      u.base = s.base ∧ u.scd = s.scd ∧ u.pending = s.pending ∧ u.work.settled = s.work.settled ∧
      u.work.hlu.rx = .hunt ∧ u.work.hlu.feedCount = 0 ∧ u.work.hlu.degraded = false ∧
      (if s.work.hlu.inbound.length < 4 then
        u.work.hlu.inbound = s.work.hlu.inbound ++ [⟨s.work.hlu.arrivals, tag, frame, .waiting, false⟩] ∧
          u.work.hlu.busy = s.work.hlu.busy ∧ u.work.hlu.overruns = s.work.hlu.overruns ∧
          u.work.hlu.busyReplies = s.work.hlu.busyReplies
      else
        u.work.hlu.inbound = s.work.hlu.inbound ∧
          if s.work.hlu.busy.length < 4 then
            u.work.hlu.busy = s.work.hlu.busy ++ [⟨s.work.hlu.arrivals, tag, frame⟩] ∧
              u.work.hlu.busyReplies = s.work.hlu.busyReplies + 1 ∧ u.work.hlu.overruns = s.work.hlu.overruns
          else
            u.work.hlu.busy = s.work.hlu.busy ∧ u.work.hlu.busyReplies = s.work.hlu.busyReplies ∧
              u.work.hlu.overruns = s.work.hlu.overruns + 1)) ∧
    (∀ c r, frame = .request r → requestOf c = some (⟨tag, none⟩, r) → exec (.hostFrame bytes) s = exec c s) ∧
    (s.ready → ∀ k, frame = .unknown k → ∃ t, exec (.hostFrame bytes) s = .next t ∧
      t.replyTo s.work.hlu.arrivals = some ⟨.badKind, [], .nothing⟩) ∧
    (s.ready → ∀ name n, frame = .misfit name n → ∃ t, exec (.hostFrame bytes) s = .next t ∧
      t.replyTo s.work.hlu.arrivals = some ⟨.badLength, [], .length n⟩) ∧
    ((kind.msb = true ∨ Config.kindName kind = none) → frame = .unknown kind) ∧
    (∀ x y : Byte, 256 * x.toNat + y.toNat ≠ check.toNat →
      exec (.hostFrame (0xA5 :: covered ++ [x, y])) s = .next (State.finish (State.serveWaiting { s with work :=
        { s.work with hlu := { s.work.hlu with badChecks := s.work.hlu.badChecks + 1 } } }))) ∧
    ∀ x y : Byte, 256 * x.toNat + y.toNat < 2 ∨ 1026 < 256 * x.toNat + y.toNat →
      exec (.hostFrame [0xA5, x, y]) s = .next (State.finish (State.serveWaiting { s with work :=
        { s.work with hlu := { s.work.hlu with badLengths := s.work.hlu.badLengths + 1 } } }))) ∧
  ∀ u : State, (u.caughtUp → u.serveWaiting = u) ∧
    ∀ e, nextToServe u.work.hlu.inbound = some e → u.serveWaiting = (u.serve e).serveWaiting

/-- R178: a frame that has run out of time is discarded and counted; R186: the feed count reaches the feed timeout.
Choices of the model in it: log 15. -/
def Obligations.LinkTimeLimits : Prop :=
  ∀ s : State,
    (s.work.hlu.rx ≠ .hunt →
      ∃ t, exec .frameTimeout s = .next t ∧ t.base = s.base ∧ t.scd = s.scd ∧ t.pending = s.pending ∧
        t.work = { s.work with hlu :=
          ({ s.work.hlu with rx := .hunt, frameTimeouts := s.work.hlu.frameTimeouts + 1 } : Hlu).pump }) ∧
    (s.work.hlu.feedTimeout ≠ 0 → s.work.hlu.degraded = false →
      ∃ t, exec .feedLost s = .next t ∧ t.base = s.base ∧ t.scd = s.scd ∧ t.pending = s.pending ∧
        t.work.settled = s.work.settled ∧ t.work.hlu.degraded = true ∧
        t.work.hlu.feedCount = s.work.hlu.feedTimeout ∧
        t.work.hlu.inbound = s.work.hlu.inbound ∧
        (s.work.hlu.mask.contains .feed = true → s.work.hlu.reports.length < 24 →
          ∃ rep ∈ t.work.hlu.reports, rep.body = .feedLost s.work.hlu.feedTimeout))

/-- R181, R182: the last byte of a frame has gone out: its place is freed, and the transmitter takes the waiting reply whose
frame arrived first, or with no reply waiting the oldest report. Choices of the model in it: log 30. -/
def Obligations.SentFramesFreeTheirPlaces : Prop :=
  ∀ (x : Sending) (s : State), s.work.hlu.tx = some x → s.caughtUp →
    (∀ e ∈ s.work.hlu.inbound, x = .reply e.arrival → e.reply ≠ none ∧ e.restart = false) →
    ∃ t, exec .hostFrameSent s = .next t ∧ t.base = s.base ∧ t.scd = s.scd ∧ t.pending = s.pending ∧
      t.work =
        { s.work with hlu :=
          { s.work.hlu with
            inbound := match x with
              | .reply a => s.work.hlu.inbound.filter fun e => e.arrival != a
              | _ => s.work.hlu.inbound
            tx := t.work.hlu.tx
            busy := match x with
              | .busy a => s.work.hlu.busy.filter fun e => e.arrival != a
              | _ => s.work.hlu.busy
            reports := match x with | .report => s.work.hlu.reports.tail | _ => s.work.hlu.reports } } ∧
      t.work.hlu.tx = (match t.work.hlu.inbound.find? (fun e => e.reply.isSome), t.work.hlu.busy.head? with
        | some e, some p => if e.arrival < p.arrival then some (.reply e.arrival) else some (.busy p.arrival)
        | some e, none => some (.reply e.arrival)
        | none, some p => some (.busy p.arrival)
        | none, none => if t.work.hlu.reports = [] then none else some .report)

/-- R184, R38, R90: the requests that only read are answered OK with what they read: IDENTIFY with the identity and the
capacities, SERVICE GET with the record, SERVICE LIST with the keys in order, BOARD GET with the board and its rows.
Choices of the model in it: log 3, 31. -/
def Obligations.ReadingRequestsAnswer : Prop :=
  ∀ (h : ReqHead) (s : State), s.ready → h.misfit = none →
    (∃ t, exec (.identify h) s = .next t ∧ s.onlyRead h .identify t ∧
      t.replyTo s.work.hlu.arrivals = some ⟨.ok, [], .identity familyName partName Config.siliconRevision Config.hostRate
        ⟨192, 20, 1024, 32, 16, 24, 4, 63, 48, 64, 4, 24, 64, 12, 32, 48, 4, 16, 4, 24, 1024⟩⟩) ∧
    (∀ (key : Key) (y : Service), keyForm key = true → s.work.svt.find key = some y →
      let time := readTime s.base.tbs.c0
      ∃ t x, exec (.serviceGet h key) s = .next t ∧ s.onlyRead h (.serviceGet key) t ∧ t.work.svt.find key = some x ∧ x.core = y.core ∧
        t.replyTo s.work.hlu.arrivals = some ⟨.ok, [], .service
          { key := x.key, seq := x.seq, cls := x.cls, destination := x.destination, via := x.via
            scheduled := time x.scheduled, expected := x.expected.map time, status := x.status
            current := x.current, previous := x.previous, staged := x.staged.map fun p => (p.1, time p.2)
            changeTime := x.changeTime.map time, calling := x.calling, coaches := x.coaches
            actual := x.actual.map time, lastUpdate := time x.lastUpdate, stale := x.stale
            unsettled := x.unsettled, timer := x.timer, k := x.k, held := x.held, conf := x.conf }⟩) ∧
    (∀ start : Nat, start ≤ 191 →
      ∃ t, exec (.serviceList h .table start) s = .next t ∧ s.onlyRead h (.serviceList .table start) t ∧
        t.replyTo s.work.hlu.arrivals = some ⟨.ok, [], .keys t.work.svt.services.length start
          (((t.work.svt.ordered.map Service.key).drop start).take 32)⟩) ∧
    (∀ (start n : Nat) (y : Board), start ≤ 191 → n < 16 → s.work.board n = some y →
      ∃ t ks, exec (.serviceList h (.board n) start) s = .next t ∧ s.onlyRead h (.serviceList (.board n) start) t ∧
        t.replyTo s.work.hlu.arrivals = some ⟨.ok, [], .keys ks.length start ((ks.drop start).take 32)⟩ ∧
        ks = ((List.range y.record.rows).map fun i =>
          (t.work.cell y.record.string (y.record.first + (i + 1) - 1)).onWall).filterMap fun c =>
            match c with | some (.service row) => some row.key | _ => none) ∧
    ∀ (n : Nat) (y : Board), n < 16 → s.work.board n = some y →
      ∃ t bd v, exec (.boardGet h n) s = .next t ∧ s.onlyRead h (.boardGet n) t ∧ t.work.board n = some bd ∧ bd.record = y.record ∧
        t.replyTo s.work.hlu.arrivals = some ⟨.ok, [], .board v⟩ ∧ v.record = y.record ∧
        (v.online = true ↔ y.record.enabled = true ∧ (s.work.string y.record.string).enabled = true) ∧
        v.presentation = (if s.base.fiu.override = true then .override
          else if s.base.tbs.state = .unset then .startUp else .normal) ∧
        v.banner = bd.banner ∧ v.eligible = bd.eligible.length ∧ v.page = bd.page ∧ v.pageCount = bd.pageCount ∧
        v.rows = (List.range y.record.rows).map fun i =>
          let c := t.work.cell y.record.string (y.record.first + (i + 1) - 1)
          { onWall := c.onWall, outstanding := c.outstanding.length, dirty := c.dirty, released := c.released
            heldBack := c.heldBack }

/-- R185, R176, R102: a STATUS is answered OK in every state; the reply carries each block's section as it stood, and
answering it clears the reports lost flag, the edge marks, and the peaks. Choices of the model in it: log 3, 15, 51 (the priority
and the holder count of a TERM). -/
def Obligations.StatusAnswersAndClears : Prop :=
  ∀ (h : ReqHead) (s : State), s.ready → h.misfit = none →
    ∃ t v, exec (.status h) s = .next t ∧ t.replyTo s.work.hlu.arrivals = some ⟨.ok, [], .status v⟩ ∧
      t.scd = s.scd ∧ t.pending = s.pending ∧
      t.base = { s.base with fiu :=
        { s.base.fiu with lines := s.base.fiu.lines.map fun l => { l with mark := false } } } ∧
      (∃ x : Inbound, t.work.hlu.inbound = s.work.hlu.inbound ++ [x] ∧
        x.place = (s.work.hlu.arrivals, h.tag, ReqHead.frame h .status)) ∧
      t.work.hlu.tx = s.work.hlu.tx.or t.work.hlu.nextSending ∧
      t.work.hlu.lost = false ∧ (∀ u ∈ t.work.wsc, u.peak = u.queue.length) ∧
      (s.work.hlu.degraded = false →
        t.work =
          { s.work with
            wsc := s.work.wsc.map fun u => { u with peak := u.queue.length }
            hlu :=
              { s.work.hlu with
                arrivals := s.work.hlu.arrivals + 1, feedCount := 0, lost := false
                inbound := t.work.hlu.inbound, tx := t.work.hlu.tx } } ∧
        v =
          { timebase := s.base.tbs.state, validCount := s.work.svt.services.length
            tableEmpty := decide (s.work.svt.services = []), override := s.base.fiu.override, degraded := false
            feedTimeout := s.work.hlu.feedTimeout, feedCount := 0, mask := s.work.hlu.mask
            reportNumber := s.work.hlu.number, reportsLost := s.work.hlu.lost
            inbound := s.work.hlu.inbound.length + 1, busy := s.work.hlu.busy.length
            badChecks := s.work.hlu.badChecks, badLengths := s.work.hlu.badLengths
            frameTimeouts := s.work.hlu.frameTimeouts, busyReplies := s.work.hlu.busyReplies
            overruns := s.work.hlu.overruns
            strings := s.work.wsc.map WallString.view
            rules := (List.range 64).map fun i => (s.work.nre.rule i).map fun r =>
              ⟨r.kind, r.enabled, r.priority, s.work.svt.services.countP fun x => x.held.contains i⟩
            slots := s.work.nre.slots.map (Option.map fun x => ⟨x.head, x.key, x.mode⟩)
            link := s.work.cuc.link, disablePending := s.work.cuc.disablePending, resume := s.work.cuc.resume
            playBusy := s.work.cuc.busy, paOverride := s.work.cuc.paOverride
            cues := s.work.cuc.queue.map fun e =>
              ⟨e.number, e.key, e.source, e.priority, e.state, e.seq, e.latest⟩
            clocks := s.scd.map (ClockLine.view s.base.tbs)
            lines := s.base.fiu.lines.map fun l =>
              { role := l.role, activeLevel := l.active, filter := l.filter, reports := l.reports
                lockout := l.lockout, raw := l.raw, filtered := l.filtered, active := l.filtered == l.active
                remaining := l.lockoutEnd.map fun e => e - s.base.elapsed, mark := l.mark }
            forced := s.base.fiu.forced, keys := s.base.fiu.keys, overrideActive := s.base.fiu.override })

/-- R183: a REPORT MASK of known classes becomes the mask and is the reply; the queued reports stay. R182: what a raise does: a
masked report leaves everything as it was; otherwise the report number advances by one, wrapping from 65535 to 0, and the
report joins the queue with that number behind the others, or, where 24 are queued, is discarded and reports lost is set.
Choices of the model in it: log 3. -/
def Obligations.ReportMaskBecomesTheSet : Prop :=
  (∀ (h : ReqHead) (cs : List (Option ReportClass)) (s : State), s.ready → h.misfit = none → none ∉ cs →
    ∃ t, exec (.reportMask h cs) s = .next t ∧ t.base = s.base ∧ t.scd = s.scd ∧ t.pending = s.pending ∧
      (∀ c, c ∈ t.work.hlu.mask ↔ some c ∈ cs) ∧
      t.replyTo s.work.hlu.arrivals = some ⟨.ok, [], .mask t.work.hlu.mask⟩ ∧
      t.work.settled = { s.work.settled with hlu := { s.work.settled.hlu with mask := t.work.hlu.mask } } ∧
      (s.work.hlu.degraded = false → t.work.hlu.reports = s.work.hlu.reports)) ∧
  ∀ (r : ReportBody) (u : Hlu),
    if r.cls ∉ u.mask then u.raise r = u
    else ∃ number : BitVec 16, number.toNat = (if u.number.toNat = 65535 then 0 else u.number.toNat + 1) ∧
      u.raise r =
        if u.reports.length < 24 then { u with number := number, reports := u.reports ++ [⟨number, r.cls, r⟩] }
        else { u with number := number, lost := true }

/-- R180, R2, R18, R40, R63, R186: an accepted CONFIGURE GENERAL stores the fields it carries and keeps the others; a new
sync period empties the rejection history and in LOCKED restarts the supervision. Choices of the model in it: log 3. -/
def Obligations.ConfigureGeneralStoresTheFields : Prop :=
  ∀ (h : ReqHead) (r : GeneralReq) (s : State), s.ready → h.misfit = none → generalRefusal s r = none →
    let tb := s.base.tbs
    let period := argOr tb.period r.period
    ∃ t, exec (.configureGeneral h r) s = .next t ∧ t.replyTo s.work.hlu.arrivals = some Reply.ok ∧
      t.scd = s.scd ∧ t.pending = s.pending ∧
      t.base =
        { s.base with tbs :=
          { tb with
            c0 := r.c0.getD tb.c0
            period := period
            rejected := if period = tb.period then tb.rejected else []
            superviseFrom := if period ≠ tb.period ∧ tb.state = .locked then some s.base.elapsed else tb.superviseFrom } } ∧
      t.work.settled =
        { s.work.settled with
          svt :=
            { s.work.settled.svt with
              overdue := r.overdue.getD s.work.svt.overdue, retain := r.retain.getD s.work.svt.retain
              abandon := r.abandon.getD s.work.svt.abandon, window := r.window.getD s.work.svt.window
              departing := r.departing.getD s.work.svt.departing }
          bcp :=
            { s.work.settled.bcp with
              tolerance := r.tolerance.getD s.work.bcp.tolerance, flashTime := r.flashTime.getD s.work.bcp.flashTime
              startText := r.startText.getD s.work.bcp.startText
              degradedText := r.degradedText.getD s.work.bcp.degradedText
              overrideText := r.overrideText.getD s.work.bcp.overrideText }
          hlu := { s.work.settled.hlu with feedTimeout := r.feedTimeout.getD s.work.hlu.feedTimeout } }

/-- R187: a RESTART is answered OK and changes nothing yet; when the last byte of its reply has gone out it takes effect in
every block: the records, watches and waiting cues go, the strings drain, the forcing and DEGRADED are cleared, and all
that is configured, the timebase, the texts and the clock lines stay; its place is freed, and then the requests behind it are
served. R151: the entry on the link is marked unobserved in SENDING, and the frame goes on; in AWAIT_ACCEPT and PLAYING it is
freed with CUE_DONE UNOBSERVED, and the link is BLOCKED or IDLE by the PLAY_BUSY level. Choices of the model in it: log 3, 10. -/
def Obligations.RestartTakesEffectAfterItsReply : Prop :=
  (∀ (h : ReqHead) (s : State), s.ready → h.misfit = none →
    ∃ t, exec (.restart h) s = .next t ∧ s.onlyRead h .restart t ∧ t.replyTo s.work.hlu.arrivals = some Reply.ok ∧
      ∃ e ∈ t.work.hlu.inbound, e.arrival = s.work.hlu.arrivals ∧ e.restart = true) ∧
  ∀ (a : Nat) (s : State), s.work.hlu.tx = some (.reply a) →
    (∃ e ∈ s.work.hlu.inbound, e.arrival = a ∧ e.restart = true) → s.work.wsc.length = 4 →
    let draining := fun w : WallString => w.drain || w.inFlight.isSome
    ∃ u : State, exec .hostFrameSent s = .next u.serveWaiting.finish ∧ u.scd = s.scd ∧ u.pending = s.pending ∧
      u.base = { s.base with fiu := u.base.fiu } ∧ u.base.fiu.lines = s.base.fiu.lines ∧
      u.base.fiu.forced = false ∧ (u.base.fiu.keys = true ↔ keysTurned s.base.fiu.lines) ∧
      u.base.fiu.override = u.base.fiu.keys ∧
      u.work.svt.services = [] ∧ (∀ x ∈ u.work.nre.slots, x = none) ∧
      (∀ e ∈ u.work.cuc.queue, e.state ≠ .queued ∧ e.state ≠ .held) ∧
      (let c := s.work.cuc
       let kept := c.queue.filter fun q => q.state != .queued && q.state != .held
       match c.link with
       | .sending due => u.work.cuc.link = .sending due ∧ u.work.cuc.frame = c.frame ∧
           u.work.cuc.queue = kept.map fun q => if q.state = .sending then { q with unobserved := true } else q
       | .awaitAccept _ | .playing _ => (u.work.cuc.link = if c.busy then .blocked else .idle) ∧ u.work.cuc.frame = none ∧
           ∀ e, c.onLink = some e → (u.work.cuc.queue = kept.filter fun q => q.seq != e.seq) ∧
             u.raised (.cueDone e.number e.key e.source e.seq .unobserved e.resolved)
       | .disabled | .idle | .blocked => u.work.cuc.link = c.link ∧ u.work.cuc.queue = kept) ∧
      (∀ w ∈ u.work.wsc, w.drain = true → w.queue = []) ∧
      u.work.hlu.feedCount = 0 ∧ u.work.hlu.degraded = false ∧
      u.work.hlu.inbound = (s.work.hlu.inbound.filter fun e => e.arrival != a) ∧ u.work.hlu.tx = none ∧
      u.work.settled =
        { s.work.settled with
          svt := { s.work.settled.svt with services := [] }
          wsc := s.work.wsc.map fun w => { w.kept with drain := draining w }
          bcp := { s.work.settled.bcp with recompose := s.work.wsc.any draining } }

/-! ### The part as a whole -/

/-- A step takes the command at the front of the queue and runs it with the rest of the queue. On an empty queue a
millisecond of the oscillator passes: that is the model's choice (log 2). -/
def Obligations.StepTakesTheFrontCommand : Prop :=
  (∀ (c : Instr) (cs : List Instr) (s : State), s.pending = c :: cs → step s = exec c { s with pending := cs }) ∧
  ∀ s : State, s.pending = [] → ∃ t, step s = .next t ∧ t.pending = [] ∧ t.base.elapsed = s.base.elapsed + 1

/-- R1, R19, R40, R53, R63, R65, R92, R107, R132, R133, R153, R167, R177: at power-on every block is at its power-on values; the
commands that wait and the levels at the inputs stay (log 11), and a cell has the desired content BLANK (log 43). -/
def Obligations.PowerOnSetsTheInitialValues : Prop :=
  ∀ s : State, ∃ t, exec .powerOn s = .next t ∧ t.pending = s.pending ∧
    t.base.elapsed = 0 ∧
    t.base.tbs = { state := .unset, t := 0, secPos := 0, secLen := 1000, tHigh := 0, slew := 0, rejected := []
                   lastPulse := none, superviseFrom := none, c0 := 150, period := .minute } ∧
    t.base.txs = List.replicate 1024 ⟨[], none⟩ ∧
    t.base.fiu = { lines := s.base.fiu.lines.map fun l =>
                     { role := .unused, active := .high, filter := none, reports := false, lockout := 10
                       raw := l.raw, filtered := l.raw, disagree := 0, lockoutEnd := none, mark := false }
                   forced := false, keys := false, override := false } ∧
    t.work.svt = { services := [], counter := 0, overdue := 30, retain := 10, abandon := 360, window := 300
                   departing := 60 } ∧
    t.work.bcp = { boards := List.replicate 16 none
                   cells := List.replicate 4 (List.replicate 63
                     { desired := .blank, outstanding := [], onWall := none, released := false, heldBack := false })
                   flashTime := 30, startText := 0, degradedText := 1, overrideText := 2, tolerance := 1
                   recompose := false } ∧
    t.work.wsc = List.replicate 4
      { enabled := false, rate := .r125, opRate := .r125, activity := .idle, inFlight := none, queue := [], seq := 0
        drain := false, health := List.replicate 63 .unknown, sent := 0, repliesOk := 0, repliesFault := 0
        timeouts := 0, stray := 0, coalesced := 0, refused := 0, peak := 0 } ∧
    t.work.nre = { rules := List.replicate 64 none, slots := List.replicate 24 none, ruleTime := 0 } ∧
    t.work.cuc = { templates := List.replicate 64 none
                   cfg := { enabled := false, rate := .r200, width := .wide, numberBase := 0, hourBase := 0
                            minuteBase := 0, suffixA := 0, suffixB := 0, truncation := 0
                            zones := List.replicate 40 [], overrideTemplate := none, resumeDelay := 3 }
                   queue := [], counter := 0, link := .disabled, frame := none, disablePending := false
                   opRate := .r200, opWidth := .wide, busy := false, paOverride := false, resume := 0 } ∧
    t.scd = List.replicate 4
      { state := .unconfigured, kind := .minute, indicated := 0, polarity := .positive, width := 300, gap := 700
        hold := 60, sense := none, miss := 0, drive := .idle, pending := false, seen := false, impulseSense := none
        decide := false, waiting := none } ∧
    t.work.hlu = { rx := .hunt, inbound := [], busy := [], reports := [], mask := allClasses, number := 0, lost := false
                   feedTimeout := 60, feedCount := 0, degraded := false, badChecks := 0, badLengths := 0
                   frameTimeouts := 0, busyReplies := 0, overruns := 0, tx := none, arrivals := 0 }

/-- Every invariant of the part holds right after power-on. -/
def Obligations.InvariantsHoldAtReset : Prop :=
  let s := State.reset
  s.base.tbs.Inv ∧ textsInv s.base.txs ∧ s.base.fiu.Inv ∧ s.work.watchInv ∧ s.work.bounds ∧ (∀ l ∈ s.scd, l.Inv) ∧
    s.caughtUp ∧ s.pending = []

/-- R94, R97, R133, R177, R179, R182: every step keeps the queues in their bounds, one frame for each address in a string's
queue, the line IDLE when no frame is in flight and only then, and the cue queue in its order; R180: no step leaves a request
waiting whose turn has come. Choices of the model in it: log 2, 30. -/
def Obligations.QueuesKeepTheirBounds : Prop :=
  ∀ s t : State, step s = .next t → (s.work.bounds → t.work.bounds) ∧ (s.caughtUp → t.caughtUp)
end

