-- ==== Sys2Proof/Laws/State.lean ====
section
/-!
SUPPORT. One lemma for each field of each update: what the update does to the field. All hold by unfolding.
-/

namespace Sys2Proof.Machine

/-! ### The state -/

@[simp] theorem State.mapWork_base (f : Work → Work) (s : State) : (s.mapWork f).base = s.base := rfl
@[simp] theorem State.mapWork_work (f : Work → Work) (s : State) : (s.mapWork f).work = f s.work := rfl
@[simp] theorem State.mapWork_scd (f : Work → Work) (s : State) : (s.mapWork f).scd = s.scd := rfl
@[simp] theorem State.mapWork_pending (f : Work → Work) (s : State) : (s.mapWork f).pending = s.pending := rfl
@[simp] theorem State.mapTbs_base (f : Timebase → Timebase) (s : State) : (s.mapTbs f).base = { s.base with tbs := f s.base.tbs } := rfl
@[simp] theorem State.mapTbs_work (f : Timebase → Timebase) (s : State) : (s.mapTbs f).work = s.work := rfl
@[simp] theorem State.mapTbs_scd (f : Timebase → Timebase) (s : State) : (s.mapTbs f).scd = s.scd := rfl
@[simp] theorem State.mapTbs_pending (f : Timebase → Timebase) (s : State) : (s.mapTbs f).pending = s.pending := rfl
@[simp] theorem State.mapFiu_base (f : Fiu → Fiu) (s : State) : (s.mapFiu f).base = { s.base with fiu := f s.base.fiu } := rfl
@[simp] theorem State.mapFiu_work (f : Fiu → Fiu) (s : State) : (s.mapFiu f).work = s.work := rfl
@[simp] theorem State.mapFiu_scd (f : Fiu → Fiu) (s : State) : (s.mapFiu f).scd = s.scd := rfl
@[simp] theorem State.mapFiu_pending (f : Fiu → Fiu) (s : State) : (s.mapFiu f).pending = s.pending := rfl
@[simp] theorem State.mapHlu_base (f : Hlu → Hlu) (s : State) : (s.mapHlu f).base = s.base := rfl
@[simp] theorem State.mapHlu_work (f : Hlu → Hlu) (s : State) : (s.mapHlu f).work = { s.work with hlu := f s.work.hlu } := rfl
@[simp] theorem State.mapHlu_scd (f : Hlu → Hlu) (s : State) : (s.mapHlu f).scd = s.scd := rfl
@[simp] theorem State.mapHlu_pending (f : Hlu → Hlu) (s : State) : (s.mapHlu f).pending = s.pending := rfl
@[simp] theorem State.finish_base (s : State) : s.finish.base = s.base := rfl
@[simp] theorem State.finish_work (s : State) : s.finish.work = { s.work with hlu := s.work.hlu.pump } := rfl
@[simp] theorem State.finish_scd (s : State) : s.finish.scd = s.scd := rfl
@[simp] theorem State.finish_pending (s : State) : s.finish.pending = s.pending := rfl
@[simp] theorem State.clockEvent_base (f : Nat → ClockLine → ClockLine × List ReportBody) (s : State) : (s.clockEvent f).base = s.base := rfl
@[simp] theorem State.clockEvent_work (f : Nat → ClockLine → ClockLine × List ReportBody) (s : State) : (s.clockEvent f).work = s.work.raiseAll (mapLinesFrom f 0 s.scd).2 := rfl
@[simp] theorem State.clockEvent_scd (f : Nat → ClockLine → ClockLine × List ReportBody) (s : State) : (s.clockEvent f).scd = (mapLinesFrom f 0 s.scd).1 := rfl
@[simp] theorem State.clockEvent_pending (f : Nat → ClockLine → ClockLine × List ReportBody) (s : State) : (s.clockEvent f).pending = s.pending := rfl
@[simp] theorem State.oneClock_base (n : Nat) (f : ClockLine → ClockLine × List ReportBody) (s : State) : (s.oneClock n f).base = s.base := rfl
@[simp] theorem State.oneClock_work (n : Nat) (f : ClockLine → ClockLine × List ReportBody) (s : State) : (s.oneClock n f).work = s.work.raiseAll (f (s.clock n)).2 := rfl
@[simp] theorem State.oneClock_scd (n : Nat) (f : ClockLine → ClockLine × List ReportBody) (s : State) : (s.oneClock n f).scd = s.scd.set n (f (s.clock n)).1 := rfl
@[simp] theorem State.oneClock_pending (n : Nat) (f : ClockLine → ClockLine × List ReportBody) (s : State) : (s.oneClock n f).pending = s.pending := rfl
@[simp] theorem State.arrives_base (h : ReqHead) (r : Request) (s : State) : (s.arrives h r).base = s.base := rfl
@[simp] theorem State.arrives_work (h : ReqHead) (r : Request) (s : State) : (s.arrives h r).work = s.work.wellFormed s.base h.tag (ReqHead.frame h r) := rfl
@[simp] theorem State.arrives_scd (h : ReqHead) (r : Request) (s : State) : (s.arrives h r).scd = s.scd := rfl
@[simp] theorem State.arrives_pending (h : ReqHead) (r : Request) (s : State) : (s.arrives h r).pending = s.pending := rfl
@[simp] theorem State.storeGeneral_base (r : GeneralReq) (s : State) : (s.storeGeneral r).base = { s.base with tbs := s.base.tbs.configure s.base.elapsed r } := rfl
@[simp] theorem State.storeGeneral_work (r : GeneralReq) (s : State) : (s.storeGeneral r).work = { s.work with svt := s.work.svt.configure r, bcp := s.work.bcp.configure r, hlu := { s.work.hlu with feedTimeout := orHeld r.feedTimeout s.work.hlu.feedTimeout } } := rfl
@[simp] theorem State.storeGeneral_scd (r : GeneralReq) (s : State) : (s.storeGeneral r).scd = s.scd := rfl
@[simp] theorem State.storeGeneral_pending (r : GeneralReq) (s : State) : (s.storeGeneral r).pending = s.pending := rfl
@[simp] theorem State.statusClears_base (s : State) : s.statusClears.base = { s.base with fiu := { s.base.fiu with lines := s.base.fiu.lines.map fun l => { l with mark := false } } } := rfl
@[simp] theorem State.statusClears_work (s : State) : s.statusClears.work = { s.work with hlu := { s.work.hlu with lost := false }, wsc := s.work.wsc.map WallString.readPeak } := rfl
@[simp] theorem State.statusClears_scd (s : State) : s.statusClears.scd = s.scd := rfl
@[simp] theorem State.statusClears_pending (s : State) : s.statusClears.pending = s.pending := rfl
@[simp] theorem State.endGap_base (n : Nat) (s : State) : (s.endGap n).base = s.base := rfl
@[simp] theorem State.endGap_work (n : Nat) (s : State) : (s.endGap n).work = s.work := rfl
@[simp] theorem State.endGap_scd (n : Nat) (s : State) : (s.endGap n).scd = s.scd.modify n (ClockLine.gapEnds s.base.elapsed) := rfl
@[simp] theorem State.endGap_pending (n : Nat) (s : State) : (s.endGap n).pending = s.pending := rfl
@[simp] theorem State.setLine_work (n : Nat) (f : FieldLine → FieldLine) (s : State) : (s.setLine n f).work = s.work := rfl
@[simp] theorem State.setLine_scd (n : Nat) (f : FieldLine → FieldLine) (s : State) : (s.setLine n f).scd = s.scd := rfl
@[simp] theorem State.setLine_pending (n : Nat) (f : FieldLine → FieldLine) (s : State) : (s.setLine n f).pending = s.pending := rfl
@[simp] theorem State.setLine_tbs (n : Nat) (f : FieldLine → FieldLine) (s : State) : (s.setLine n f).base.tbs = s.base.tbs := rfl
@[simp] theorem State.setLine_txs (n : Nat) (f : FieldLine → FieldLine) (s : State) : (s.setLine n f).base.txs = s.base.txs := rfl
@[simp] theorem State.setLine_elapsed (n : Nat) (f : FieldLine → FieldLine) (s : State) : (s.setLine n f).base.elapsed = s.base.elapsed := rfl
@[simp] theorem State.setLine_lines (n : Nat) (f : FieldLine → FieldLine) (s : State) : (s.setLine n f).base.fiu.lines = s.base.fiu.lines.modify n f := rfl
@[simp] theorem State.endLockout_work (n : Nat) (s : State) : (s.endLockout n).work = s.work := rfl

/-! ### The blocks -/

@[simp] theorem Work.updateService_svt (key : Key) (f : Service → Service) (w : Work) : (w.updateService key f).svt = w.svt.update key f := rfl
@[simp] theorem Work.updateService_bcp (key : Key) (f : Service → Service) (w : Work) : (w.updateService key f).bcp = w.bcp := rfl
@[simp] theorem Work.updateService_wsc (key : Key) (f : Service → Service) (w : Work) : (w.updateService key f).wsc = w.wsc := rfl
@[simp] theorem Work.updateService_nre (key : Key) (f : Service → Service) (w : Work) : (w.updateService key f).nre = w.nre := rfl
@[simp] theorem Work.updateService_cuc (key : Key) (f : Service → Service) (w : Work) : (w.updateService key f).cuc = w.cuc := rfl
@[simp] theorem Work.updateService_hlu (key : Key) (f : Service → Service) (w : Work) : (w.updateService key f).hlu = w.hlu := rfl
@[simp] theorem Work.setString_svt (n : Nat) (f : WallString → WallString) (w : Work) : (w.setString n f).svt = w.svt := rfl
@[simp] theorem Work.setString_bcp (n : Nat) (f : WallString → WallString) (w : Work) : (w.setString n f).bcp = w.bcp := rfl
@[simp] theorem Work.setString_wsc (n : Nat) (f : WallString → WallString) (w : Work) : (w.setString n f).wsc = w.wsc.modify n f := rfl
@[simp] theorem Work.setString_nre (n : Nat) (f : WallString → WallString) (w : Work) : (w.setString n f).nre = w.nre := rfl
@[simp] theorem Work.setString_cuc (n : Nat) (f : WallString → WallString) (w : Work) : (w.setString n f).cuc = w.cuc := rfl
@[simp] theorem Work.setString_hlu (n : Nat) (f : WallString → WallString) (w : Work) : (w.setString n f).hlu = w.hlu := rfl
@[simp] theorem Work.setBoard_svt (n : Nat) (f : Board → Board) (w : Work) : (w.setBoard n f).svt = w.svt := rfl
@[simp] theorem Work.setBoard_bcp (n : Nat) (f : Board → Board) (w : Work) : (w.setBoard n f).bcp = { w.bcp with boards := w.bcp.boards.modify n (Option.map f) } := rfl
@[simp] theorem Work.setBoard_wsc (n : Nat) (f : Board → Board) (w : Work) : (w.setBoard n f).wsc = w.wsc := rfl
@[simp] theorem Work.setBoard_nre (n : Nat) (f : Board → Board) (w : Work) : (w.setBoard n f).nre = w.nre := rfl
@[simp] theorem Work.setBoard_cuc (n : Nat) (f : Board → Board) (w : Work) : (w.setBoard n f).cuc = w.cuc := rfl
@[simp] theorem Work.setBoard_hlu (n : Nat) (f : Board → Board) (w : Work) : (w.setBoard n f).hlu = w.hlu := rfl
@[simp] theorem Work.setCell_svt (n a : Nat) (f : Cell → Cell) (w : Work) : (w.setCell n a f).svt = w.svt := rfl
@[simp] theorem Work.setCell_bcp (n a : Nat) (f : Cell → Cell) (w : Work) : (w.setCell n a f).bcp = { w.bcp with cells := w.bcp.cells.modify n fun cs => cs.modify (a - 1) f } := rfl
@[simp] theorem Work.setCell_wsc (n a : Nat) (f : Cell → Cell) (w : Work) : (w.setCell n a f).wsc = w.wsc := rfl
@[simp] theorem Work.setCell_nre (n a : Nat) (f : Cell → Cell) (w : Work) : (w.setCell n a f).nre = w.nre := rfl
@[simp] theorem Work.setCell_cuc (n a : Nat) (f : Cell → Cell) (w : Work) : (w.setCell n a f).cuc = w.cuc := rfl
@[simp] theorem Work.setCell_hlu (n a : Nat) (f : Cell → Cell) (w : Work) : (w.setCell n a f).hlu = w.hlu := rfl
@[simp] theorem Work.raise_svt (r : ReportBody) (w : Work) : (w.raise r).svt = w.svt := rfl
@[simp] theorem Work.raise_bcp (r : ReportBody) (w : Work) : (w.raise r).bcp = w.bcp := rfl
@[simp] theorem Work.raise_wsc (r : ReportBody) (w : Work) : (w.raise r).wsc = w.wsc := rfl
@[simp] theorem Work.raise_nre (r : ReportBody) (w : Work) : (w.raise r).nre = w.nre := rfl
@[simp] theorem Work.raise_cuc (r : ReportBody) (w : Work) : (w.raise r).cuc = w.cuc := rfl
@[simp] theorem Work.raise_hlu (r : ReportBody) (w : Work) : (w.raise r).hlu = w.hlu.raise r := rfl
@[simp] theorem Work.mapCuc_svt (f : Cuc → Cuc) (w : Work) : (w.mapCuc f).svt = w.svt := rfl
@[simp] theorem Work.mapCuc_bcp (f : Cuc → Cuc) (w : Work) : (w.mapCuc f).bcp = w.bcp := rfl
@[simp] theorem Work.mapCuc_wsc (f : Cuc → Cuc) (w : Work) : (w.mapCuc f).wsc = w.wsc := rfl
@[simp] theorem Work.mapCuc_nre (f : Cuc → Cuc) (w : Work) : (w.mapCuc f).nre = w.nre := rfl
@[simp] theorem Work.mapCuc_cuc (f : Cuc → Cuc) (w : Work) : (w.mapCuc f).cuc = f w.cuc := rfl
@[simp] theorem Work.mapCuc_hlu (f : Cuc → Cuc) (w : Work) : (w.mapCuc f).hlu = w.hlu := rfl
@[simp] theorem Work.mapNre_svt (f : Nre → Nre) (w : Work) : (w.mapNre f).svt = w.svt := rfl
@[simp] theorem Work.mapNre_bcp (f : Nre → Nre) (w : Work) : (w.mapNre f).bcp = w.bcp := rfl
@[simp] theorem Work.mapNre_wsc (f : Nre → Nre) (w : Work) : (w.mapNre f).wsc = w.wsc := rfl
@[simp] theorem Work.mapNre_nre (f : Nre → Nre) (w : Work) : (w.mapNre f).nre = f w.nre := rfl
@[simp] theorem Work.mapNre_cuc (f : Nre → Nre) (w : Work) : (w.mapNre f).cuc = w.cuc := rfl
@[simp] theorem Work.mapNre_hlu (f : Nre → Nre) (w : Work) : (w.mapNre f).hlu = w.hlu := rfl
@[simp] theorem Work.dropEntry_svt (e : CueEntry) (r : DropReason) (w : Work) : (w.dropEntry e r).svt = w.svt := rfl
@[simp] theorem Work.dropEntry_bcp (e : CueEntry) (r : DropReason) (w : Work) : (w.dropEntry e r).bcp = w.bcp := rfl
@[simp] theorem Work.dropEntry_wsc (e : CueEntry) (r : DropReason) (w : Work) : (w.dropEntry e r).wsc = w.wsc := rfl
@[simp] theorem Work.dropEntry_nre (e : CueEntry) (r : DropReason) (w : Work) : (w.dropEntry e r).nre = w.nre := rfl
@[simp] theorem Work.dropEntry_cuc (e : CueEntry) (r : DropReason) (w : Work) : (w.dropEntry e r).cuc = w.cuc.free e.seq := rfl
@[simp] theorem Work.dropEntry_hlu (e : CueEntry) (r : DropReason) (w : Work) : (w.dropEntry e r).hlu = w.hlu.raise (dropReport e r) := rfl
@[simp] theorem Work.storeConfirmations_svt (w : Work) : w.storeConfirmations.svt = { w.svt with services := w.svt.services.map fun x => { x with conf := w.confirmation x } } := rfl
@[simp] theorem Work.storeConfirmations_bcp (w : Work) : w.storeConfirmations.bcp = w.bcp := rfl
@[simp] theorem Work.storeConfirmations_wsc (w : Work) : w.storeConfirmations.wsc = w.wsc := rfl
@[simp] theorem Work.storeConfirmations_nre (w : Work) : w.storeConfirmations.nre = w.nre := rfl
@[simp] theorem Work.storeConfirmations_cuc (w : Work) : w.storeConfirmations.cuc = w.cuc := rfl
@[simp] theorem Work.storeConfirmations_hlu (w : Work) : w.storeConfirmations.hlu = w.hlu := rfl
@[simp] theorem Work.lowerFlashes_svt (w : Work) : w.lowerFlashes.svt = { w.svt with services := w.svt.services.map fun x => { x with flash := x.flash - 1 } } := rfl
@[simp] theorem Work.lowerFlashes_bcp (w : Work) : w.lowerFlashes.bcp = w.bcp := rfl
@[simp] theorem Work.lowerFlashes_wsc (w : Work) : w.lowerFlashes.wsc = w.wsc := rfl
@[simp] theorem Work.lowerFlashes_nre (w : Work) : w.lowerFlashes.nre = w.nre := rfl
@[simp] theorem Work.lowerFlashes_cuc (w : Work) : w.lowerFlashes.cuc = w.cuc := rfl
@[simp] theorem Work.lowerFlashes_hlu (w : Work) : w.lowerFlashes.hlu = w.hlu := rfl

/-! ### Clock lines -/

@[simp] theorem ClockLine.count_state (e : Nat) (l : ClockLine) : (l.count e).state = l.state := rfl
@[simp] theorem ClockLine.count_kind (e : Nat) (l : ClockLine) : (l.count e).kind = l.kind := rfl
@[simp] theorem ClockLine.count_indicated (e : Nat) (l : ClockLine) : (l.count e).indicated = if l.impulseSeen then (l.indicated + 1) % dialSize l.kind else l.indicated := rfl
@[simp] theorem ClockLine.count_polarity (e : Nat) (l : ClockLine) : (l.count e).polarity = flip l.polarity := rfl
@[simp] theorem ClockLine.count_width (e : Nat) (l : ClockLine) : (l.count e).width = l.width := rfl
@[simp] theorem ClockLine.count_gap (e : Nat) (l : ClockLine) : (l.count e).gap = l.gap := rfl
@[simp] theorem ClockLine.count_hold (e : Nat) (l : ClockLine) : (l.count e).hold = l.hold := rfl
@[simp] theorem ClockLine.count_sense (e : Nat) (l : ClockLine) : (l.count e).sense = l.sense := rfl
@[simp] theorem ClockLine.count_miss (e : Nat) (l : ClockLine) : (l.count e).miss = if l.impulseSeen then 0 else l.miss + 1 := rfl
@[simp] theorem ClockLine.count_drive (e : Nat) (l : ClockLine) : (l.count e).drive = .gap (e + l.gap) := rfl
@[simp] theorem ClockLine.count_pending (e : Nat) (l : ClockLine) : (l.count e).pending = l.pending := rfl
@[simp] theorem ClockLine.count_seen (e : Nat) (l : ClockLine) : (l.count e).seen = l.seen := rfl
@[simp] theorem ClockLine.count_impulseSense (e : Nat) (l : ClockLine) : (l.count e).impulseSense = none := rfl
@[simp] theorem ClockLine.count_decide (e : Nat) (l : ClockLine) : (l.count e).decide = l.decide := rfl
@[simp] theorem ClockLine.count_waiting (e : Nat) (l : ClockLine) : (l.count e).waiting = l.waiting := rfl
@[simp] theorem ClockLine.store_state (x : ClockSection) (l : ClockLine) : (l.store x).state = l.state := rfl
@[simp] theorem ClockLine.store_kind (x : ClockSection) (l : ClockLine) : (l.store x).kind = x.kind := rfl
@[simp] theorem ClockLine.store_indicated (x : ClockSection) (l : ClockLine) : (l.store x).indicated = x.position.getD l.indicated := rfl
@[simp] theorem ClockLine.store_polarity (x : ClockSection) (l : ClockLine) : (l.store x).polarity = x.polarity.getD l.polarity := rfl
@[simp] theorem ClockLine.store_width (x : ClockSection) (l : ClockLine) : (l.store x).width = x.width := rfl
@[simp] theorem ClockLine.store_gap (x : ClockSection) (l : ClockLine) : (l.store x).gap = x.gap := rfl
@[simp] theorem ClockLine.store_hold (x : ClockSection) (l : ClockLine) : (l.store x).hold = x.hold := rfl
@[simp] theorem ClockLine.store_sense (x : ClockSection) (l : ClockLine) : (l.store x).sense = l.sense := rfl
@[simp] theorem ClockLine.store_miss (x : ClockSection) (l : ClockLine) : (l.store x).miss = 0 := rfl
@[simp] theorem ClockLine.store_drive (x : ClockSection) (l : ClockLine) : (l.store x).drive = l.drive := rfl
@[simp] theorem ClockLine.store_pending (x : ClockSection) (l : ClockLine) : (l.store x).pending = false := rfl
@[simp] theorem ClockLine.store_seen (x : ClockSection) (l : ClockLine) : (l.store x).seen = l.seen := rfl
@[simp] theorem ClockLine.store_impulseSense (x : ClockSection) (l : ClockLine) : (l.store x).impulseSense = l.impulseSense := rfl
@[simp] theorem ClockLine.store_decide (x : ClockSection) (l : ClockLine) : (l.store x).decide = false := rfl
@[simp] theorem ClockLine.store_waiting (x : ClockSection) (l : ClockLine) : (l.store x).waiting = none := rfl
@[simp] theorem ClockLine.decided_state (c : Nat) (g : Bool) (l : ClockLine) : (l.decided c g).state = decisionState l.kind l.hold (l.behind c) := rfl
@[simp] theorem ClockLine.decided_kind (c : Nat) (g : Bool) (l : ClockLine) : (l.decided c g).kind = l.kind := rfl
@[simp] theorem ClockLine.decided_indicated (c : Nat) (g : Bool) (l : ClockLine) : (l.decided c g).indicated = l.indicated := rfl
@[simp] theorem ClockLine.decided_polarity (c : Nat) (g : Bool) (l : ClockLine) : (l.decided c g).polarity = l.polarity := rfl
@[simp] theorem ClockLine.decided_width (c : Nat) (g : Bool) (l : ClockLine) : (l.decided c g).width = l.width := rfl
@[simp] theorem ClockLine.decided_gap (c : Nat) (g : Bool) (l : ClockLine) : (l.decided c g).gap = l.gap := rfl
@[simp] theorem ClockLine.decided_hold (c : Nat) (g : Bool) (l : ClockLine) : (l.decided c g).hold = l.hold := rfl
@[simp] theorem ClockLine.decided_sense (c : Nat) (g : Bool) (l : ClockLine) : (l.decided c g).sense = l.sense := rfl
@[simp] theorem ClockLine.decided_miss (c : Nat) (g : Bool) (l : ClockLine) : (l.decided c g).miss = l.miss := rfl
@[simp] theorem ClockLine.decided_drive (c : Nat) (g : Bool) (l : ClockLine) : (l.decided c g).drive = l.drive := rfl
@[simp] theorem ClockLine.decided_seen (c : Nat) (g : Bool) (l : ClockLine) : (l.decided c g).seen = l.seen := rfl
@[simp] theorem ClockLine.decided_impulseSense (c : Nat) (g : Bool) (l : ClockLine) : (l.decided c g).impulseSense = l.impulseSense := rfl
@[simp] theorem ClockLine.decided_decide (c : Nat) (g : Bool) (l : ClockLine) : (l.decided c g).decide = l.decide := rfl
@[simp] theorem ClockLine.decided_waiting (c : Nat) (g : Bool) (l : ClockLine) : (l.decided c g).waiting = l.waiting := rfl

/-! ### The timebase -/

@[simp] theorem Timebase.discard_state (tb : Timebase) : tb.discard.state = tb.state := rfl
@[simp] theorem Timebase.discard_t (tb : Timebase) : tb.discard.t = tb.t := rfl
@[simp] theorem Timebase.discard_secPos (tb : Timebase) : tb.discard.secPos = tb.fraction := rfl
@[simp] theorem Timebase.discard_secLen (tb : Timebase) : tb.discard.secLen = 1000 := rfl
@[simp] theorem Timebase.discard_tHigh (tb : Timebase) : tb.discard.tHigh = tb.tHigh := rfl
@[simp] theorem Timebase.discard_slew (tb : Timebase) : tb.discard.slew = tb.slew := rfl
@[simp] theorem Timebase.discard_rejected (tb : Timebase) : tb.discard.rejected = tb.rejected := rfl
@[simp] theorem Timebase.discard_lastPulse (tb : Timebase) : tb.discard.lastPulse = tb.lastPulse := rfl
@[simp] theorem Timebase.discard_superviseFrom (tb : Timebase) : tb.discard.superviseFrom = tb.superviseFrom := rfl
@[simp] theorem Timebase.discard_c0 (tb : Timebase) : tb.discard.c0 = tb.c0 := rfl
@[simp] theorem Timebase.discard_period (tb : Timebase) : tb.discard.period = tb.period := rfl
@[simp] theorem Timebase.beginSecond_state (tb : Timebase) : tb.beginSecond.state = tb.state := rfl
@[simp] theorem Timebase.beginSecond_t (tb : Timebase) : tb.beginSecond.t = tb.t := rfl
@[simp] theorem Timebase.beginSecond_secPos (tb : Timebase) : tb.beginSecond.secPos = 0 := rfl
@[simp] theorem Timebase.beginSecond_secLen (tb : Timebase) : tb.beginSecond.secLen = (slewSecond tb.slew).1 := rfl
@[simp] theorem Timebase.beginSecond_tHigh (tb : Timebase) : tb.beginSecond.tHigh = tb.tHigh := rfl
@[simp] theorem Timebase.beginSecond_slew (tb : Timebase) : tb.beginSecond.slew = (slewSecond tb.slew).2 := rfl
@[simp] theorem Timebase.beginSecond_rejected (tb : Timebase) : tb.beginSecond.rejected = tb.rejected := rfl
@[simp] theorem Timebase.beginSecond_lastPulse (tb : Timebase) : tb.beginSecond.lastPulse = tb.lastPulse := rfl
@[simp] theorem Timebase.beginSecond_superviseFrom (tb : Timebase) : tb.beginSecond.superviseFrom = tb.superviseFrom := rfl
@[simp] theorem Timebase.beginSecond_c0 (tb : Timebase) : tb.beginSecond.c0 = tb.c0 := rfl
@[simp] theorem Timebase.beginSecond_period (tb : Timebase) : tb.beginSecond.period = tb.period := rfl
@[simp] theorem Timebase.accept_state (e : Nat) (o : Int) (tb : Timebase) : (tb.accept e o).state = .locked := rfl
@[simp] theorem Timebase.accept_t (e : Nat) (o : Int) (tb : Timebase) : (tb.accept e o).t = tb.t := rfl
@[simp] theorem Timebase.accept_secPos (e : Nat) (o : Int) (tb : Timebase) : (tb.accept e o).secPos = tb.fraction := rfl
@[simp] theorem Timebase.accept_secLen (e : Nat) (o : Int) (tb : Timebase) : (tb.accept e o).secLen = 1000 := rfl
@[simp] theorem Timebase.accept_tHigh (e : Nat) (o : Int) (tb : Timebase) : (tb.accept e o).tHigh = tb.tHigh := rfl
@[simp] theorem Timebase.accept_slew (e : Nat) (o : Int) (tb : Timebase) : (tb.accept e o).slew = o := rfl
@[simp] theorem Timebase.accept_rejected (e : Nat) (o : Int) (tb : Timebase) : (tb.accept e o).rejected = [] := rfl
@[simp] theorem Timebase.accept_lastPulse (e : Nat) (o : Int) (tb : Timebase) : (tb.accept e o).lastPulse = some e := rfl
@[simp] theorem Timebase.accept_superviseFrom (e : Nat) (o : Int) (tb : Timebase) : (tb.accept e o).superviseFrom = tb.superviseFrom := rfl
@[simp] theorem Timebase.accept_c0 (e : Nat) (o : Int) (tb : Timebase) : (tb.accept e o).c0 = tb.c0 := rfl
@[simp] theorem Timebase.accept_period (e : Nat) (o : Int) (tb : Timebase) : (tb.accept e o).period = tb.period := rfl
@[simp] theorem Timebase.agree_state (e : Nat) (tb : Timebase) : (tb.agree e).state = .locked := rfl
@[simp] theorem Timebase.agree_t (e : Nat) (tb : Timebase) : (tb.agree e).t = tb.t := rfl
@[simp] theorem Timebase.agree_secPos (e : Nat) (tb : Timebase) : (tb.agree e).secPos = tb.secPos := rfl
@[simp] theorem Timebase.agree_secLen (e : Nat) (tb : Timebase) : (tb.agree e).secLen = tb.secLen := rfl
@[simp] theorem Timebase.agree_tHigh (e : Nat) (tb : Timebase) : (tb.agree e).tHigh = tb.tHigh := rfl
@[simp] theorem Timebase.agree_slew (e : Nat) (tb : Timebase) : (tb.agree e).slew = tb.slew := rfl
@[simp] theorem Timebase.agree_rejected (e : Nat) (tb : Timebase) : (tb.agree e).rejected = [] := rfl
@[simp] theorem Timebase.agree_lastPulse (e : Nat) (tb : Timebase) : (tb.agree e).lastPulse = some e := rfl
@[simp] theorem Timebase.agree_superviseFrom (e : Nat) (tb : Timebase) : (tb.agree e).superviseFrom = tb.superviseFrom := rfl
@[simp] theorem Timebase.agree_c0 (e : Nat) (tb : Timebase) : (tb.agree e).c0 = tb.c0 := rfl
@[simp] theorem Timebase.agree_period (e : Nat) (tb : Timebase) : (tb.agree e).period = tb.period := rfl

end Sys2Proof.Machine
end

