-- ==== Sys2Proof/Laws/Kept.lean ====
section
/-!
SUPPORT. What derivations, evaluations, selections and reports leave as it is: `Work.kept` is unchanged by each operation
that runs inside an event. One lemma per operation; a prover cites it in place of unfolding the operation.
-/

namespace Sys2Proof.Machine

/-! ### Lists -/

theorem map_modify_same {α β : Type} (k : α → β) (g : α → α) (h : ∀ x, k (g x) = k x) (l : List α) (n : Nat) :
    (l.modify n g).map k = l.map k := by
  induction l generalizing n with
  | nil => simp
  | cons x xs ih => cases n with
    | zero => simp [h]
    | succ n => simpa using ih n

theorem map_map_same {α β : Type} (k : α → β) (g : α → α) (h : ∀ x, k (g x) = k x) (l : List α) :
    (l.map g).map k = l.map k := by
  induction l with
  | nil => rfl
  | cons x xs ih => simp [h]

theorem kept_foldl {α : Type} (f : Work → α → Work) (h : ∀ w a, (f w a).kept = w.kept) (l : List α) (w : Work) :
    (l.foldl f w).kept = w.kept := by
  induction l generalizing w with
  | nil => rfl
  | cons a l ih => rw [List.foldl_cons, ih, h]

/-! ### Single updates -/

@[simp] theorem Hlu.raise_kept (r : ReportBody) (h : Hlu) : (h.raise r).kept = h.kept := by
  unfold Hlu.raise; split
  · split <;> rfl
  · rfl

@[simp] theorem Work.raise_kept (r : ReportBody) (w : Work) : (w.raise r).kept = w.kept := by simp [Work.kept]

@[simp] theorem Work.raiseAll_kept (rs : List ReportBody) (w : Work) : (w.raiseAll rs).kept = w.kept :=
  kept_foldl _ (fun w r => w.raise_kept r) rs w

@[simp] theorem Work.setCell_kept (s a : Nat) (f : Cell → Cell) (w : Work) : (w.setCell s a f).kept = w.kept := rfl

theorem Work.setBoard_kept (n : Nat) (f : Board → Board) (h : ∀ bd, (f bd).kept = bd.kept) (w : Work) :
    (w.setBoard n f).kept = w.kept := by
  have : (w.bcp.boards.modify n (Option.map f)).map (Option.map Board.kept) = w.bcp.boards.map (Option.map Board.kept) :=
    map_modify_same _ _ (fun o => by cases o <;> simp [h]) _ _
  simp [Work.kept, Bcp.kept, this]

theorem Work.setString_kept (n : Nat) (f : WallString → WallString) (h : ∀ t, (f t).kept = t.kept) (w : Work) :
    (w.setString n f).kept = w.kept := by
  simp [Work.kept, map_modify_same _ _ h]

theorem Work.setString_kept_const (n : Nat) (t : WallString) (w : Work) (h : t.kept = (w.string n).kept) :
    (w.setString n fun _ => t).kept = w.kept := by
  have : ∀ (l : List WallString) (m : Nat), t.kept = (l.getD m WallString.reset).kept →
      (l.modify m fun _ => t).map WallString.kept = l.map WallString.kept := by
    intro l
    induction l with
    | nil => intro m _; simp
    | cons x xs ih =>
      intro m hm
      cases m with
      | zero => simpa using hm
      | succ m => simpa using ih m (by simpa using hm)
  simp [Work.kept, this w.wsc n h]

theorem Svt.update_kept (key : Key) (f : Service → Service) (h : ∀ x, (f x).core = x.core) (v : Svt) :
    (v.update key f).kept = v.kept := by
  simp only [Svt.kept, Svt.update]
  rw [map_map_same]
  intro x; split <;> simp [h]

theorem Work.updateService_kept (key : Key) (f : Service → Service) (h : ∀ x, (f x).core = x.core) (w : Work) :
    (w.updateService key f).kept = w.kept := by
  simp [Work.kept, Svt.update_kept key f h]

theorem Work.mapCuc_kept (f : Cuc → Cuc) (w : Work) (h : (f w.cuc).kept = w.cuc.kept) : (w.mapCuc f).kept = w.kept := by
  simp [Work.kept, h]

theorem Work.mapNre_kept (f : Nre → Nre) (w : Work) (h : (f w.nre).kept = w.nre.kept) : (w.mapNre f).kept = w.kept := by
  simp [Work.kept, h]

/-! ### Cues -/

@[simp] theorem Work.dropEntry_kept (e : CueEntry) (r : DropReason) (w : Work) : (w.dropEntry e r).kept = w.kept := by
  rw [Work.dropEntry, Work.raise_kept]
  exact Work.mapCuc_kept _ _ rfl

@[simp] theorem Work.dropWaiting_kept (p : CueEntry → Bool) (r : DropReason) (w : Work) :
    (w.dropWaiting p r).kept = w.kept :=
  kept_foldl _ (fun w e => w.dropEntry_kept e r) _ w

@[simp] theorem Work.send_kept (b : Base) (e : CueEntry) (f : CueFrame) (w : Work) : (w.send b e f).kept = w.kept :=
  Work.mapCuc_kept _ _ rfl

@[simp] theorem Work.takeEntry_kept (b : Base) (e : CueEntry) (w : Work) : (w.takeEntry b e).kept = w.kept := by
  unfold Work.takeEntry
  split
  · simp
  · split
    · exact Work.mapCuc_kept _ _ rfl
    · split <;> simp

@[simp] theorem Work.selectFrom_kept (b : Base) (es : List CueEntry) (w : Work) : (Work.selectFrom b es w).kept = w.kept := by
  induction es generalizing w with
  | nil => rfl
  | cons e es ih => unfold Work.selectFrom; split <;> simp [ih]

@[simp] theorem Work.select_kept (b : Base) (w : Work) : (w.select b).kept = w.kept := by
  unfold Work.select; split <;> simp

@[simp] theorem Work.enqueueNew_kept (b : Base) (n : Nat) (k : Option Key) (s : CueSource) (tm : Template) (x : Option Service)
    (w : Work) : (w.enqueueNew b n k s tm x).kept = w.kept := Work.mapCuc_kept _ _ rfl

@[simp] theorem Work.enqueue_kept (b : Base) (n : Nat) (k : Option Key) (s : CueSource) (w : Work) :
    (w.enqueue b n k s).1.kept = w.kept := by
  unfold Work.enqueue
  simp only
  repeat' split
  all_goals first
    | (simp; done)
    | (rw [Work.select_kept]; exact Work.mapCuc_kept _ _ rfl)

@[simp] theorem Work.withdraw_kept (b : Base) (p : CueEntry → Bool) (w : Work) : (w.withdraw b p).kept = w.kept := by
  rw [Work.withdraw, Work.select_kept]
  exact Work.mapCuc_kept _ _ rfl

@[simp] theorem Work.confirmChanges_kept (b : Base) (evs : List (Key × BitVec 32 × Bool)) (w : Work) :
    (w.confirmChanges b evs).kept = w.kept := by
  unfold Work.confirmChanges
  split
  · rfl
  · rw [Work.select_kept]
    exact kept_foldl _ (fun w ev => Work.mapCuc_kept _ _ rfl) _ _

@[simp] theorem Work.expireCues_kept (b : Base) (w : Work) : (w.expireCues b).kept = w.kept := by simp [Work.expireCues]

@[simp] theorem Work.cueStep_kept (b : Base) (w : Work) : (w.cueStep b).kept = w.kept := by simp [Work.cueStep]

@[simp] theorem Work.cueOverrideEntry_kept (b : Base) (w : Work) : (w.cueOverrideEntry b).kept = w.kept := by
  unfold Work.cueOverrideEntry; simp only; split <;> simp

@[simp] theorem Work.cueOverrideExit_kept (b : Base) (w : Work) : (w.cueOverrideExit b).kept = w.kept := by
  simp [Work.cueOverrideExit]

theorem Work.endEntry_kept (r : CueEntry → ReportBody) (next : LinkState) (w : Work) :
    (w.endEntry r next).kept = w.kept := by
  unfold Work.endEntry
  split
  · rw [Work.mapCuc_kept _ _ rfl, Work.raise_kept]; exact Work.mapCuc_kept _ _ rfl
  · exact Work.mapCuc_kept _ _ rfl

/-! ### Strings and rows -/

@[simp] theorem WallString.start_kept (e : Nat) (s : WallString) : (s.start e).kept = s.kept := by
  unfold WallString.start; split
  · split <;> rfl
  · rfl

theorem WallString.offer_kept (e a : Nat) (c : RowContent) (s : WallString) : (s.offer e a c).1.kept = s.kept := by
  unfold WallString.offer
  split
  · rfl
  · split
    · simp only [WallString.start_kept]; rfl
    · split <;> (simp only [WallString.start_kept]; rfl)

@[simp] theorem Work.offer_kept (b : Base) (s a : Nat) (c : RowContent) (w : Work) : (w.offer b s a c).1.kept = w.kept := by
  unfold Work.offer
  have h := Work.setString_kept_const s ((w.string s).offer b.elapsed a c).1 w (WallString.offer_kept ..)
  simp only
  split <;> simp [h]

@[simp] theorem Work.offerDesired_kept (b : Base) (rec : BoardRec) (r : Nat) (w : Work) :
    (w.offerDesired b rec r).kept = w.kept := by
  unfold Work.offerDesired; simp only; split <;> simp

@[simp] theorem Work.offerRow_kept (b : Base) (bd : Board) (w : Work) (r : Nat) : (w.offerRow b bd r).kept = w.kept := by
  unfold Work.offerRow
  simp only
  repeat' split
  all_goals simp

@[simp] theorem Work.guardRow_kept (bd : Board) (w : Work) (r : Nat) : (w.guardRow bd r).kept = w.kept := by
  unfold Work.guardRow
  simp only
  split
  · split
    · exact kept_foldl _ (fun w q => w.setCell_kept _ _ _) _ _
    · rfl
  · rfl

@[simp] theorem Work.guardReleases_kept (bd : Board) (w : Work) : (w.guardReleases bd).kept = w.kept :=
  kept_foldl _ (fun w _ => kept_foldl _ (fun w r => w.guardRow_kept bd r) _ w) _ _

@[simp] theorem Work.offerRows_kept (b : Base) (n : Nat) (w : Work) : (w.offerRows b n).kept = w.kept := by
  unfold Work.offerRows
  split
  · rw [kept_foldl _ (fun w r => Work.offerRow_kept b _ w r), Work.guardReleases_kept]
  · rfl

@[simp] theorem Work.storeConfirmations_kept (w : Work) : w.storeConfirmations.kept = w.kept := by
  have : ∀ x : Service, ({ x with conf := w.confirmation x } : Service).core = x.core := fun _ => rfl
  simp [Work.kept, Svt.kept, Function.comp_def, this]

@[simp] theorem Work.refreshConfirmations_kept (b : Base) (ev : List (Key × BitVec 32 × Bool)) (w : Work) :
    (w.refreshConfirmations b ev).kept = w.kept := by simp [Work.refreshConfirmations]

/-! ### Derivations -/

@[simp] theorem Board.refresh_kept (b : Base) (w : Work) (n : Nat) (bd : Board) : (bd.refresh b w n).kept = bd.kept := rfl

@[simp] theorem Work.deriveRow_kept (b : Base) (bd : Board) (o : Option (List Nat)) (w : Work) (r : Nat) :
    (w.deriveRow b bd o r).kept = w.kept := by
  unfold Work.deriveRow; simp only; split <;> simp

@[simp] theorem Work.releaseRow_kept (bd : Board) (e a : Bool) (w : Work) (r : Nat) :
    (w.releaseRow bd e a r).kept = w.kept := rfl

/-- One board written over by a board of the same record. -/
theorem Work.setBoard_kept_const (n : Nat) (bd bd' : Board) (w : Work) (hb : w.board n = some bd) (h : bd'.kept = bd.kept) :
    (w.setBoard n fun _ => bd').kept = w.kept := by
  have : ∀ (l : List (Option Board)) (m : Nat), l.getD m none = some bd →
      (l.modify m (Option.map fun _ => bd')).map (Option.map Board.kept) = l.map (Option.map Board.kept) := by
    intro l
    induction l with
    | nil => intro m _; simp
    | cons x xs ih =>
      intro m hm
      cases m with
      | zero => simp at hm; simp [hm, h]
      | succ m => simpa using ih m (by simpa using hm)
  simp [Work.kept, Bcp.kept, this w.bcp.boards n hb]

@[simp] theorem Work.deriveBoard_kept (b : Base) (o : Option (List Nat)) (e : Bool) (n : Nat) (w : Work) :
    (w.deriveBoard b o e n).kept = w.kept := by
  unfold Work.deriveBoard
  split
  · rename_i bd hb
    simp only
    rw [Work.offerRows_kept, kept_foldl _ (fun w r => Work.releaseRow_kept _ _ _ w r),
      kept_foldl _ (fun w r => Work.deriveRow_kept b _ o w r)]
    exact Work.setBoard_kept_const n bd _ w hb (by split <;> rfl)
  · rfl

@[simp] theorem Work.deriveWith_kept (b : Base) (o : Option (List Nat)) (ex : List Nat) (ev : List (Key × BitVec 32 × Bool))
    (p : Nat → Bool) (w : Work) : (w.deriveWith b o ex ev p).kept = w.kept := by
  unfold Work.deriveWith
  rw [Work.refreshConfirmations_kept]
  exact kept_foldl _ (fun w n => by split <;> simp) _ _

@[simp] theorem Work.derive_kept (b : Base) (p : Nat → Bool) (w : Work) : (w.derive b p).kept = w.kept := by
  simp [Work.derive]

@[simp] theorem Work.deriveAll_kept (b : Base) (w : Work) : (w.deriveAll b).kept = w.kept := by simp [Work.deriveAll]

@[simp] theorem Work.boardChange_kept (b : Base) (key : Key) (p : Bool) (w : Work) : (w.boardChange b key p).kept = w.kept := by
  have h := Work.updateService_kept key (fun x => { x with flash := w.bcp.flashTime }) (fun _ => rfl) w
  have h' : (if p then w.updateService key fun x => { x with flash := w.bcp.flashTime } else w).kept = w.kept := by
    split
    · exact h
    · rfl
  unfold Work.boardChange
  rw [apply_ite Work.kept]
  rw [Work.derive_kept, ite_self]
  exact h'

@[simp] theorem Work.lowerFlashes_kept (w : Work) : w.lowerFlashes.kept = w.kept := by
  have : ∀ x : Service, ({ x with flash := x.flash - 1 } : Service).core = x.core := fun _ => rfl
  simp [Work.kept, Svt.kept, Function.comp_def, this]

@[simp] theorem Work.countPage_kept (ends : List Nat) (w : Work) (n : Nat) : (w.countPage ends n).kept = w.kept := by
  unfold Work.countPage
  split
  · exact Work.setBoard_kept _ _ (fun bd => by split <;> rfl) _
  · rfl

@[simp] theorem Work.boardSecond_kept (b : Base) (w : Work) : (w.boardSecond b).kept = w.kept := by
  simp only [Work.boardSecond, Work.deriveWith_kept]
  rw [kept_foldl _ (fun w n => Work.countPage_kept _ w n), Work.lowerFlashes_kept]

@[simp] theorem Work.expirePage_kept (b : Base) (n : Nat) (w : Work) : (w.expirePage b n).kept = w.kept := by
  unfold Work.expirePage
  split
  · rw [Work.deriveWith_kept]; exact Work.setBoard_kept n Board.turnPage (fun _ => rfl) w
  · rfl

@[simp] theorem Work.endFlash_kept (b : Base) (key : Key) (w : Work) : (w.endFlash b key).kept = w.kept := by
  unfold Work.endFlash
  split
  · split
    · rw [Work.derive_kept]
      exact Work.updateService_kept key (fun x => { x with flash := 0 }) (fun _ => rfl) w
    · rfl
  · rfl

@[simp] theorem Work.textChange_kept (b : Base) (c : List Nat) (w : Work) : (w.textChange b c).kept = w.kept := by
  simp [Work.textChange]

@[simp] theorem Work.offersOn_kept (b : Base) (s : Nat) (w : Work) : (w.offersOn b s).kept = w.kept :=
  kept_foldl _ (fun w n => by split <;> split <;> simp) _ _

@[simp] theorem Work.answerCompletion_kept (b : Base) (s a : Nat) (w : Work) : (w.answerCompletion b s a).kept = w.kept := by
  unfold Work.answerCompletion; split <;> simp

/-! ### Notices -/

@[simp] theorem Work.startWatch_kept (h : Nat) (key : Key) (wt : Watch) (w : Work) : (w.startWatch h key wt).kept = w.kept := by
  unfold Work.startWatch
  split
  · exact Work.mapNre_kept _ _ rfl
  · simp

@[simp] theorem Work.riseEdge_kept (b : Base) (loud : Bool) (key : Key) (w : Work) (h : Nat) :
    (w.riseEdge b loud key h).kept = w.kept := by
  unfold Work.riseEdge
  split
  · rfl
  · have hu := Work.updateService_kept key (fun x => { x with held := insertNat h x.held }) (fun _ => rfl) w
    simp only
    repeat' split
    all_goals simp [hu]

@[simp] theorem Work.releaseHead_kept (b : Base) (key : Key) (h : Nat) (w : Work) : (w.releaseHead b key h).kept = w.kept := by
  have hn := Work.mapNre_kept (Nre.freeSlots fun s => s.head == h && s.key == key) w rfl
  unfold Work.releaseHead
  simp only
  split <;> simp [hn]

@[simp] theorem Work.fallEdge_kept (b : Base) (key : Key) (w : Work) (h : Nat) : (w.fallEdge b key h).kept = w.kept := by
  simp only [Work.fallEdge, Work.releaseHead_kept]
  exact Work.updateService_kept key (fun x => { x with held := x.held.filter (· != h) }) (fun _ => rfl) w

@[simp] theorem Work.tell_kept (b : Base) (t : Told) (w : Work) : (w.tell b t).kept = w.kept := by
  unfold Work.tell; split <;> simp

@[simp] theorem Work.evaluate_kept (b : Base) (g : Rule → Bool) (loud : Bool) (a c : Int) (key : Key) (w : Work) :
    (w.evaluate b g loud a c key).kept = w.kept := by
  unfold Work.evaluate
  split
  · rfl
  · rw [kept_foldl _ (fun w h => Work.riseEdge_kept b loud key w h), kept_foldl _ (fun w h => Work.fallEdge_kept b key w h)]

@[simp] theorem Work.evaluateTell_kept (b : Base) (g : Rule → Bool) (loud : Bool) (a c : Int) (w : Work) (key : Key) :
    (w.evaluateTell b g loud a c key).kept = w.kept := by simp [Work.evaluateTell]

@[simp] theorem Work.evaluateChange_kept (b : Base) (key : Key) (w : Work) : (w.evaluateChange b key).kept = w.kept := by
  simp [Work.evaluateChange]

@[simp] theorem Work.flagChange_kept (b : Base) (key : Key) (w : Work) : (w.flagChange b key).kept = w.kept := by
  simp [Work.flagChange]

@[simp] theorem Work.expireSlot_kept (b : Base) (i : Nat) (w : Work) : (w.expireSlot b i).kept = w.kept := by
  unfold Work.expireSlot
  split
  · rename_i h key period r f _
    have hu := Work.updateService_kept key (fun x => { x with stale := true }) (fun _ => rfl) w
    simp only
    split
    · rw [Work.flagChange_kept]
      exact (Work.mapNre_kept _ _ rfl).trans ((Work.raise_kept _ _).trans hu)
    · exact (Work.mapNre_kept _ _ rfl).trans ((Work.raise_kept _ _).trans hu)
  · rfl

@[simp] theorem Work.reachSlot_kept (b : Base) (i : Nat) (w : Work) : (w.reachSlot b i).kept = w.kept := by
  unfold Work.reachSlot
  split
  · rename_i h key th n f _
    have hu := Work.updateService_kept key (fun x => { x with unsettled := true }) (fun _ => rfl) w
    simp only
    split
    · rw [Work.flagChange_kept]
      exact (Work.mapNre_kept _ _ rfl).trans ((Work.raise_kept _ _).trans hu)
    · exact (Work.mapNre_kept _ _ rfl).trans ((Work.raise_kept _ _).trans hu)
  · rfl

@[simp] theorem Work.mapSlotsOf_kept (key : Key) (f : Slot → Slot) (w : Work) : (w.mapSlotsOf key f).kept = w.kept :=
  Work.mapNre_kept _ _ rfl

@[simp] theorem Work.applyMarks_kept (b : Base) (key : Key) (ms : List Mark) (w : Work) :
    (w.applyMarks b key ms).kept = w.kept := by
  unfold Work.applyMarks
  simp only
  split
  · rw [kept_foldl _ (fun w i => by split <;> simp)]
    split <;> simp
  · split <;> simp

@[simp] theorem Work.recordChange_kept (b : Base) (key : Key) (ms : List Mark) (w : Work) :
    (w.recordChange b key ms).kept = w.kept := by simp [Work.recordChange]

@[simp] theorem Work.evaluateTimed_kept (b : Base) (w : Work) : (w.evaluateTimed b).kept = w.kept :=
  kept_foldl _ (fun w key => by simp) _ _

@[simp] theorem Work.evaluateNoting_kept (b : Base) (p : Work × Told) (key : Key) :
    (Work.evaluateNoting b p key).1.kept = p.1.kept := by simp [Work.evaluateNoting]

@[simp] theorem Work.reevaluate_kept (b : Base) (w : Work) : (w.reevaluate b).1.kept = w.kept := by
  have : ∀ (l : List Key) (p : Work × Told), (l.foldl (Work.evaluateNoting b) p).1.kept = p.1.kept := by
    intro l
    induction l with
    | nil => intro p; rfl
    | cons k l ih => intro p; rw [List.foldl_cons, ih, Work.evaluateNoting_kept]
  exact this _ _

@[simp] theorem Work.unlist_kept (key : Key) (w : Work) : (w.unlist key).kept = w.kept := by
  have : ∀ o : Option Board,
      Option.map Board.kept (o.map fun bd => { bd with eligible := bd.eligible.filter (· != key) }) = o.map Board.kept := by
    intro o; cases o <;> rfl
  simp only [Work.unlist, Work.kept, Bcp.kept]
  rw [map_map_same _ _ this]

/-! ### The feed and the override -/

@[simp] theorem Work.overrideEntry_kept (b : Base) (w : Work) : (w.overrideEntry b).kept = w.kept := by simp [Work.overrideEntry]

@[simp] theorem Work.overrideExit_kept (b : Base) (w : Work) : (w.overrideExit b).kept = w.kept := by simp [Work.overrideExit]

end Sys2Proof.Machine
end

