-- ==== Sys2Proof/Laws/Link.lean ====
section
/-!
SUPPORT. What serving a request does (R180): a request that is ready is served on the state in which its frame has just
arrived, and gets its owner's reply. Proofs about a request cite `request_served` and never unfold the link.
-/

namespace Sys2Proof.Machine

/-! ### What `kept` gives back -/

theorem kept_inbound {w v : Work} (h : w.kept = v.kept) : w.hlu.inbound = v.hlu.inbound := by
  have := congrArg (fun k : Work => k.hlu.inbound) h
  exact this

theorem kept_settled {w v : Work} (h : w.kept = v.kept) : w.settled = v.settled := by
  have hm := congrArg (fun k : Work => k.hlu.mask) h
  have hf := congrArg (fun k : Work => k.hlu.feedTimeout) h
  have hm : w.hlu.mask = v.hlu.mask := hm
  have hf : w.hlu.feedTimeout = v.hlu.feedTimeout := hf
  simp [Work.settled, h, hm, hf]

theorem settled_loaded {w v : Work} (h : w.settled = v.settled) : w.loaded = v.loaded := by
  have h1 : w.svt.kept = v.svt.kept := congrArg (fun k : Work => k.svt) h
  have h2 : w.nre.kept = v.nre.kept := congrArg (fun k : Work => k.nre) h
  have h3 : w.cuc.kept = v.cuc.kept := congrArg (fun k : Work => k.cuc) h
  have h4 : ({ w.svt with services := [] } : Svt) = { v.svt with services := [] } :=
    congrArg (fun k : Svt => { k with services := [] }) h1
  simp [Work.loaded, h, h2, h3, h4]

/-! ### Arrival (R179, R186) -/

/-- The place a request that is ready takes. -/
def placeOf (h : ReqHead) (r : Request) (s : State) : Inbound :=
  ⟨s.work.hlu.arrivals, h.tag, ReqHead.frame h r, .waiting, false⟩

theorem restoreFeed_kept (b : Base) (w : Work) (h : w.hlu.degraded = true) :
    (w.restoreFeed b).kept = { w.kept with hlu := { w.kept.hlu with degraded := false } } := by
  unfold Work.restoreFeed
  rw [if_pos h, Work.deriveAll_kept, Work.raise_kept]
  rfl

theorem arrives_inbound (h : ReqHead) (r : Request) (s : State)
    (hr : s.work.hlu.inbound.length < Config.maxInbound) :
    (s.arrives h r).work.hlu.inbound = s.work.hlu.inbound ++ [placeOf h r s] := by
  simp only [State.arrives_work, Work.wellFormed, Hlu.arrive, hr, if_true]
  by_cases hd : s.work.hlu.degraded = true
  · have := congrArg (fun k : Work => k.hlu.inbound) (restoreFeed_kept s.base
      { s.work with hlu := { s.work.hlu with
          arrivals := s.work.hlu.arrivals + 1, inbound := s.work.hlu.inbound ++ [placeOf h r s], feedCount := 0 } } hd)
    exact this
  · unfold Work.restoreFeed
    rw [if_neg hd]
    rfl

theorem arrives_settled (h : ReqHead) (r : Request) (s : State) : (s.arrives h r).work.settled = s.work.settled := by
  simp only [State.arrives_work, Work.wellFormed]
  have key : ∀ w : Work, (w.restoreFeed s.base).settled = w.settled := by
    intro w
    by_cases hd : w.hlu.degraded = true
    · have h1 := restoreFeed_kept s.base w hd
      have h2 := kept_settled (v := { w with hlu := { w.hlu with degraded := false } }) (h1.trans rfl)
      exact h2.trans rfl
    · unfold Work.restoreFeed
      rw [if_neg hd]
  rw [key]
  simp only [Hlu.arrive]
  split
  · rfl
  · split <;> rfl

theorem arrives_tx (h : ReqHead) (r : Request) (s : State) : (s.arrives h r).work.hlu.tx = s.work.hlu.tx := by
  simp only [State.arrives_work, Work.wellFormed]
  have key : ∀ w : Work, (w.restoreFeed s.base).hlu.tx = w.hlu.tx := by
    intro w
    by_cases hd : w.hlu.degraded = true
    · have := congrArg (fun k : Work => k.hlu.tx) (restoreFeed_kept s.base w hd)
      exact this
    · unfold Work.restoreFeed
      rw [if_neg hd]
  rw [key]
  simp only [Hlu.arrive]
  split
  · rfl
  · split <;> rfl

theorem arrives_fresh (h : ReqHead) (r : Request) (s : State)
    (hr : s.work.hlu.inbound.length < Config.maxInbound) (hd : s.work.hlu.degraded = false) :
    (s.arrives h r).work =
      { s.work with hlu :=
          { s.work.hlu with
            arrivals := s.work.hlu.arrivals + 1, feedCount := 0
            inbound := s.work.hlu.inbound ++ [placeOf h r s] } } := by
  simp [State.arrives_work, Work.wellFormed, Hlu.arrive, hr, Work.restoreFeed, hd, placeOf]

/-! ### Serving (R180) -/

theorem nextToServe_append (l : List Inbound) (x : Inbound) (hx : x.progress = .waiting)
    (hl : ∀ e ∈ l, e.reply.isSome = true ∧ e.restart = false) : nextToServe (l ++ [x]) = some x := by
  induction l with
  | nil => simp [nextToServe, hx]
  | cons e l ih =>
    have he := hl e (by simp)
    have := ih (fun e' h' => hl e' (by simp [h']))
    simp only [List.cons_append, nextToServe]
    cases hp : e.progress <;> simp_all [Inbound.reply]

theorem nextToServe_answered (l : List Inbound) (hl : ∀ e ∈ l, e.reply.isSome = true ∧ e.restart = false) :
    nextToServe l = none := by
  induction l with
  | nil => rfl
  | cons e l ih =>
    have he := hl e (by simp)
    have := ih (fun e' h' => hl e' (by simp [h']))
    simp only [nextToServe]
    cases hp : e.progress <;> simp_all [Inbound.reply]

theorem updateInbound_append (l : List Inbound) (x : Inbound) (f : Inbound → Inbound)
    (hl : ∀ e ∈ l, e.arrival < x.arrival) :
    (l ++ [x]).map (fun e => if e.arrival == x.arrival then f e else e) = l ++ [f x] := by
  have : l.map (fun e => if e.arrival == x.arrival then f e else e) = l := by
    conv_rhs => rw [← List.map_id l]
    apply List.map_congr_left
    intro e he
    have := hl e he
    have hne : ¬ e.arrival = x.arrival := by omega
    simp [hne]
  rw [List.map_append, this]
  simp

/-- R180: where no request waits whose turn has come, none is served. -/
theorem serveAll_caughtUp (n : Nat) (s : State) (hs : s.caughtUp) : s.serveAll n = s := by
  cases n with
  | zero => rfl
  | succ n => simp only [State.caughtUp] at hs; simp [State.serveAll, hs]

theorem serveWaiting_caughtUp (s : State) (hs : s.caughtUp) : s.serveWaiting = s := serveAll_caughtUp _ s hs

/-- R180: a request that is ready is served on the state in which its frame has just arrived, and nothing after it. -/
theorem request_ready (h : ReqHead) (r : Request) (s : State) (hr : s.ready)
    (hi : ((ReqHead.frame h r).owner (s.arrives h r)).1.work.hlu.inbound = (s.arrives h r).work.hlu.inbound) :
    let o := (ReqHead.frame h r).owner (s.arrives h r)
    s.request h r = .next ((s.arrives h r).serve (placeOf h r s)).finish ∧
      ((s.arrives h r).serve (placeOf h r s)).work =
        { o.1.work with hlu :=
            { o.1.work.hlu with inbound := s.work.hlu.inbound ++ [Inbound.served o.2 (placeOf h r s)] } } := by
  intro o
  have hn := nextToServe_append s.work.hlu.inbound (placeOf h r s) rfl fun e he => ⟨(hr.2 e he).1, (hr.2 e he).2.1⟩
  have hin := arrives_inbound h r s hr.1
  have hw : ((s.arrives h r).serve (placeOf h r s)).work =
        { o.1.work with hlu :=
            { o.1.work.hlu with inbound := s.work.hlu.inbound ++ [Inbound.served o.2 (placeOf h r s)] } } := by
    have hu := fun f => updateInbound_append s.work.hlu.inbound (placeOf h r s) f fun e he => (hr.2 e he).2.2
    simp only [State.serve, State.mapHlu_work, Hlu.updateInbound]
    rw [show (placeOf h r s).frame = ReqHead.frame h r from rfl, hi, hin, hu]
  refine ⟨?_, hw⟩
  have hc : ((s.arrives h r).serve (placeOf h r s)).caughtUp := by
    simp only [State.caughtUp, hw]
    have : ∀ l : List Inbound, (∀ e ∈ l, e.reply.isSome = true ∧ e.restart = false) →
        nextToServe (l ++ [Inbound.served o.2 (placeOf h r s)]) = none := by
      intro l hl
      induction l with
      | nil => cases o.2 <;> simp [nextToServe, Inbound.served, Inbound.answer]
      | cons e l ih =>
        have he := hl e (by simp)
        have := ih fun e' h' => hl e' (by simp [h'])
        simp only [List.cons_append, nextToServe]
        cases hp : e.progress <;> simp_all [Inbound.reply]
    exact this _ fun e he => ⟨(hr.2 e he).1, (hr.2 e he).2.1⟩
  have hs : (s.arrives h r).serveWaiting = (s.arrives h r).serve (placeOf h r s) := by
    simp only [State.serveWaiting, hin, List.length_append, List.length_cons, List.length_nil, State.serveAll, hn]
    exact serveAll_caughtUp _ _ hc
  simp only [State.request, hs, State.done]

theorem pump_work (h : Hlu) : h.pump = { h with tx := h.tx.or h.nextSending } := by
  obtain ⟨⟩ := h
  rename_i tx _
  cases tx <;> rfl

theorem nextSending_tx (h : Hlu) (t : Option Sending) : ({ h with tx := t } : Hlu).nextSending = h.nextSending := rfl

/-- R180: what a served request leaves: its owner's state, with its entry answered; only the inbound queue and the
transmitter differ from what the owner left. -/
theorem request_served (h : ReqHead) (r : Request) (s : State) (rep : Reply) (hr : s.ready)
    (ho : ((ReqHead.frame h r).owner (s.arrives h r)).2 = some rep)
    (hi : ((ReqHead.frame h r).owner (s.arrives h r)).1.work.hlu.inbound = (s.arrives h r).work.hlu.inbound) :
    let u := ((ReqHead.frame h r).owner (s.arrives h r)).1
    ∃ t, s.request h r = .next t ∧ t.replyTo s.work.hlu.arrivals = some rep ∧
      t.base = u.base ∧ t.scd = u.scd ∧ t.pending = u.pending ∧
      t.work = { u.work with hlu := { u.work.hlu with inbound := t.work.hlu.inbound, tx := t.work.hlu.tx } } ∧
      t.work.hlu.tx = u.work.hlu.tx.or t.work.hlu.nextSending ∧
      t.work.hlu.inbound =
        s.work.hlu.inbound ++ [(placeOf h r s).answer (ReqHead.frame h r == .request .restart) rep] := by
  intro u
  obtain ⟨h1, h2⟩ := request_ready h r s hr hi
  rw [ho] at h2
  refine ⟨_, h1, ?_, ?_, ?_, ?_, ?_, ?_, ?_⟩
  · simp only [State.replyTo, State.finish_work, h2, pump_work]
    rw [List.find?_append]
    have hnone : s.work.hlu.inbound.find? (fun e => e.arrival == s.work.hlu.arrivals) = none := by
      apply List.find?_eq_none.mpr
      intro e he
      have := (hr.2 e he).2.2
      simp; omega
    simp [hnone, Inbound.served, Inbound.answer, placeOf, Inbound.reply]
  · rfl
  · rfl
  · rfl
  · simp only [State.finish_work, h2, pump_work]; rfl
  · simp only [State.finish_work, h2, pump_work]; rfl
  · simp only [State.finish_work, h2, pump_work]; rfl

theorem owner_misfit (h : ReqHead) (r : Request) (s : State) (n : Nat) (hm : h.misfit = some n) :
    (ReqHead.frame h r).owner s = (s, some ⟨.badLength, [], .length n⟩) := by simp [ReqHead.frame, hm, Frame.owner]

theorem owner_fits (h : ReqHead) (r : Request) (s : State) (hm : h.misfit = none) :
    (ReqHead.frame h r).owner s = Request.owner r s := by simp [ReqHead.frame, hm, Frame.owner]

/-- R180: a request whose owner answers and leaves its state as it found it changes nothing but the link. -/
theorem request_reads (h : ReqHead) (r : Request) (s : State) (rep : Reply) (hr : s.ready)
    (ho : (ReqHead.frame h r).owner (s.arrives h r) = (s.arrives h r, some rep)) :
    ∃ t, s.request h r = .next t ∧ s.onlyRead h r t ∧ t.replyTo s.work.hlu.arrivals = some rep := by
  obtain ⟨t, h1, h2, hb, hs, hp, hw, ht, hin⟩ := request_served h r s rep hr (by rw [ho]) (by rw [ho])
  simp only [ho] at hb hs hp hw ht
  refine ⟨t, h1, ⟨hb, hs, hp, ?_, ⟨_, hin, rfl⟩, ?_, ?_⟩, h2⟩
  · rw [hw]
    have := arrives_settled h r s
    exact this
  · rw [ht, arrives_tx]
  · intro hd
    rw [hw, arrives_fresh h r s hr.1 hd]

end Sys2Proof.Machine
end

