-- ==== Sys2Proof/Laws/Loaded.lean ====
section
/-!
SUPPORT. What the events of the timebase, the field and the host leave as it is: `Work.steady` is unchanged by each
operation on records, rules' holders, cues and boards. One lemma for each operation.
-/

namespace Sys2Proof.Machine

/-- What no event changes, the Host Link Unit's queues, counts and transmitter included. -/
def Work.steady (w : Work) : Work := { w.loaded with hlu := { w.hlu.kept with feedCount := 0, degraded := false } }

theorem steady_loaded {w v : Work} (h : w.steady = v.steady) : w.loaded = v.loaded := by
  have h0 := congrArg (fun k : Work => (k.hlu.mask, k.hlu.feedTimeout)) h
  have h1 : (w.hlu.mask, w.hlu.feedTimeout) = (v.hlu.mask, v.hlu.feedTimeout) := h0
  have hm : w.hlu.mask = v.hlu.mask := congrArg Prod.fst h1
  have hf : w.hlu.feedTimeout = v.hlu.feedTimeout := congrArg Prod.snd h1
  have h2 := congrArg (fun k : Work => { k with hlu := { Hlu.reset with mask := v.hlu.mask, feedTimeout := v.hlu.feedTimeout } }) h
  have hw : ∀ u : Work, u.loaded =
      { u.steady with hlu := { Hlu.reset with mask := u.hlu.mask, feedTimeout := u.hlu.feedTimeout } } := fun _ => rfl
  rw [hw w, hw v, hm, hf]
  exact h2

theorem steady_inbound {w v : Work} (h : w.steady = v.steady) : w.hlu.inbound = v.hlu.inbound := by
  have := congrArg (fun k : Work => k.hlu.inbound) h
  exact this

theorem kept_steady {w v : Work} (h : w.kept = v.kept) : w.steady = v.steady := by
  have h1 := congrArg (fun k : Work => k.hlu) h
  have h1 : w.hlu.kept = v.hlu.kept := h1
  simp only [Work.steady, settled_loaded (kept_settled h), h1]

theorem steady_foldl {α : Type} (f : Work → α → Work) (h : ∀ w a, (f w a).steady = w.steady) (l : List α) (w : Work) :
    (l.foldl f w).steady = w.steady := by
  induction l generalizing w with
  | nil => rfl
  | cons a l ih => rw [List.foldl_cons, ih, h]

/-! ### Records -/

theorem Svt.update_other (key : Key) (f : Service → Service) (v : Svt) :
    ({ v.update key f with services := [] } : Svt) = { v with services := [] } := rfl

theorem Work.updateService_steady (key : Key) (f : Service → Service) (w : Work) :
    (w.updateService key f).steady = w.steady := rfl

theorem Work.recordChange_steady (b : Base) (key : Key) (ms : List Mark) (w : Work) :
    (w.recordChange b key ms).steady = w.steady := kept_steady (Work.recordChange_kept ..)

theorem Work.mapNre_steady (f : Nre → Nre) (w : Work) (h : (f w.nre).rules = w.nre.rules) :
    (w.mapNre f).steady = w.steady := by
  simp only [Work.steady, Work.loaded, Work.settled, Work.kept, Work.mapNre, Nre.kept, h]

theorem Work.releaseHead_steady (b : Base) (key : Key) (h : Nat) (w : Work) :
    (w.releaseHead b key h).steady = w.steady := kept_steady (Work.releaseHead_kept ..)

theorem Work.withdraw_steady (b : Base) (p : CueEntry → Bool) (w : Work) : (w.withdraw b p).steady = w.steady :=
  kept_steady (Work.withdraw_kept ..)

theorem Work.deriveWith_steady (b : Base) (o : Option (List Nat)) (ex : List Nat) (ev : List (Key × BitVec 32 × Bool))
    (p : Nat → Bool) (w : Work) : (w.deriveWith b o ex ev p).steady = w.steady := kept_steady (Work.deriveWith_kept ..)

theorem Work.freeRecord_steady (b : Base) (w : Work) (key : Key) : (w.freeRecord b key).steady = w.steady := by
  unfold Work.freeRecord
  split
  · rfl
  · simp only
    rw [Work.deriveWith_steady, kept_steady (Work.unlist_kept ..), Work.withdraw_steady, Work.mapNre_steady _ _ rfl,
      steady_foldl _ (fun w h => Work.releaseHead_steady b key h w)]
    rfl

theorem Work.applyStaged_steady (b : Base) (w : Work) (key : Key) : (w.applyStaged b key).steady = w.steady := by
  unfold Work.applyStaged
  split
  · split
    · split
      · rw [Work.recordChange_steady, Work.updateService_steady]
      · rfl
    · rfl
  · rfl

theorem Work.applyStagedAll_steady (b : Base) (w : Work) : (w.applyStagedAll b).steady = w.steady :=
  steady_foldl _ (Work.applyStaged_steady b) _ w

theorem Work.endTimer_steady (b : Base) (w : Work) (key : Key) : (w.endTimer b key).steady = w.steady := by
  rw [Work.endTimer, Work.recordChange_steady, Work.updateService_steady]

theorem Work.countTimers_steady (b : Base) (w : Work) : (w.countTimers b).steady = w.steady := by
  simp only [Work.countTimers]
  rw [steady_foldl _ (fun w key => by split <;> simp [Work.endTimer_steady])]
  rfl

theorem Work.age_steady (b : Base) (w : Work) : (w.age b).steady = w.steady :=
  steady_foldl _ (Work.freeRecord_steady b) _ w

theorem Work.raise_steady (r : ReportBody) (w : Work) : (w.raise r).steady = w.steady := kept_steady (Work.raise_kept ..)

theorem Work.raiseAll_steady (rs : List ReportBody) (w : Work) : (w.raiseAll rs).steady = w.steady :=
  kept_steady (Work.raiseAll_kept ..)

theorem Work.dispatch_steady (b : Base) (line p : Nat) (w : Work) : (w.dispatch b line p).1.steady = w.steady := by
  unfold Work.dispatch
  split
  · simp only
    rw [Work.raise_steady, Work.recordChange_steady, Work.updateService_steady]
  · exact Work.raise_steady _ _

theorem Work.evict_steady (b : Base) (x : Service) (w : Work) : (w.evict b x).steady = w.steady := by
  rw [Work.evict, Work.raise_steady, Work.freeRecord_steady]

/-! ### Timebase events -/

theorem Work.serviceSecond_steady (b : Base) (w : Work) : (w.serviceSecond b).steady = w.steady := by
  rw [Work.serviceSecond, Work.countTimers_steady, Work.applyStagedAll_steady]

theorem Work.serviceStep_steady (b : Base) (w : Work) : (w.serviceStep b).steady = w.steady := by
  rw [Work.serviceStep, Work.age_steady, Work.applyStagedAll_steady]

theorem Work.serviceChangeover_steady (b : Base) (w : Work) : (w.serviceChangeover b).steady = w.steady := by
  simp only [Work.serviceChangeover]
  rw [steady_foldl _ (fun w key => Work.recordChange_steady b key _ w)]
  rfl

theorem Work.noticeSecond_steady (b : Base) (w : Work) : (w.noticeSecond b).steady = w.steady := by
  simp only [Work.noticeSecond]
  rw [steady_foldl _ (fun w i => by split <;> simp [kept_steady (Work.expireSlot_kept b i w)]),
    Work.mapNre_steady _ _ rfl, kept_steady (Work.evaluateTimed_kept ..), Work.mapNre_steady _ _ rfl]

theorem Work.noticeStep_steady (b : Base) (w : Work) : (w.noticeStep b).steady = w.steady := by
  simp only [Work.noticeStep]
  rw [Work.mapNre_steady _ _ rfl]
  exact steady_foldl _ (fun w key => kept_steady (Work.evaluateTell_kept ..)) _ _

theorem Work.mapCuc_steady (f : Cuc → Cuc) (w : Work)
    (h : ({ (f w.cuc).kept with resume := 0 } : Cuc) = { w.cuc.kept with resume := 0 }) :
    (w.mapCuc f).steady = w.steady := by
  simp only [Work.steady, Work.loaded, Work.settled, Work.kept, Work.mapCuc, h]

theorem Work.select_steady (b : Base) (w : Work) : (w.select b).steady = w.steady := kept_steady (Work.select_kept ..)

theorem Work.cueSecond_steady (b : Base) (w : Work) : (w.cueSecond b).steady = w.steady := by
  rw [Work.cueSecond, Work.select_steady, Work.mapCuc_steady _ _ rfl, kept_steady (Work.expireCues_kept ..)]

theorem Work.secondBlocks_steady (b : Base) (w : Work) : (w.secondBlocks b).steady = w.steady := by
  rw [Work.secondBlocks, Work.cueSecond_steady, Work.noticeSecond_steady, kept_steady (Work.boardSecond_kept ..),
    Work.serviceSecond_steady]

theorem Work.stepBlocks_steady (b : Base) (w : Work) : (w.stepBlocks b).steady = w.steady := by
  rw [Work.stepBlocks, kept_steady (Work.cueStep_kept ..), Work.noticeStep_steady, kept_steady (Work.deriveAll_kept ..),
    Work.serviceStep_steady]

theorem Work.changeover_steady (b : Base) (f : Bool) (w : Work) : (w.changeover b f).steady = w.steady := by
  rw [Work.changeover, Work.raise_steady, Work.serviceChangeover_steady, Work.cueChangeover, Work.mapCuc_steady _ _ rfl,
    Work.noticeChangeover, Work.mapNre_steady _ _ rfl]

theorem Work.loseFeed_steady (b : Base) (w : Work) : (w.loseFeed b).steady = w.steady := by
  rw [Work.loseFeed, kept_steady (Work.deriveAll_kept ..), Work.raise_steady]
  rfl

theorem Work.feedSecond_steady (b : Base) (w : Work) : (w.feedSecond b).steady = w.steady := by
  simp only [Work.feedSecond]
  split
  · split
    · exact Work.loseFeed_steady ..
    · rfl
  · rfl

theorem Work.feedEnds_steady (b : Base) (w : Work) : (w.feedEnds b).steady = w.steady := by
  unfold Work.feedEnds
  split
  · exact Work.loseFeed_steady ..
  · rfl

theorem arrives_loaded (h : ReqHead) (r : Request) (s : State) : (s.arrives h r).work.loaded = s.work.loaded :=
  settled_loaded (arrives_settled h r s)

/-! ### The state -/

theorem State.deliverSecond_steady (s : State) : s.deliverSecond.work.steady = s.work.steady := by
  simp only [State.deliverSecond]
  split
  · simp only [State.mapWork_work, State.clockEvent_work, State.mapWork_base, State.clockEvent_base]
    rw [Work.age_steady, Work.feedSecond_steady, Work.raiseAll_steady, Work.secondBlocks_steady]
  · simp only [State.mapWork_work, State.clockEvent_work, State.mapWork_base, State.clockEvent_base]
    rw [Work.feedSecond_steady, Work.raiseAll_steady, Work.secondBlocks_steady]

theorem State.secondEvent_steady (s : State) : s.secondEvent.work.steady = s.work.steady := by
  simp only [State.secondEvent]
  split
  · rw [State.deliverSecond_steady]; exact Work.changeover_steady ..
  · rw [State.deliverSecond_steady]

theorem State.stepBy_steady (d : Int) (c : StepCause) (s : State) : (s.stepBy d c).work.steady = s.work.steady := by
  have hc : (s.stepChangeover d).work.steady = s.work.steady := by
    unfold State.stepChangeover
    split
    · exact Work.changeover_steady ..
    · rfl
  simp only [State.stepBy, State.mapWork_work, State.clockEvent_work, State.mapTbs_work]
  rw [Work.raise_steady, Work.raiseAll_steady, Work.stepBlocks_steady, hc]

theorem State.setFirst_steady (h m sec ms : Nat) (s : State) : (s.setFirst h m sec ms).work.steady = s.work.steady := by
  simp only [State.setFirst, State.mapWork_work, State.clockEvent_work, State.mapTbs_work]
  rw [Work.raise_steady, Work.raiseAll_steady, Work.stepBlocks_steady]

end Sys2Proof.Machine
end

