-- ==== Sys2Proof/Laws/Events.lean ====
section
/-!
SUPPORT. What each event of the timebase and of the field leaves in the base, in the queue of commands and in the clock
lines: one lemma for each; and what dropping late cues and the marks of a record change leave.
-/

namespace Sys2Proof.Machine

/-! ### Clock lines -/

theorem mapLinesFrom_kept (f : Nat → ClockLine → ClockLine × List ReportBody)
    (h : ∀ n l, (f n l).1.kept = l.kept) (n : Nat) (ls : List ClockLine) :
    (mapLinesFrom f n ls).1.map ClockLine.kept = ls.map ClockLine.kept := by
  induction ls generalizing n with
  | nil => rfl
  | cons l ls ih => simp [mapLinesFrom, h, ih]

theorem ClockLine.start_kept (e : Nat) (l : ClockLine) : (l.start e).kept = l.kept := by
  unfold ClockLine.start; split <;> rfl

theorem ClockLine.decideFor_kept (n : Nat) (tb : Timebase) (c : ClockCause) (l : ClockLine) :
    (l.decideFor n tb c).1.kept = l.kept := rfl

theorem ClockLine.second_kept (e : Nat) (tb : Timebase) (n : Nat) (l : ClockLine) : (l.second e tb n).1.kept = l.kept := by
  unfold ClockLine.second
  split
  · split
    · rw [ClockLine.start_kept]; rfl
    · split <;> rfl
    · rfl
  · rfl

theorem ClockLine.step_kept (e : Nat) (tb : Timebase) (n : Nat) (l : ClockLine) : (l.step e tb n).1.kept = l.kept := by
  unfold ClockLine.step
  split
  · split
    · rfl
    · rw [ClockLine.start_kept, ClockLine.decideFor_kept]
  · rfl

theorem ClockLine.initialStep_kept (e : Nat) (tb : Timebase) (n : Nat) (l : ClockLine) :
    (l.initialStep e tb n).1.kept = l.kept := by
  unfold ClockLine.initialStep
  split
  · rw [ClockLine.start_kept, ClockLine.decideFor_kept]
  · rfl

/-! ### Second events and steps -/

theorem State.deliverSecond_rest (s : State) :
    s.deliverSecond.base = s.base ∧ s.deliverSecond.pending = s.pending ∧
      s.deliverSecond.scd.map ClockLine.kept = s.scd.map ClockLine.kept := by
  simp only [State.deliverSecond]
  split <;>
    (simp only [State.mapWork_base, State.clockEvent_base, State.mapWork_pending, State.clockEvent_pending,
      State.mapWork_scd, State.clockEvent_scd, true_and]
     exact mapLinesFrom_kept _ (fun _ _ => ClockLine.second_kept ..) _ _)

theorem State.secondEvent_rest (s : State) :
    s.secondEvent.base = s.base.wrap ∧ s.secondEvent.pending = s.pending ∧
      s.secondEvent.scd.map ClockLine.kept = s.scd.map ClockLine.kept := by
  simp only [State.secondEvent]
  split <;> exact State.deliverSecond_rest _

theorem State.stepChangeover_rest (d : Int) (s : State) :
    (s.stepChangeover d).base = s.base ∧ (s.stepChangeover d).pending = s.pending ∧ (s.stepChangeover d).scd = s.scd := by
  unfold State.stepChangeover
  split <;> exact ⟨rfl, rfl, rfl⟩

theorem State.stepBy_rest (d : Int) (c : StepCause) (s : State) :
    (s.stepBy d c).base = { s.base with tbs := s.base.tbs.stepped d c } ∧ (s.stepBy d c).pending = s.pending ∧
      (s.stepBy d c).scd.map ClockLine.kept = s.scd.map ClockLine.kept := by
  have h := State.stepChangeover_rest d s
  simp only [State.stepBy, State.mapWork_base, State.clockEvent_base, State.mapWork_pending, State.clockEvent_pending,
    State.mapWork_scd, State.clockEvent_scd, State.mapTbs_base, State.mapTbs_pending, State.mapTbs_scd, h, true_and]
  exact mapLinesFrom_kept _ (fun _ _ => ClockLine.step_kept ..) _ _

theorem State.setFirst_rest (h m sec ms : Nat) (s : State) :
    (s.setFirst h m sec ms).base = { s.base with tbs := s.base.tbs.setFirst h m sec ms } ∧
      (s.setFirst h m sec ms).pending = s.pending ∧
      (s.setFirst h m sec ms).scd.map ClockLine.kept = s.scd.map ClockLine.kept := by
  simp only [State.setFirst, State.mapWork_base, State.clockEvent_base, State.mapWork_pending, State.clockEvent_pending,
    State.mapWork_scd, State.clockEvent_scd, State.mapTbs_base, State.mapTbs_pending, State.mapTbs_scd, true_and]
  exact mapLinesFrom_kept _ (fun _ _ => ClockLine.initialStep_kept ..) _ _

/-! ### The field -/

theorem State.followOverride_rest (was : Bool) (c : OverrideCause) (s : State) :
    (s.followOverride was c).base = s.base ∧ (s.followOverride was c).pending = s.pending ∧
      (s.followOverride was c).scd = s.scd ∧ (s.followOverride was c).work.kept = s.work.kept := by
  simp only [State.followOverride]
  split
  · simp only [State.mapWork_base, State.mapWork_pending, State.mapWork_scd, State.mapWork_work, Work.overrideEntry_kept,
      Work.raise_kept, true_and]
  · split
    · simp only [State.mapWork_base, State.mapWork_pending, State.mapWork_scd, State.mapWork_work, Work.overrideExit_kept,
        Work.raise_kept, true_and]
    · simp only [true_and]

theorem State.settleOverride_rest (c : OverrideCause) (s : State) :
    (s.settleOverride c).base = { s.base with fiu := s.base.fiu.recompute } ∧ (s.settleOverride c).pending = s.pending ∧
      (s.settleOverride c).scd = s.scd ∧ (s.settleOverride c).work.kept = s.work.kept :=
  State.followOverride_rest ..

theorem State.force_rest (on : Bool) (c : OverrideCause) (s : State) :
    (s.force on c).base = { s.base with fiu := ({ s.base.fiu with forced := on } : Fiu).recompute } ∧
      (s.force on c).pending = s.pending ∧ (s.force on c).scd = s.scd ∧ (s.force on c).work.kept = s.work.kept :=
  State.settleOverride_rest ..

/-- The filtered level changed, marked and reported; nothing delivered yet. -/
theorem State.takeEdge_eq (n : Nat) (v : Level) (s : State) :
    s.takeEdge n v =
      (let s1 := s.setLine n fun l => { l with filtered := v, disagree := 0, mark := true }
       if (s1.line n).reports then
         (s1.mapWork (Work.raise (.inputEdge n (s1.line n).role (s1.line n).isActive s1.base.tbs.edgeTime))).deliverEdge n
       else s1.deliverEdge n) := by
  simp only [State.takeEdge]
  split <;> rfl

/-! ### Waiting cues dropped (R137, R148) -/

theorem Work.dropEntry_queue (e : CueEntry) (r : DropReason) (w : Work) :
    (w.dropEntry e r).cuc.queue = w.cuc.queue.filter fun q => q.seq != e.seq := rfl

/-- The queue after the entries `es` have been dropped, one after the other. -/
theorem dropEach_queue (r : DropReason) (es : List CueEntry) (w : Work) :
    (es.foldl (fun w e => w.dropEntry e r) w).cuc.queue = w.cuc.queue.filter fun q => es.all fun e => q.seq != e.seq := by
  induction es generalizing w with
  | nil => simp
  | cons e es ih =>
    rw [List.foldl_cons, ih, Work.dropEntry_queue, List.filter_filter]
    congr 1
    funext q
    simp [Bool.and_comm]

/-- No waiting entry that satisfies `p` is left, and no entry is new. -/
theorem Work.dropWaiting_left (p : CueEntry → Bool) (r : DropReason) (w : Work) :
    ∀ e ∈ (w.dropWaiting p r).cuc.queue, e ∈ w.cuc.queue ∧ (e.isWaiting = true → p e = false) := by
  intro e he
  rw [Work.dropWaiting, dropEach_queue, List.mem_filter, List.all_eq_true] at he
  refine ⟨he.1, fun hw => Bool.eq_false_iff.mpr fun hp => ?_⟩
  simpa using he.2 e (List.mem_filter.mpr ⟨he.1, by simp [hw, hp]⟩)

/-- R137: no waiting cue whose latest start is below t is left. -/
theorem Work.expireCues_left (b : Base) (w : Work) :
    ∀ e ∈ (w.expireCues b).cuc.queue, e.isWaiting = true → b.tbs.t ≤ e.latest := by
  intro e he hw
  simpa using (w.dropWaiting_left _ _ e he).2 hw

/-! ### The marks of a record change event at the watch slots (R114) -/

/-- An event without a platform change at most restarts the TIMEOUT slots of its service. -/
theorem Work.applyMarks_slots (b : Base) (key : Key) (ms : List Mark) (w : Work) (h : ms.contains .platformChange = false) :
    (w.applyMarks b key ms).nre.slots =
      if ms.contains .expectedCarried = true then
        w.nre.slots.map (Option.map fun s => if s.key == key then restartSlot s else s)
      else w.nre.slots := by
  unfold Work.applyMarks
  simp only [h, Bool.false_eq_true, if_false]
  split <;> rfl

end Sys2Proof.Machine
end

