-- ==== Sys2Proof/Laws/Reports.lean ====
section
/-!
SUPPORT. What each operation of an event does to the report queue (R182): it takes no report away, and those it puts behind the
others are of the classes its blocks raise. One lemma for each operation; a prover cites it in place of unfolding the operation.
-/

namespace Sys2Proof.Machine

/-- Reports of the classes `P` behind those of before, and none taken away; a report once lost is not found again. -/
structure Work.Grows (P : ReportClass → Prop) (w u : Work) : Prop where
  reports : ∃ new, u.hlu.reports = w.hlu.reports ++ new ∧ ∀ r ∈ new, P r.body.cls
  lost : u.hlu.lost = false → w.hlu.lost = false

variable {P : ReportClass → Prop}

theorem grows_of_rep {w u : Work} (h : u.hlu.reports = w.hlu.reports) (k : u.hlu.lost = w.hlu.lost) : w.Grows P u :=
  ⟨⟨[], by rw [h, List.append_nil], fun _ hr => absurd hr List.not_mem_nil⟩, fun e => k ▸ e⟩

theorem grows_of_hlu {w u : Work} (h : u.hlu = w.hlu) : w.Grows P u := grows_of_rep (by rw [h]) (by rw [h])

theorem grows_refl (w : Work) : w.Grows P w := grows_of_hlu rfl

theorem grows_trans {w v u : Work} (h : w.Grows P v) (k : v.Grows P u) : w.Grows P u := by
  obtain ⟨⟨xs, hx, hP⟩, hl⟩ := h
  obtain ⟨⟨ys, hy, kP⟩, kl⟩ := k
  refine ⟨⟨xs ++ ys, by rw [hy, hx, List.append_assoc], fun r hr => ?_⟩, fun e => hl (kl e)⟩
  exact (List.mem_append.mp hr).elim (hP r) (kP r)

theorem grows_foldl {α : Type} {f : Work → α → Work} (h : ∀ (w : Work) a, Work.Grows P w (f w a)) (l : List α)
    (w : Work) : w.Grows P (l.foldl f w) := by
  induction l generalizing w with
  | nil => exact grows_refl w
  | cons a l ih => exact grows_trans (h w a) (ih _)

/-- A write of another part of the work before `u`. -/
theorem grows_step {w v u : Work} (k : v.Grows P u) (h : v.hlu = w.hlu) : w.Grows P u := grows_trans (grows_of_hlu h) k

theorem grows_ite {c : Prop} [Decidable c] {w u v : Work} (h : w.Grows P u) (k : w.Grows P v) :
    w.Grows P (if c then u else v) := by split <;> assumption

/-- A report raised stands where it was raised, as long as none is lost. -/
theorem grows_raised {w u : Work} {r : ReportBody} (h : (w.raise r).Grows P u) (hm : w.hlu.mask.contains r.cls = true)
    (hl : u.hlu.lost = false) : ∃ rep ∈ u.hlu.reports, rep.body = r := by
  obtain ⟨⟨xs, hx, -⟩, hk⟩ := h
  have hl : (w.hlu.raise r).lost = false := hk hl
  have hx : u.hlu.reports = (w.hlu.raise r).reports ++ xs := hx
  simp only [Hlu.raise, hm, if_true] at hl hx
  split at hl
  · rename_i hlen
    simp only [hlen, if_true] at hx
    exact ⟨⟨w.hlu.number + 1, r.cls, r⟩, by rw [hx]; simp, rfl⟩
  · cases hl

/-! ### Reports and cues -/

theorem Work.raise_grows {r : ReportBody} (h : P r.cls) (w : Work) : w.Grows P (w.raise r) := by
  have hw : (w.raise r).hlu = w.hlu.raise r := rfl
  unfold Hlu.raise at hw
  split at hw
  · split at hw
    · refine ⟨⟨[⟨w.hlu.number + 1, r.cls, r⟩], by rw [hw], fun x hx => ?_⟩, fun e => by rw [hw] at e; exact e⟩
      rw [List.mem_singleton.mp hx]; exact h
    · exact ⟨⟨[], by rw [hw, List.append_nil], fun _ hr => absurd hr List.not_mem_nil⟩, fun e => by rw [hw] at e; cases e⟩
  · exact grows_of_rep (by rw [hw]) (by rw [hw])

theorem Work.raiseAll_grows {rs : List ReportBody} (h : ∀ r ∈ rs, P r.cls) (w : Work) : w.Grows P (w.raiseAll rs) := by
  unfold Work.raiseAll
  induction rs generalizing w with
  | nil => exact grows_refl w
  | cons r rs ih =>
    exact grows_trans (w.raise_grows (h r (List.mem_cons_self ..))) (ih (fun x hx => h x (List.mem_cons_of_mem _ hx)) _)

theorem Work.dropEntry_grows (hc : P .cue) (e : CueEntry) (r : DropReason) (w : Work) : w.Grows P (w.dropEntry e r) :=
  grows_step (Work.raise_grows hc _) rfl

theorem Work.dropWaiting_grows (hc : P .cue) (p : CueEntry → Bool) (r : DropReason) (w : Work) :
    w.Grows P (w.dropWaiting p r) := grows_foldl (fun w e => w.dropEntry_grows hc e r) _ _

theorem Work.takeEntry_grows (hc : P .cue) (b : Base) (e : CueEntry) (w : Work) : w.Grows P (w.takeEntry b e) := by
  unfold Work.takeEntry
  split
  · exact w.dropEntry_grows hc ..
  · split
    · exact grows_of_hlu rfl
    · split
      · exact w.dropEntry_grows hc ..
      · exact grows_of_hlu rfl

theorem Work.selectFrom_grows (hc : P .cue) (b : Base) (es : List CueEntry) (w : Work) :
    w.Grows P (Work.selectFrom b es w) := by
  induction es generalizing w with
  | nil => exact grows_refl w
  | cons e es ih => unfold Work.selectFrom; exact grows_ite (grows_trans (w.takeEntry_grows hc b e) (ih _)) (grows_refl w)

theorem Work.select_grows (hc : P .cue) (b : Base) (w : Work) : w.Grows P (w.select b) :=
  grows_ite (w.selectFrom_grows hc b _) (grows_refl w)

theorem Work.enqueue_grows (hc : P .cue) (b : Base) (n : Nat) (k : Option Key) (s : CueSource) (w : Work) :
    w.Grows P (w.enqueue b n k s).1 := by
  have hr : ∀ r, w.Grows P ((w.raise (refusal n k s r)).select b) := fun r =>
    grows_trans (Work.raise_grows hc w) (Work.select_grows hc b _)
  unfold Work.enqueue
  simp only
  repeat' split
  all_goals first
    | exact hr _
    | exact grows_step (Work.select_grows hc b _) rfl
    | exact grows_trans (w.dropEntry_grows hc ..) (grows_step (Work.select_grows hc b _) rfl)

theorem Work.withdraw_grows (hc : P .cue) (b : Base) (p : CueEntry → Bool) (w : Work) : w.Grows P (w.withdraw b p) :=
  grows_step (Work.select_grows hc b _) rfl

theorem Work.confirmChanges_grows (hc : P .cue) (b : Base) (evs : List (Key × BitVec 32 × Bool)) (w : Work) :
    w.Grows P (w.confirmChanges b evs) :=
  grows_ite (grows_refl w) (grows_trans (grows_foldl (fun w _ => grows_of_hlu (u := w.mapCuc _) rfl) _ w)
    (Work.select_grows hc b _))

theorem Work.expireCues_grows (hc : P .cue) (b : Base) (w : Work) : w.Grows P (w.expireCues b) := w.dropWaiting_grows hc ..

theorem Work.cueSecond_grows (hc : P .cue) (b : Base) (w : Work) : w.Grows P (w.cueSecond b) :=
  grows_trans (w.expireCues_grows hc b) (grows_step (Work.select_grows hc b _) rfl)

theorem Work.cueStep_grows (hc : P .cue) (b : Base) (w : Work) : w.Grows P (w.cueStep b) :=
  grows_trans (w.expireCues_grows hc b) (Work.select_grows hc b _)

/-! ### Strings, rows and derivations -/

theorem Work.offer_grows (b : Base) (s a : Nat) (c : RowContent) (w : Work) : w.Grows P (w.offer b s a c).1 := by
  unfold Work.offer
  simp only
  split <;> exact grows_of_hlu rfl

theorem Work.offerDesired_grows (b : Base) (rec : BoardRec) (r : Nat) (w : Work) : w.Grows P (w.offerDesired b rec r) := by
  unfold Work.offerDesired
  simp only
  split
  all_goals exact grows_trans (w.offer_grows ..) (grows_of_hlu rfl)

theorem Work.offerRow_grows (b : Base) (bd : Board) (w : Work) (r : Nat) : w.Grows P (w.offerRow b bd r) := by
  unfold Work.offerRow
  simp only
  repeat' split
  all_goals first
    | exact grows_refl w
    | exact w.offerDesired_grows ..
    | exact grows_of_hlu rfl
    | exact grows_step (Work.offer_grows ..) rfl

theorem Work.guardReleases_grows (bd : Board) (w : Work) : w.Grows P (w.guardReleases bd) := by
  have hr : ∀ (w : Work) (r : Nat), w.Grows P (w.guardRow bd r) := by
    intro w r
    unfold Work.guardRow
    simp only
    split
    · split
      · exact grows_foldl (fun w _ => grows_of_hlu (u := w.setCell ..) rfl) _ _
      · exact grows_refl w
    · exact grows_refl w
  exact grows_foldl (fun w _ => grows_foldl hr _ w) _ _

theorem Work.offerRows_grows (b : Base) (n : Nat) (w : Work) : w.Grows P (w.offerRows b n) := by
  unfold Work.offerRows
  split
  · exact grows_trans (w.guardReleases_grows _) (grows_foldl (fun w r => w.offerRow_grows b _ r) _ _)
  · exact grows_refl w

theorem Work.refreshConfirmations_grows (hc : P .cue) (b : Base) (ev : List (Key × BitVec 32 × Bool)) (w : Work) :
    w.Grows P (w.refreshConfirmations b ev) := grows_step (Work.confirmChanges_grows hc ..) rfl

theorem Work.deriveRow_grows (b : Base) (bd : Board) (o : Option (List Nat)) (w : Work) (r : Nat) :
    w.Grows P (w.deriveRow b bd o r) := by
  unfold Work.deriveRow
  simp only
  split <;> exact grows_of_hlu rfl

theorem Work.releaseRow_grows (bd : Board) (e ret : Bool) (w : Work) (r : Nat) :
    w.Grows P (w.releaseRow bd e ret r) := grows_of_hlu rfl

theorem Work.deriveBoard_grows (b : Base) (o : Option (List Nat)) (e : Bool) (n : Nat) (w : Work) :
    w.Grows P (w.deriveBoard b o e n) := by
  unfold Work.deriveBoard
  split
  · have hd : ∀ (v : Work) (bd : Board), v.Grows P (bd.record.rowList.foldl (Work.deriveRow b bd o) v) := fun v bd =>
      grows_foldl (fun v r => v.deriveRow_grows b bd o r) _ v
    have hr : ∀ (v : Work) (bd : Board) (ret : Bool), v.Grows P (bd.record.rowList.foldl (Work.releaseRow bd e ret) v) :=
      fun v bd ret => grows_foldl (fun v r => v.releaseRow_grows bd e ret r) _ v
    dsimp only
    refine grows_trans (grows_trans ?_ (hr _ _ _)) (Work.offerRows_grows ..)
    exact grows_step (hd _ _) rfl
  · exact grows_refl w

theorem Work.deriveWith_grows (hc : P .cue) (b : Base) (o : Option (List Nat)) (ex : List Nat)
    (ev : List (Key × BitVec 32 × Bool)) (p : Nat → Bool) (w : Work) : w.Grows P (w.deriveWith b o ex ev p) :=
  grows_trans (grows_foldl (fun w _ => grows_ite (w.deriveBoard_grows ..) (grows_refl w)) _ w)
    (Work.refreshConfirmations_grows hc ..)

theorem Work.derive_grows (hc : P .cue) (b : Base) (p : Nat → Bool) (w : Work) : w.Grows P (w.derive b p) :=
  w.deriveWith_grows hc ..

theorem Work.boardChange_grows (hc : P .cue) (b : Base) (key : Key) (p : Bool) (w : Work) :
    w.Grows P (w.boardChange b key p) := by
  have h : ∀ (v : Work) (q : Nat → Bool), v.hlu = w.hlu →
      w.Grows P (if presentationOf b = .normal then v.derive b q else v) := fun v q h =>
    grows_step (grows_ite (v.derive_grows hc b q) (grows_refl v)) h
  exact h _ _ (by split <;> rfl)

theorem Work.countPage_grows (ends : List Nat) (w : Work) (n : Nat) : w.Grows P (w.countPage ends n) := by
  unfold Work.countPage
  split
  · exact grows_of_hlu rfl
  · exact grows_refl w

theorem Work.boardSecond_grows (hc : P .cue) (b : Base) (w : Work) : w.Grows P (w.boardSecond b) := by
  have hp : ∀ (v : Work) ends, v.Grows P ((List.range 16).foldl (Work.countPage ends) v) := fun v ends =>
    grows_foldl (fun v n => v.countPage_grows ends n) _ v
  exact grows_trans (grows_step (hp w.lowerFlashes _) rfl) (Work.deriveWith_grows hc ..)

theorem Work.textChange_grows (hc : P .cue) (b : Base) (c : List Nat) (w : Work) : w.Grows P (w.textChange b c) :=
  w.deriveWith_grows hc ..

/-! ### Notices -/

theorem Work.startWatch_grows (hw : P .watch) (h : Nat) (key : Key) (wt : Watch) (w : Work) :
    w.Grows P (w.startWatch h key wt) := by
  unfold Work.startWatch
  split
  · exact grows_of_hlu rfl
  · exact Work.raise_grows hw w

theorem Work.riseEdge_grows (hc : P .cue) (hw : P .watch) (hr : P .rule) (b : Base) (loud : Bool) (key : Key) (w : Work)
    (h : Nat) : w.Grows P (w.riseEdge b loud key h) := by
  unfold Work.riseEdge
  split
  · exact grows_refl w
  · rename_i r _
    have hrep : ∀ v : Work, w.Grows P v →
        w.Grows P (if (loud && r.report) = true then v.raise (.ruleHolds h r.priority key b.tbs.t) else v) := fun v k =>
      grows_trans k (grows_ite (Work.raise_grows hr v) (grows_refl v))
    refine hrep _ ?_
    split
    · split
      · refine grows_trans ?_ (Work.enqueue_grows hc ..)
        split
        · exact grows_step (Work.startWatch_grows hw ..) rfl
        · exact grows_of_hlu rfl
      · split
        · exact grows_step (Work.startWatch_grows hw ..) rfl
        · exact grows_of_hlu rfl
    · split
      · exact grows_step (Work.startWatch_grows hw ..) rfl
      · exact grows_of_hlu rfl

theorem Work.releaseHead_grows (hc : P .cue) (b : Base) (key : Key) (h : Nat) (w : Work) :
    w.Grows P (w.releaseHead b key h) := by
  unfold Work.releaseHead
  simp only
  split
  · exact grows_step (Work.withdraw_grows hc ..) rfl
  · exact grows_of_hlu rfl

theorem Work.fallEdge_grows (hc : P .cue) (b : Base) (key : Key) (w : Work) (h : Nat) : w.Grows P (w.fallEdge b key h) :=
  grows_step (Work.releaseHead_grows hc ..) rfl

theorem Work.tell_grows (hc : P .cue) (b : Base) (t : Told) (w : Work) : w.Grows P (w.tell b t) :=
  grows_ite (grows_refl w) (w.derive_grows hc ..)

theorem Work.evaluate_grows (hc : P .cue) (hw : P .watch) (hr : P .rule) (b : Base) (g : Rule → Bool) (loud : Bool) (a c : Int)
    (key : Key) (w : Work) : w.Grows P (w.evaluate b g loud a c key) := by
  unfold Work.evaluate
  split
  · exact grows_refl w
  · exact grows_trans (grows_foldl (fun w h => w.fallEdge_grows hc b key h) _ _)
      (grows_foldl (fun w h => w.riseEdge_grows hc hw hr b loud key h) _ _)

theorem Work.evaluateTell_grows (hc : P .cue) (hw : P .watch) (hr : P .rule) (b : Base) (g : Rule → Bool) (loud : Bool)
    (a c : Int) (w : Work) (key : Key) : w.Grows P (w.evaluateTell b g loud a c key) :=
  grows_trans (w.evaluate_grows hc hw hr ..) (Work.tell_grows hc ..)

theorem Work.flagChange_grows (hc : P .cue) (hw : P .watch) (hr : P .rule) (b : Base) (key : Key) (w : Work) :
    w.Grows P (w.flagChange b key) := grows_trans (w.boardChange_grows hc ..) (Work.evaluateTell_grows hc hw hr ..)

theorem Work.expireSlot_grows (hc : P .cue) (hw : P .watch) (hr : P .rule) (b : Base) (i : Nat) (w : Work) :
    w.Grows P (w.expireSlot b i) := by
  unfold Work.expireSlot
  split
  · refine grows_ite ?_ ?_
    · exact grows_trans (grows_step (Work.raise_grows hw _) rfl) (grows_step (Work.flagChange_grows hc hw hr ..) rfl)
    · exact grows_trans (grows_step (Work.raise_grows hw _) rfl) (grows_of_hlu rfl)
  · exact grows_refl w

theorem Work.reachSlot_grows (hc : P .cue) (hw : P .watch) (hr : P .rule) (b : Base) (i : Nat) (w : Work) :
    w.Grows P (w.reachSlot b i) := by
  unfold Work.reachSlot
  split
  · refine grows_ite ?_ ?_
    · exact grows_trans (grows_step (Work.raise_grows hw _) rfl) (grows_step (Work.flagChange_grows hc hw hr ..) rfl)
    · exact grows_trans (grows_step (Work.raise_grows hw _) rfl) (grows_of_hlu rfl)
  · exact grows_refl w

theorem Work.applyMarks_grows (hc : P .cue) (hw : P .watch) (hr : P .rule) (b : Base) (key : Key) (ms : List Mark) (w : Work) :
    w.Grows P (w.applyMarks b key ms) := by
  have hslots : ∀ v : Work, v.Grows P ((List.range Config.slotCount).foldl (fun w i =>
      if slotReached (w.nre.slots.getD i none) then w.reachSlot b i else w) v) := fun v =>
    grows_foldl (fun w i => grows_ite (w.reachSlot_grows hc hw hr b i) (grows_refl w)) _ v
  unfold Work.applyMarks
  simp only
  split <;> split
  · exact grows_step (hslots _) rfl
  · exact grows_step (hslots _) rfl
  · exact grows_of_hlu rfl
  · exact grows_refl w

theorem Work.recordChange_grows (hc : P .cue) (hw : P .watch) (hr : P .rule) (b : Base) (key : Key) (ms : List Mark) (w : Work) :
    w.Grows P (w.recordChange b key ms) :=
  grows_trans (grows_trans (w.boardChange_grows hc ..) (Work.evaluateTell_grows hc hw hr ..)) (Work.applyMarks_grows hc hw hr ..)

theorem Work.evaluateTimed_grows (hc : P .cue) (hw : P .watch) (hr : P .rule) (b : Base) (w : Work) :
    w.Grows P (w.evaluateTimed b) := grows_foldl (fun w _ => w.evaluateTell_grows hc hw hr ..) _ w

theorem Work.noticeSecond_grows (hc : P .cue) (hw : P .watch) (hr : P .rule) (b : Base) (w : Work) :
    w.Grows P (w.noticeSecond b) := by
  have ht : ∀ v : Work, v.Grows P ((v.evaluateTimed b).mapNre (Nre.mapSlots lowerSlot)) := fun v =>
    grows_trans (v.evaluateTimed_grows hc hw hr b) (grows_of_hlu rfl)
  have hs : ∀ v : Work, v.Grows P ((List.range Config.slotCount).foldl (fun w i =>
      if slotEnded (w.nre.slots.getD i none) then w.expireSlot b i else w) v) := fun v =>
    grows_foldl (fun w i => grows_ite (w.expireSlot_grows hc hw hr b i) (grows_refl w)) _ v
  unfold Work.noticeSecond
  dsimp only
  refine grows_trans ?_ (hs _)
  exact grows_step (ht _) rfl

theorem Work.noticeStep_grows (hc : P .cue) (hw : P .watch) (hr : P .rule) (b : Base) (w : Work) :
    w.Grows P (w.noticeStep b) :=
  grows_trans (grows_foldl (fun w _ => w.evaluateTell_grows hc hw hr ..) _ w) (grows_of_hlu rfl)

/-! ### Records -/

theorem Work.freeRecord_grows (hc : P .cue) (b : Base) (w : Work) (key : Key) : w.Grows P (w.freeRecord b key) := by
  unfold Work.freeRecord
  split
  · exact grows_refl w
  · rename_i x _
    have hh : ∀ v : Work, v.Grows P (x.held.foldl (fun w h => w.releaseHead b key h) v) := fun v =>
      grows_foldl (fun w h => w.releaseHead_grows hc b key h) _ v
    have hx : ∀ v : Work, v.Grows P (((v.mapNre (Nre.freeSlots fun s => s.key == key)).withdraw b
        fun e => e.key == some key).unlist key) := fun v =>
      grows_trans (grows_step (Work.withdraw_grows hc b _ (v.mapNre _)) rfl) (grows_of_hlu rfl)
    dsimp only
    refine grows_trans (grows_trans ?_ (hx _)) (Work.deriveWith_grows hc ..)
    exact grows_step (hh _) rfl

theorem Work.age_grows (hc : P .cue) (b : Base) (w : Work) : w.Grows P (w.age b) :=
  grows_foldl (Work.freeRecord_grows hc b) _ w

theorem Work.applyStagedAll_grows (hc : P .cue) (hw : P .watch) (hr : P .rule) (b : Base) (w : Work) :
    w.Grows P (w.applyStagedAll b) := by
  refine grows_foldl (fun w key => ?_) _ w
  unfold Work.applyStaged
  split
  · split
    · exact grows_ite (grows_step (Work.recordChange_grows hc hw hr ..) rfl) (grows_refl w)
    · exact grows_refl w
  · exact grows_refl w

theorem Work.serviceSecond_grows (hc : P .cue) (hw : P .watch) (hr : P .rule) (b : Base) (w : Work) :
    w.Grows P (w.serviceSecond b) := by
  refine grows_trans (w.applyStagedAll_grows hc hw hr b) (grows_step (grows_foldl (fun w key => ?_) _ _) rfl)
  exact grows_ite (grows_step (Work.recordChange_grows hc hw hr ..) rfl) (grows_refl w)

theorem Work.serviceStep_grows (hc : P .cue) (hw : P .watch) (hr : P .rule) (b : Base) (w : Work) :
    w.Grows P (w.serviceStep b) := grows_trans (w.applyStagedAll_grows hc hw hr b) (Work.age_grows hc ..)

theorem Work.createService_grows (hc : P .cue) (hw : P .watch) (hr : P .rule) (b : Base) (r : PutReq) (w : Work) :
    w.Grows P (w.createService b r) := grows_step (Work.recordChange_grows hc hw hr ..) rfl

/-! ### Timebase events -/

theorem Work.secondBlocks_grows (hc : P .cue) (hw : P .watch) (hr : P .rule) (b : Base) (w : Work) :
    w.Grows P (w.secondBlocks b) :=
  grows_trans (grows_trans (grows_trans (w.serviceSecond_grows hc hw hr b) (Work.boardSecond_grows hc ..))
    (Work.noticeSecond_grows hc hw hr ..)) (Work.cueSecond_grows hc ..)

theorem Work.stepBlocks_grows (hc : P .cue) (hw : P .watch) (hr : P .rule) (b : Base) (w : Work) :
    w.Grows P (w.stepBlocks b) :=
  grows_trans (grows_trans (grows_trans (w.serviceStep_grows hc hw hr b) (Work.derive_grows hc ..))
    (Work.noticeStep_grows hc hw hr ..)) (Work.cueStep_grows hc ..)

/-- The changeover but for its report. -/
theorem Work.serviceChangeover_grows (hc : P .cue) (hw : P .watch) (hr : P .rule) (b : Base) (w : Work) :
    w.Grows P (w.serviceChangeover b) :=
  grows_step (grows_foldl (fun w _ => w.recordChange_grows hc hw hr ..) _ _) rfl

theorem Work.degrade_grows (hc : P .cue) {r : ReportBody} (hf : P r.cls) (b : Base) (d : Bool) (w v : Work)
    (h : v.hlu = { w.hlu with degraded := d }) : w.Grows P ((v.raise r).deriveAll b) := by
  refine grows_trans (grows_trans (v := v) ?_ (Work.raise_grows hf v)) (Work.derive_grows hc ..)
  exact grows_of_rep (by rw [h]) (by rw [h])

theorem Work.loseFeed_grows (hc : P .cue) (hf : P .feed) (b : Base) (w : Work) : w.Grows P (w.loseFeed b) :=
  Work.degrade_grows hc (r := .feedLost _) hf b true w _ rfl

theorem Work.feedSecond_grows (hc : P .cue) (hf : P .feed) (b : Base) (w : Work) : w.Grows P (w.feedSecond b) := by
  unfold Work.feedSecond
  split
  · simp only
    split
    · exact grows_trans (grows_of_rep (u := { w with hlu := { w.hlu with feedCount := w.hlu.feedCount + 1 } }) rfl rfl)
        (Work.loseFeed_grows hc hf b _)
    · exact grows_of_rep rfl rfl
  · exact grows_refl w

theorem Work.restoreFeed_grows (hc : P .cue) (hf : P .feed) (b : Base) (w : Work) : w.Grows P (w.restoreFeed b) := by
  unfold Work.restoreFeed
  split
  · exact Work.degrade_grows hc (r := .feedRestored) hf b false w _ rfl
  · exact grows_refl w

end Sys2Proof.Machine
end

