-- ==== Sys2Proof/Laws/Serve.lean ====
section
/-!
SUPPORT. No owner touches the inbound queue, so serving ends: after `State.serveWaiting` no request waits whose turn has come.
With the lengths that the layouts give.
-/

namespace Sys2Proof.Machine

/-! ### The inbound queue through the operations -/

theorem foldl_inbound {α : Type} (f : Work → α → Work) (h : ∀ w a, (f w a).hlu.inbound = w.hlu.inbound) (l : List α)
    (w : Work) : (l.foldl f w).hlu.inbound = w.hlu.inbound := by
  induction l generalizing w with
  | nil => rfl
  | cons a l ih => rw [List.foldl_cons, ih, h]

theorem setCells_inbound {α : Type} (i a : α → Nat) (f : α → Cell → Cell) (l : List α) (w : Work) :
    (l.foldl (fun w x => w.setCell (i x) (a x) (f x)) w).hlu.inbound = w.hlu.inbound :=
  foldl_inbound (fun w x => w.setCell (i x) (a x) (f x)) (fun _ _ => rfl) l w

theorem Work.select_inbound (b : Base) (w : Work) : (w.select b).hlu.inbound = w.hlu.inbound :=
  kept_inbound (Work.select_kept ..)

theorem Work.derive_inbound (b : Base) (p : Nat → Bool) (w : Work) : (w.derive b p).hlu.inbound = w.hlu.inbound :=
  kept_inbound (Work.derive_kept ..)

theorem Work.deriveAll_inbound (b : Base) (w : Work) : (w.deriveAll b).hlu.inbound = w.hlu.inbound :=
  kept_inbound (Work.deriveAll_kept ..)

theorem Work.endEntry_inbound (r : CueEntry → ReportBody) (next : LinkState) (w : Work) :
    (w.endEntry r next).hlu.inbound = w.hlu.inbound := kept_inbound (Work.endEntry_kept ..)

theorem Work.busyChange_inbound (b : Base) (v : Bool) (w : Work) : (w.busyChange b v).hlu.inbound = w.hlu.inbound := by
  unfold Work.busyChange
  split
  · rfl
  · simp only [Work.select_inbound]
    repeat' split
    all_goals first | rfl | exact Work.endEntry_inbound ..

theorem Work.paChange_inbound (b : Base) (v : Bool) (w : Work) : (w.paChange b v).hlu.inbound = w.hlu.inbound := by
  unfold Work.paChange
  split
  · rfl
  · rw [Work.select_inbound]; rfl

theorem Work.putCueLink_inbound (b : Base) (r : CueLinkReq) (w : Work) :
    (w.putCueLink b r).hlu.inbound = w.hlu.inbound := by
  unfold Work.putCueLink
  simp only
  split
  · rw [Work.enableLink, Work.select_inbound]; rfl
  · split
    · unfold Work.disableLink
      split <;> first | rfl | exact (Work.endEntry_inbound ..).trans rfl
    · rfl

theorem Work.claimRows_inbound (rec : BoardRec) (w : Work) : (w.claimRows rec).hlu.inbound = w.hlu.inbound :=
  setCells_inbound _ _ _ _ _

theorem Work.putBoard_inbound (b : Base) (n : Nat) (rec : BoardRec) (w : Work) :
    (w.putBoard b n rec).hlu.inbound = w.hlu.inbound := by
  simp only [Work.putBoard, Work.derive_inbound, Work.claimRows_inbound]
  split
  · split
    · exact foldl_inbound _ (fun w r => kept_inbound (Work.offer_kept ..)) _ _
    · rfl
  · rfl

theorem Work.bringOnline_inbound (n : Nat) (w : Work) : (w.bringOnline n).hlu.inbound = w.hlu.inbound := by
  unfold Work.bringOnline
  split
  · exact setCells_inbound _ _ _ _ _
  · rfl

theorem Work.putString_inbound (b : Base) (n : Nat) (e : Bool) (r : WallRate) (w : Work) :
    (w.putString b n e r).hlu.inbound = w.hlu.inbound := by
  unfold Work.putString
  simp only
  split
  · rw [Work.enableString, Work.derive_inbound]
    exact foldl_inbound _ (fun w n => by split <;> first | exact Work.bringOnline_inbound .. | rfl) _ _
  · rw [Work.disableString, kept_inbound (Work.refreshConfirmations_kept ..), Work.dropDiscarded,
      setCells_inbound]
    rfl
  · rfl

theorem Work.loadRule_inbound (b : Base) (n : Nat) (r : Option Rule) (w : Work) :
    (w.loadRule b n r).hlu.inbound = w.hlu.inbound := by
  simp only [Work.loadRule]
  rw [kept_inbound (Work.tell_kept ..), kept_inbound (Work.reevaluate_kept ..)]
  exact kept_inbound (w := (w.holdersOf n).foldl (fun w k => w.fallEdge b k n) w)
    (kept_foldl (fun w k => w.fallEdge b k n) (fun w k => Work.fallEdge_kept b k w n) _ w)

theorem Work.putNew_inbound (b : Base) (r : PutReq) (w v : Work) (h : w.putNew b r = some v) :
    v.hlu.inbound = w.hlu.inbound := by
  have create : ∀ u : Work, (u.createService b r).hlu.inbound = u.hlu.inbound := by
    intro u
    simp only [Work.createService]
    rw [steady_inbound (Work.recordChange_steady ..)]
  unfold Work.putNew at h
  split at h
  · cases h; exact create w
  · cases he : w.svt.evictee b.tbs.t with
    | none => simp [he] at h
    | some x =>
      simp only [he, Option.map_some, Option.some.injEq] at h
      rw [← h, create, steady_inbound (Work.evict_steady ..)]

theorem State.clockEvent_inbound (f : Nat → ClockLine → ClockLine × List ReportBody) (s : State) :
    (s.clockEvent f).work.hlu.inbound = s.work.hlu.inbound := kept_inbound (Work.raiseAll_kept ..)

theorem State.oneClock_inbound (n : Nat) (f : ClockLine → ClockLine × List ReportBody) (s : State) :
    (s.oneClock n f).work.hlu.inbound = s.work.hlu.inbound := kept_inbound (Work.raiseAll_kept ..)

theorem State.settleOverride_inbound (c : OverrideCause) (s : State) :
    (s.settleOverride c).work.hlu.inbound = s.work.hlu.inbound := by
  simp only [State.settleOverride, State.followOverride]
  split
  · rw [State.mapWork_work, kept_inbound (Work.overrideEntry_kept ..), kept_inbound (Work.raise_kept ..), State.mapFiu_work]
  · split
    · rw [State.mapWork_work, kept_inbound (Work.overrideExit_kept ..), kept_inbound (Work.raise_kept ..), State.mapFiu_work]
    · rfl

theorem State.configureField_inbound (n : Nat) (f : FieldLine → FieldLine) (s : State) :
    (s.configureField n f).work.hlu.inbound = s.work.hlu.inbound := by
  have leave : ∀ (o : Role) (u : State), (u.leaveRole o).work.hlu.inbound = u.work.hlu.inbound := by
    intro o u
    unfold State.leaveRole
    split <;> first | rfl | exact Work.paChange_inbound .. | exact Work.busyChange_inbound ..
  have told : ∀ u : State, (u.tellRole n).work.hlu.inbound = u.work.hlu.inbound := by
    intro u
    unfold State.tellRole
    split <;> first | rfl | exact Work.paChange_inbound .. | exact Work.busyChange_inbound ..
  simp only [State.configureField, State.settleOverride_inbound, told]
  split
  · rfl
  · rw [leave]; rfl

/-! ### Owners (R180) -/

theorem guarded_inbound (refusal : Option Reply) (owner : State → Served) (s : State)
    (h : (owner s).1.work.hlu.inbound = s.work.hlu.inbound) :
    (s.guarded refusal owner).1.work.hlu.inbound = s.work.hlu.inbound := by
  unfold State.guarded; split
  · rfl
  · exact h

theorem applyGeneral_inbound (r : GeneralReq) (s : State) : (s.applyGeneral r).work.hlu.inbound = s.work.hlu.inbound := by
  unfold State.applyGeneral
  simp only
  split
  · rw [State.mapWork_work, Work.deriveAll_inbound, State.storeGeneral_work]
  · rw [State.storeGeneral_work]

theorem applyClock_inbound (n : Nat) (x : ClockSection) (s : State) :
    (s.applyClock n x).1.work.hlu.inbound = s.work.hlu.inbound := by
  unfold State.applyClock
  split <;> exact State.oneClock_inbound ..

theorem loadTexts_inbound (items : List TextItem) (s : State) : (s.loadTexts items).work.hlu.inbound = s.work.hlu.inbound := by
  unfold State.loadTexts
  simp only
  split
  · rfl
  · rw [State.mapWork_work, kept_inbound (Work.textChange_kept ..)]

theorem putService_inbound (r : PutReq) (s : State) : (s.putService r).1.work.hlu.inbound = s.work.hlu.inbound := by
  unfold State.putService
  split
  · simp only [State.mapWork_work, Work.updateByPut]
    rw [steady_inbound (Work.recordChange_steady ..)]
    rfl
  · split
    · rename_i w hw
      exact Work.putNew_inbound _ _ _ _ hw
    · rfl

theorem stepTime_inbound (h m sec ms : Nat) (s : State) : (s.stepTime h m sec ms).1.work.hlu.inbound = s.work.hlu.inbound := by
  unfold State.stepTime
  simp only
  split
  · rfl
  · exact steady_inbound (State.stepBy_steady ..)

/-- R180: no owner touches the inbound queue. -/
theorem owner_inbound (q : Request) (s : State) : (Request.owner q s).1.work.hlu.inbound = s.work.hlu.inbound := by
  cases q with
  | identify => rfl
  | timeGet => rfl
  | status => rfl
  | restart => rfl
  | configureGeneral r =>
    simp only [Request.owner, ownGeneral]
    refine guarded_inbound _ _ _ ?_
    simp only [applyGeneral_inbound]
  | configureBoard n r =>
    simp only [Request.owner, ownBoard]
    refine guarded_inbound _ _ _ ?_
    simp only [State.mapWork_work, Work.putBoard_inbound]
  | configureString n r =>
    simp only [Request.owner, ownString]
    refine guarded_inbound _ _ _ ?_
    simp only [State.mapWork_work, Work.putString_inbound]
  | configureLine n r =>
    simp only [Request.owner, ownLine]
    refine guarded_inbound _ _ _ ?_
    simp only [State.configureField_inbound]
  | configureClockLine n r =>
    simp only [Request.owner, ownClock]
    refine guarded_inbound _ _ _ ?_
    simp only [applyClock_inbound]
  | configureCueLink r =>
    simp only [Request.owner, ownCueLink]
    refine guarded_inbound _ _ _ ?_
    simp only [State.mapWork_work, Work.putCueLink_inbound]
  | textLoad items =>
    simp only [Request.owner, ownTextLoad]
    refine guarded_inbound _ _ _ ?_
    simp only [loadTexts_inbound]
  | servicePut r =>
    simp only [Request.owner, ownServicePut]
    refine guarded_inbound _ _ _ ?_
    simp only [putService_inbound]
  | serviceDrop key =>
    simp only [Request.owner, ownServiceDrop]
    refine guarded_inbound _ _ _ ?_
    simp only [State.mapWork_work, steady_inbound (Work.freeRecord_steady ..)]
  | serviceGet key =>
    simp only [Request.owner, ownServiceGet]
    refine guarded_inbound _ _ _ ?_
    rfl
  | serviceList o start =>
    simp only [Request.owner, ownServiceList]
    refine guarded_inbound _ _ _ ?_
    rfl
  | rulePut n r =>
    simp only [Request.owner, ownRulePut]
    refine guarded_inbound _ _ _ ?_
    simp only [State.mapWork_work, Work.loadRule_inbound]
  | ruleDrop n =>
    simp only [Request.owner, ownRuleDrop]
    refine guarded_inbound _ _ _ ?_
    simp only [State.mapWork_work, Work.loadRule_inbound]
  | templatePut n r =>
    simp only [Request.owner, ownTemplatePut]
    refine guarded_inbound _ _ _ ?_
    rfl
  | cueAsk n key =>
    simp only [Request.owner, ownCueAsk]
    refine guarded_inbound _ _ _ ?_
    simp only [kept_inbound (Work.enqueue_kept ..)]
  | timeSet h m sec ms =>
    refine guarded_inbound _ _ _ ?_
    by_cases hu : s.base.tbs.state = .unset
    · simp only [hu, if_true]
      exact steady_inbound (State.setFirst_steady ..)
    · simp only [hu, if_false]
      exact stepTime_inbound ..
  | boardGet n =>
    simp only [Request.owner, ownBoardGet]
    refine guarded_inbound _ _ _ ?_
    rfl
  | overrideSet on =>
    cases on with
    | none => rfl
    | some v =>
      show ((s.mapFiu _).settleOverride _).work.hlu.inbound = _
      rw [State.settleOverride_inbound, State.mapFiu_work]
  | reportMask cs =>
    simp only [Request.owner, ownReportMask]
    split <;> rfl

theorem frame_inbound (f : Frame) (s : State) : (f.owner s).1.work.hlu.inbound = s.work.hlu.inbound := by
  cases f with
  | unknown k => rfl
  | misfit r n => rfl
  | request r => exact owner_inbound r s

/-! ### Serving ends (R180) -/

/-- How many requests wait. -/
def waitingCount (l : List Inbound) : Nat := l.countP fun e => e.progress == .waiting

theorem serve_inbound (e : Inbound) (s : State) :
    (s.serve e).work.hlu.inbound =
      s.work.hlu.inbound.map fun x => if x.arrival == e.arrival then x.served (e.frame.owner s).2 else x := by
  simp only [State.serve, State.mapHlu_work, Hlu.updateInbound, frame_inbound]

theorem nextToServe_some (l : List Inbound) (e : Inbound) (h : nextToServe l = some e) : e ∈ l ∧ e.progress = .waiting := by
  induction l with
  | nil => simp [nextToServe] at h
  | cons x l ih =>
    simp only [nextToServe] at h
    split at h
    · cases h; exact ⟨List.mem_cons_self, by assumption⟩
    · cases h
    · split at h
      · cases h
      · exact ⟨List.mem_cons_of_mem _ (ih h).1, (ih h).2⟩

theorem served_progress (o : Option Reply) (e : Inbound) : (e.served o).progress ≠ .waiting := by
  cases o <;> simp [Inbound.served, Inbound.answer]

theorem waitingCount_serve (e : Inbound) (o : Option Reply) (l : List Inbound) :
    waitingCount (l.map fun x => if x.arrival == e.arrival then x.served o else x) ≤ waitingCount l ∧
      (e ∈ l → e.progress = .waiting →
        waitingCount (l.map fun x => if x.arrival == e.arrival then x.served o else x) < waitingCount l) := by
  have hs : ∀ x : Inbound, ((x.served o).progress == .waiting) = false := fun x => by simp [served_progress]
  induction l with
  | nil => simp [waitingCount]
  | cons x l ih =>
    obtain ⟨h1, h2⟩ := ih
    simp only [waitingCount] at h1 h2 ⊢
    rw [List.map_cons, List.countP_cons, List.countP_cons]
    by_cases ha : (x.arrival == e.arrival) = true
    · rw [if_pos ha, if_neg (by rw [hs]; exact Bool.false_ne_true)]
      refine ⟨by omega, fun hm hp => ?_⟩
      rcases List.mem_cons.mp hm with h | h
      · subst h
        rw [if_pos (by rw [hp]; rfl)]
        omega
      · have := h2 h hp
        omega
    · rw [if_neg ha]
      refine ⟨by omega, fun hm hp => ?_⟩
      rcases List.mem_cons.mp hm with h | h
      · subst h
        simp at ha
      · have := h2 h hp
        omega

theorem serveAll_more (n m : Nat) (s : State) (h : waitingCount s.work.hlu.inbound ≤ n) (hm : n ≤ m) :
    s.serveAll m = s.serveAll n ∧ (s.serveAll n).caughtUp := by
  induction n generalizing m s with
  | zero =>
    have hc : s.caughtUp := by
      simp only [State.caughtUp]
      cases hn : nextToServe s.work.hlu.inbound with
      | none => rfl
      | some e =>
        have he := nextToServe_some _ _ hn
        have := List.countP_pos_iff (p := fun e : Inbound => e.progress == .waiting) |>.mpr ⟨e, he.1, by simp [he.2]⟩
        simp only [waitingCount] at h
        omega
    exact ⟨serveAll_caughtUp m s hc, hc⟩
  | succ n ih =>
    cases m with
    | zero => omega
    | succ m =>
      simp only [State.serveAll]
      cases hn : nextToServe s.work.hlu.inbound with
      | none => exact ⟨rfl, hn⟩
      | some e =>
        have he := nextToServe_some _ _ hn
        have hlt := (waitingCount_serve e (e.frame.owner s).2 s.work.hlu.inbound).2 he.1 he.2
        rw [← serve_inbound] at hlt
        exact ih m (s.serve e) (by omega) (by omega)

/-- R180: after the serving no request waits whose turn has come. -/
theorem serveWaiting_ends (s : State) : s.serveWaiting.caughtUp :=
  (serveAll_more _ _ s List.countP_le_length (Nat.le_refl _)).2

/-- R180: the oldest request whose turn has come is served first, and then the others. -/
theorem serveWaiting_next (s : State) (e : Inbound) (h : nextToServe s.work.hlu.inbound = some e) :
    s.serveWaiting = (s.serve e).serveWaiting := by
  have he := nextToServe_some _ _ h
  have hlen : (s.serve e).work.hlu.inbound.length = s.work.hlu.inbound.length := by rw [serve_inbound]; simp
  have hlt := (waitingCount_serve e (e.frame.owner s).2 s.work.hlu.inbound).2 he.1 he.2
  rw [← serve_inbound] at hlt
  have hle : waitingCount s.work.hlu.inbound ≤ s.work.hlu.inbound.length := List.countP_le_length
  unfold State.serveWaiting
  rw [hlen]
  obtain ⟨n, hn⟩ : ∃ n, s.work.hlu.inbound.length = n + 1 := ⟨s.work.hlu.inbound.length - 1, by omega⟩
  rw [hn]
  conv_lhs => rw [State.serveAll, h]
  exact ((serveAll_more n (n + 1) (s.serve e) (by omega) (by omega)).1).symm

/-! ### Lengths (R96, R143) -/

theorem figureText_length (n : Nat) : (figureText n).length = if n < 10 then 1 else 2 := by
  unfold figureText
  split <;> rfl

theorem platformText_length (p : Option Designator) : (platformText p).length = platformChars p := by
  cases p with
  | none => rfl
  | some p => simp only [platformText, platformChars, List.length_append, figureText_length]; split <;> split <;> rfl

theorem dueColumn_length (d : DueText) : (dueColumn d).length = dueChars d := by
  cases d <;> simp [dueColumn, dueChars, figureText_length]

theorem wallField_length (f : Config.WallField) (v : List Byte) : (wallField f v).length = 2 + v.length := by
  simp [wallField]; omega

theorem callingChars_length (ps : List Text) :
    (ps.flatMap fun p => BitVec.ofNat 8 p.length :: p).length = (ps.map fun p => 1 + p.length).sum := by
  induction ps with
  | nil => rfl
  | cons p ps ih => simp only [List.flatMap_cons, List.length_append, List.length_cons, ih, List.map_cons, List.sum_cons]; omega

theorem contentFields_length (c : RowContent) : 6 + (contentFields c).length = frameLength c := by
  cases c with
  | service r =>
    have ho : ∀ (f : Config.WallField) (t : Option Text), (wallOption f t).length = optionChars t := by
      intro f t
      cases t <;> simp [wallOption, optionChars, wallField_length]
    simp only [contentFields, frameLength, List.length_append, wallField_length, platformText_length, dueColumn_length, ho]
    cases r.remark <;> cases r.expected <;> cases r.coaches <;>
      simp [remarkValue, hourMinText, optionChars] <;> omega
  | calling k ps =>
    simp only [contentFields, frameLength, List.length_append, wallField_length, List.length_cons, callingChars_length]
    simp; omega
  | banner t => simp [contentFields, frameLength, wallField_length]; omega
  | blank => rfl

/-- R96: the characters of a frame are L in number. -/
theorem frameChars_length (f : WallFrame) (q : Byte) : (frameChars f q).length = frameLength f.content := by
  rw [← contentFields_length]
  simp [frameChars, coveredChars]
  omega

theorem narrowBytes_length : ∀ ps : List Nat, (narrowBytes ps).length = 3 * (ps.length / 2) + 2 * (ps.length % 2)
  | [] => rfl
  | [_] => by simp [narrowBytes]
  | p :: q :: ps => by
    have := narrowBytes_length ps
    simp only [narrowBytes, List.length_cons, this]
    omega

/-- R143: the characters of a cue frame are the start, those the check covers, and the check. -/
theorem cueFrameBytes_length (width : PhraseWidth) (f : CueFrame) :
    (cueFrameBytes width f.zones f.priority f.phrases).length + 3 = cueFrameChars width f := by
  cases width
  · have : ∀ ps : List Nat, (phraseBytes .narrow ps).length = 3 * (ps.length / 2) + 2 * (ps.length % 2) := narrowBytes_length
    simp only [cueFrameBytes, cueFrameChars, List.length_cons, this]
    omega
  · have : ∀ ps : List Nat, (phraseBytes .wide ps).length = 2 * ps.length := by
      intro ps
      induction ps with
      | nil => rfl
      | cons p ps ih => simp only [phraseBytes, List.flatMap_cons, List.length_append] at ih ⊢; rw [ih]; simp; omega
    simp only [cueFrameBytes, cueFrameChars, List.length_cons, this]
    omega

end Sys2Proof.Machine
end

