-- ==== Sys2Proof/Tests/Slice0.lean ====
section
/-!
SUPPORT. Tests of the model against the manual's own figures and worked sequences, one step each; ill-formed commands that
the well-formedness checks refuse; and, for every statement with hypotheses, states and operands that meet them together.
-/

namespace Sys2Proof.Tests

set_option Elab.async false

open Sys2Proof Sys2Proof.Machine

/-! ### Small states -/

/-- The state after a command. -/
def after (c : Instr) (s : State) : State :=
  match exec c s with
  | .next t => t
  | _ => s

/-- The reply to the first request since power-on. -/
def answer (c : Instr) (s : State) : Option Reply := (after c s).replyTo s.work.hlu.arrivals

/-- A request head with a fitting payload. -/
def hd : ReqHead := ⟨7, none⟩

/-- The part after power-on, its timebase FREE at station time `t`. -/
def timed (t : Int) : State :=
  State.reset.mapTbs fun tb => { tb with state := .free, t := t, tHigh := t }

/-- The key 1A47. -/
def key1 : Key := [0x31, 0x41, 0x34, 0x37]

/-- The key 2C11. -/
def key2 : Key := [0x32, 0x43, 0x31, 0x31]

/-- A scheduled service at a platform without suffix. -/
def train (key : Key) (seq : BitVec 32) (s : Int) (p : Option Nat) : Service :=
  { key := key, seq := seq, cls := 0, destination := 0, via := none, scheduled := s, expected := none, status := .scheduled
    current := p.map fun n => ⟨n, 0⟩, previous := none, staged := none, changeTime := none, calling := [], coaches := none
    actual := none, lastUpdate := 0, stale := false, unsettled := false, timer := none, held := [], conf := [], flash := 0 }

/-- A part that holds services. -/
def holding (t : Int) (xs : List Service) : State :=
  (timed t).mapWork fun w => { w with svt := { w.svt with services := xs, counter := 40 } }

/-- A part with one field line set. -/
def wired (n : Nat) (l : FieldLine) (s : State) : State := s.setLine n fun _ => l

/-- A field line, inactive, with a role. -/
def contact (r : Role) : FieldLine := { FieldLine.reset with role := r }

/-- A part with one clock line set. -/
def dial (n : Nat) (l : ClockLine) (s : State) : State := { s with scd := s.scd.set n l }

/-- A part with one wall string set. -/
def strung (n : Nat) (u : WallString) (s : State) : State := s.mapWork (Work.setString n fun _ => u)

/-- A board record on string 0 from address 1, with a page of one row. -/
def oneRow : BoardRec :=
  { enabled := true, string := 0, first := 1, rows := 1, kind := .list, platforms := [], classes := [], horizon := 120
    fixed := 0, period := 10, showDue := true, showExpected := true, showCoaches := false }

/-- A board whose list has two pages, on the first of them. -/
def onFirstPage (rec : BoardRec) : Board :=
  { record := rec, eligible := [], presentation := .normal, banner := .none, page := 0, pageCount := 2, timer := 4 }

/-- A part with board 3 as `rec`, on a string 0 that is enabled. -/
def boarded (rec : BoardRec) (s : State) : State :=
  (strung 0 { WallString.reset with enabled := true } s).mapWork fun w =>
    { w with bcp := { w.bcp with boards := w.bcp.boards.set 3 (some (onFirstPage rec)) } }

/-- A SERVICE PUT that carries a key and nothing else. -/
def bare (key : Key) : PutReq :=
  { key := key, cls := .absent, destination := .absent, via := .absent, scheduled := .absent, expected := .absent
    status := .absent, platform := .absent, effective := .absent, calling := .absent, coaches := .absent, actual := .absent }

/-- The creation of 1A47 in 2.11. -/
def create1 : PutReq :=
  { bare key1 with destination := .value 5, scheduled := .value ⟨17, 40, 0, 0⟩, platform := .value ⟨12, 0⟩ }

/-- Predicates that are all absent. -/
def anyTrain : Preds :=
  { status := none, cls := none, platform := none, destination := none, calling := none, delay := none, countdown := none
    changed := none, stale := none, unsettled := none, actual := none }

/-- The predicates of a RULE PUT that carries none. -/
def noPreds : PredsReq :=
  { status := none, cls := none, platform := none, destination := none, calling := none, delay := none, countdown := none
    changed := none, stale := .omitted, unsettled := .omitted, actual := .omitted }

/-- A HEAD that holds for every service. -/
def headReq : RuleReq :=
  { kind := .is .head, enabled := .omitted, preds := noPreds, terms := none, priority := some 3, notice := none
    banner := none, cue := none, watch := .omitted, report := true }

/-- Template 12 of 8.9. -/
def template12 : Template :=
  { items := [.phrase 3001, .slot .schedTime, .phrase 3003, .slot .dest, .phrase 3004, .slot .platform]
    priority := 5, validity := 240, zones := .platform, needsShown := true, requiresFeed := false
    withdrawOnClear := true, deadline := true }

/-- A cue entry of template 12 without a service. -/
def cue87 (st : CueState) : CueEntry :=
  { number := 12, template := { template12 with items := [.phrase 3001], zones := .fixed [1], needsShown := false }
    key := none, serviceSeq := none, priority := 5, source := .host, state := st, seq := 87, latest := 57240
    resolved := none, unobserved := false }

/-- A part whose cue link is in a state with one entry. -/
def linked (l : LinkState) (e : CueEntry) (s : State) : State :=
  s.mapWork (Work.mapCuc fun c => { c with link := l, queue := [e] })

/-! ### Ill-formed commands are refused -/

theorem test_wf_misfit_length : Instr.wellFormed (.identify ⟨0, some 1025⟩) = false := by decide +kernel
theorem test_wf_item_text : Instr.wellFormed (.textLoad hd [⟨0, List.replicate 256 0x41, none⟩]) = false := by
  decide +kernel
theorem test_wf_item_index : Instr.wellFormed (.textLoad hd [⟨65536, [], none⟩]) = false := by decide +kernel
theorem test_wf_item_phrase : Instr.wellFormed (.textLoad hd [⟨0, [], some 65535⟩]) = false := by decide +kernel
theorem test_wf_items_too_long : Instr.wellFormed (.textLoad hd (List.replicate 5 ⟨0, List.replicate 200 0x41, none⟩)) = false := by
  decide +kernel
theorem test_wf_item_count : Instr.wellFormed (.textLoad hd (List.replicate 256 ⟨0, [], none⟩)) = false := by decide +kernel
theorem test_wf_put_key : Instr.wellFormed (.servicePut hd (bare (List.replicate 256 0x41))) = false := by decide +kernel
theorem test_wf_put_class : Instr.wellFormed (.servicePut hd { bare key1 with cls := .value 256 }) = false := by
  decide +kernel
theorem test_wf_put_destination : Instr.wellFormed (.servicePut hd { bare key1 with destination := .value 65536 }) = false := by
  decide +kernel
theorem test_wf_put_via : Instr.wellFormed (.servicePut hd { bare key1 with via := .value 65536 }) = false := by
  decide +kernel
theorem test_wf_put_scheduled : Instr.wellFormed (.servicePut hd { bare key1 with scheduled := .value ⟨0, 0, 0, 128⟩ }) = false := by
  decide +kernel
theorem test_wf_put_expected : Instr.wellFormed (.servicePut hd { bare key1 with expected := .value ⟨256, 0, 0, 0⟩ }) = false := by
  decide +kernel
theorem test_wf_put_platform : Instr.wellFormed (.servicePut hd { bare key1 with platform := .value ⟨1, 256⟩ }) = false := by
  decide +kernel
theorem test_wf_put_effective : Instr.wellFormed (.servicePut hd { bare key1 with effective := .value ⟨0, 256, 0, 0⟩ }) = false := by
  decide +kernel
theorem test_wf_put_calling : Instr.wellFormed (.servicePut hd { bare key1 with calling := .value [65536] }) = false := by
  decide +kernel
theorem test_wf_put_coaches : Instr.wellFormed (.servicePut hd { bare key1 with coaches := .value 256 }) = false := by
  decide +kernel
theorem test_wf_put_actual : Instr.wellFormed (.servicePut hd { bare key1 with actual := .value ⟨0, 0, 256, 0⟩ }) = false := by
  decide +kernel
theorem test_wf_drop_key : Instr.wellFormed (.serviceDrop hd (List.replicate 256 0x41)) = false := by decide +kernel
theorem test_wf_get_key : Instr.wellFormed (.serviceGet hd (List.replicate 256 0x41)) = false := by decide +kernel
theorem test_wf_reply_address : Instr.wellFormed (.moduleReply 0 ⟨256, 0, .ok, true⟩) = false := by decide +kernel
theorem test_wf_reply_fault : Instr.wellFormed (.moduleReply 0 ⟨1, 0, .fault 0, true⟩) = false := by decide +kernel
theorem test_wf_put_accepted : Instr.wellFormed (.servicePut hd create1) = true := by decide +kernel

/-! ### Station time (1.8) -/

/-- 1.8, a forward step through the changeover: the reply. -/
theorem test_step_through_changeover :
    answer (.timeSet hd 2 31 10 0) ((timed 86395).mapTbs fun tb => { tb with secPos := 500 })
      = some ⟨.ok, [], .stepped 74500 74500 false true⟩ := by decide +kernel

/-- 1.8, a backward step that reaches the limit. -/
theorem test_step_to_the_limit :
    answer (.timeSet hd 22 0 0 0) (timed 100) = some ⟨.ok, [], .stepped (-16300000) (-3700000) true false⟩ := by
  decide +kernel

/-- 1.8, slewing: the pulse at 14:07:01.240. -/
theorem test_pulse_offset :
    let s := wired 2 (contact .sync) ((timed 41821).mapTbs fun tb => { tb with state := .locked, secPos := 240 })
    (after (.edge 2 .high) s).base.tbs.slew = 1240 := by decide +kernel

/-- 1.8, slewing: the second event to 41822 leaves 1230 and a second of 1010 ms. -/
theorem test_second_event_slews :
    let tb := (after .secondEvent ((timed 41821).mapTbs fun tb => { tb with state := .locked, secPos := 240, slew := 1240 })).base.tbs
    (tb.t, tb.slew, tb.secLen) = (41822, 1230, 1010) := by decide +kernel

/-- 1.8, three agreeing pulses: the third steps the clock to 60240.000 and locks it. -/
theorem test_third_pulse_agrees :
    let s := wired 2 (contact .sync) ((timed 60244).mapTbs fun tb =>
      { tb with state := .holdover, secPos := 315, rejected := [4310, 4312] })
    let tb := (after (.edge 2 .high) s).base.tbs
    (tb.t, tb.secPos, tb.tHigh, tb.state, tb.rejected) = (60240, 0, 60244, .locked, []) := by decide +kernel

/-- R12: the pulse stream lost. -/
theorem test_sync_lost : (after .syncLost ((timed 0).mapTbs fun tb => { tb with state := .locked })).base.tbs.state = .holdover := by
  decide +kernel

/-- R8 in UNSET. -/
theorem test_time_get_unset :
    answer (.timeGet hd) State.reset = some ⟨.ok, [], .time ⟨.unset, none, 0, 0, 0, 0, 150, .minute⟩⟩ := by decide +kernel

/-- R5: the second event after t = 86399 changes over. -/
theorem test_changeover_second : (after .secondEvent (timed 86399)).base.tbs.t = 0 := by decide +kernel

/-! ### The service table and its figures (2.11, 2.12, 3.7) -/

/-- 2.11: 1A47 is created at 17:20:00 with S = 54600 and sequence 41. -/
theorem test_create :
    (after (.servicePut hd create1) (holding 53400 [])).work.svt.services.map (fun x => (x.scheduled, x.seq, x.current))
      = [(54600, 41, some ⟨12, 0⟩)] := by decide +kernel

/-- 2.11: 2C11 is moved at t = 54200 from no platform to 12A, and its staged pair is discarded. -/
theorem test_immediate_platform :
    let x := { train key2 42 55320 none with staged := some (⟨14, 0⟩, 54300) }
    (after (.servicePut hd { bare key2 with platform := .value ⟨12, 1⟩ }) (holding 54200 [x])).work.svt.services.map
        (fun x => (x.current, x.previous, x.staged, x.changeTime))
      = [(some ⟨12, 1⟩, none, none, some 54200)] := by decide +kernel

/-- 2.11: the plunger at 17:41:05 captures 1A47. -/
theorem test_dispatch :
    let xs := [{ train key1 41 54600 (some 12) with expected := some 54840, status := .delayed }, train key2 42 55320 (some 12)]
    (after (.edge 3 .high) (wired 3 (contact (.dispatch 12)) (holding 54665 xs))).work.svt.services.map
        (fun x => (x.status, x.actual, x.timer))
      = [(.departing, some 54665, some 60), (.scheduled, none, none)] := by decide +kernel

/-- 2.11: the 60th second event after the capture ends the timer. -/
theorem test_timer_end :
    let x := { train key1 41 54600 (some 12) with status := .departing, actual := some 54665, timer := some 1 }
    (after (.departingTimerEnd key1) (holding 54725 [x])).work.svt.services.map (fun x => (x.status, x.timer))
      = [(.departed, none)] := by decide +kernel

/-- 2.11: the minute event at t = 55440 does not free 1A47; the one at 55500 does. -/
theorem test_aging :
    let x := { train key1 41 54600 (some 12) with expected := some 54840, status := .departed }
    (after .secondEvent (holding 55439 [x])).work.svt.services.length = 1
      ∧ (after .secondEvent (holding 55499 [x])).work.svt.services = [] := by decide +kernel

/-- R37: a drop frees the record. -/
theorem test_drop : (after (.serviceDrop hd key1) (holding 0 [train key1 41 54600 none])).work.svt.services = [] := by
  decide +kernel

/-- 3.7 case B: the expected time written 02:41:10 day +1 reads back after the changeover with day 0. -/
theorem test_read_back_after_changeover :
    convertTime 150 ⟨2, 41, 10, 1⟩ = some 87070 ∧ timeView 150 (rebase 87070) = ⟨670, 0, 9670⟩ := by decide +kernel

/-- 3.7 case A: scheduled text, expected text, delay, countdown and remark. -/
theorem test_case_a :
    let x := { train key1 41 54510 none with expected := some 55300, status := .delayed }
    (schedText 150 x, expText 150 x, x.delay, countdown (x.k - 54730), remark 150 1 54730 x)
      = (⟨17, 38⟩, some ⟨17, 52⟩, 14, 10, .expected ⟨17, 52⟩ 14) := by decide +kernel

/-- 3.7 case C: the stale flag decides before the time that has run out. -/
theorem test_case_c :
    let x := { train key1 41 20700 none with expected := some 20985, stale := true }
    (remark 150 1 20985 x, dueText (remark 150 1 20985 x) (x.k - 20985)) = (.awaiting, .word) := by decide +kernel

/-- R38: SERVICE LIST in table order. -/
theorem test_list :
    answer (.serviceList hd .table 0) (holding 0 [train key2 42 55320 none, train key1 41 54600 none])
      = some ⟨.ok, [], .keys 2 0 [key1, key2]⟩ := by decide +kernel

/-- R38: SERVICE GET of a key not held. -/
theorem test_get_missing : answer (.serviceGet hd key1) (holding 0 []) = some ⟨.notFound, [], .field .key⟩ := by
  decide +kernel

/-! ### Texts, boards and strings (4.5, 5.11, 6.6, 6.7) -/

/-- 4.5: entry 214 is written whole, its phrase code none. -/
theorem test_text_load :
    (after (.textLoad hd [⟨214, [0x51], none⟩]) State.reset).base.txs[214]? = some ⟨[0x51], none⟩ := by decide +kernel

/-- 6.6: the frame of the worked sequence has 54 characters. -/
theorem test_frame_length :
    frameLength (.service
      { key := [0x34, 0x57, 0x31, 0x39], scheduled := ⟨17, 25⟩, expected := none, destination := List.replicate 14 0x61
        via := none, platform := some ⟨16, 0⟩, remark := .onTime, due := .figure 9, notice := none, flash := false
        coaches := none, showDue := true, showExpected := true, showCoaches := true }) = 54 := by decide +kernel

/-- R96: the texts of a frame: platforms 5 and 40B, the DUE column of 9 and 99 minutes, and 17:05. -/
theorem test_frame_texts :
    platformText (some ⟨5, 0⟩) = [0x35] ∧ platformText (some ⟨40, 2⟩) = [0x34, 0x30, 0x42] ∧ dueColumn (.figure 9) = [0x39] ∧
      dueColumn (.figure 99) = [0x39, 0x39] ∧ hourMinText ⟨17, 5⟩ = [0x31, 0x37, 0x3A, 0x30, 0x35] := by decide +kernel

/-- 6.6: at 125 kbit/s the frame is on the line for 4.32 ms, with sequence 42. -/
theorem test_offer_starts :
    let u := { WallString.reset with enabled := true, seq := 41 }
    let p := (u.offer 1000 14 (.banner (List.replicate 43 0x61))).1
    (p.activity, p.seq, p.queue) = (.sending 1004320, 42, []) := by decide +kernel

/-- 6.7: the timeout of frame 117 to address 5, and its report. -/
theorem test_reply_timeout :
    let u := { WallString.reset with
      enabled := true, activity := .awaiting 20, inFlight := some (⟨5, .blank⟩, 117), seq := 117
      health := WallString.reset.health.set 4 .ok }
    let t := after (.replyTimeout 0) (strung 0 u (timed 0))
    ((t.work.string 0).timeouts, t.work.hlu.reports.map Report.body) = (1, [.moduleState 0 5 .ok .noReply 117]) := by
  decide +kernel

/-- 6.7: the late reply to frame 117 is stray. -/
theorem test_stray_reply :
    let u := { WallString.reset with enabled := true, activity := .awaiting 20, inFlight := some (⟨6, .blank⟩, 118) }
    let t := after (.moduleReply 0 ⟨5, 117, .ok, true⟩) (strung 0 u (timed 0))
    ((t.work.string 0).stray, (t.work.string 0).activity) = (1, .awaiting 20) := by decide +kernel

/-- R98: the reply to frame 118 completes it, and its content is on the wall. -/
theorem test_reply_accepted :
    let u := { WallString.reset with enabled := true, activity := .awaiting 20, inFlight := some (⟨6, .blank⟩, 118) }
    let t := after (.moduleReply 0 ⟨6, 118, .ok, true⟩) (strung 0 u (timed 0))
    ((t.work.string 0).activity, (t.work.string 0).healthOf 6, (t.work.cell 0 6).onWall) = (.idle, .ok, some .blank) := by
  decide +kernel

/-- R97: the reply timer runs for 20 ms. -/
theorem test_frame_sent :
    ((after (.wallFrameSent 0) (strung 0 { WallString.reset with activity := .sending 9000 } (timed 0))).work.string 0).activity
      = .awaiting 20 := by decide +kernel

/-- R71: the page turns to the second of two. -/
theorem test_page_expiry :
    ((after (.pageExpiry 3) (boarded oneRow (holding 54000 [train key1 41 54600 none, train key2 42 55320 none]))).work.board 3).map
        (fun bd => (bd.page, bd.timer)) = some (1, 0) := by decide +kernel

/-- R76: the flash count cleared. -/
theorem test_flash_end :
    (after (.flashEnd key1) (holding 0 [{ train key1 41 54600 none with flash := 5 }])).work.svt.services.map Service.flash
      = [0] := by decide +kernel

/-- R61: a page period of 3 s is clamped to 5 s. -/
theorem test_board_clamped :
    answer (.configureBoard hd 3
        { enabled := .omitted, string := some 0, first := some 10, rows := some 8, kind := .is .list, platforms := none
          classes := none, horizon := none, fixed := some 3, period := some 3, showDue := none, showExpected := none
          showCoaches := none }) State.reset = some ⟨.clamped, [(.pagePeriod, 5)], .nothing⟩ := by decide +kernel

/-- R90: a board that is not configured. -/
theorem test_board_missing : answer (.boardGet hd 4) State.reset = some ⟨.notFound, [], .field .boardNumber⟩ := by
  decide +kernel

/-- R91: a string enabled at 250 kbit/s. -/
theorem test_string :
    ((after (.configureString hd 2 ⟨.is true, .is .r250⟩) State.reset).work.string 2).opRate = .r250 := by decide +kernel

/-! ### Rules and cues (7.4, 8.9) -/

/-- 7.4: a forward step over the countdown 2..2 rises the HEAD by crossing, though C is 1 after it. -/
theorem test_crossing :
    let g : Rule := { kind := .head, enabled := true, preds := { anyTrain with countdown := some (2, 2) }, terms := []
                      priority := 3, notice := none, banner := none, cue := none, watch := none, report := false }
    let s := (holding 59700 [train key1 41 60000 none]).mapWork (Work.mapNre fun n =>
      { n with rules := n.rules.set 9 (some g), ruleTime := 59700 })
    (after (.timeSet hd 19 9 30 0) s).work.svt.services.map Service.held = [[9]] := by decide +kernel

/-- R120: a HEAD loaded quietly holds for the services that meet it; the reply carries its holder count. -/
theorem test_rule_put :
    (answer (.rulePut hd 11 headReq) (holding 0 [train key1 41 54600 none])).map
        (fun r => match r.body with | .rule _ n => (r.result, n) | _ => (r.result, 99)) = some (.ok, 1) := by decide +kernel

/-- R119: a status that is none of the five, a flag that is neither value, and a WATCH of neither mode. -/
theorem test_rule_put_refused :
    let refused := fun r => (answer (.rulePut hd 11 r) (timed 0)).map fun p => (p.result, p.body)
    refused { headReq with preds := { noPreds with status := some [some .delayed, none] } }
        = some (.badField, .field (.predicate 0)) ∧
      refused { headReq with preds := { noPreds with stale := .unknown } } = some (.badField, .field (.predicate 8)) ∧
      refused { headReq with watch := .unknown } = some (.badField, .field .watch) := by decide +kernel

/-- A board that shows 1A47, whose HEAD 11 holds with the notice of text 5. -/
def noticed : State :=
  let s := (boarded oneRow (holding 54000 [{ train key1 41 54600 none with held := [11] }])).mapWork fun w =>
    { w with
      nre := { w.nre with rules := w.nre.rules.set 11 (some (ruleRecord { headReq with notice := some 5 })) }
      bcp := { w.bcp with boards := w.bcp.boards.map (Option.map fun bd => { bd with eligible := [key1] }) } }
  { s with base := { s.base with txs := s.base.txs.set 6 ⟨[0x36], none⟩ } }

/-- R120 step 4, R88: a HEAD replaced while it holds falls and rises, and the row shows its new notice. -/
theorem test_rule_replaced :
    let t := after (.rulePut hd 11 { headReq with notice := some 6 }) noticed
    (t.work.svt.services.map Service.held, match (t.work.cell 0 1).desired with | .service x => x.notice | _ => none)
      = ([[11]], some [0x36]) := by decide +kernel

/-- R120 step 4: a new banner HEAD in an empty place, which holds for no service, derives no board; one that replaces a banner
HEAD derives its boards. -/
theorem test_rule_put_tells :
    let s := (boarded oneRow (timed 54000)).mapWork fun w => w.setCell 0 1 fun c => { c with desired := .banner [0x41] }
    let put := .rulePut hd 11 { headReq with banner := some (3, [3]) }
    let held := s.mapWork (Work.mapNre fun n =>
      { n with rules := n.rules.set 11 (some (ruleRecord { headReq with banner := some (4, [3]) })) })
    (((after put s).work.cell 0 1).desired, ((after put held).work.cell 0 1).desired) = (.banner [0x41], .blank) := by
  decide +kernel

/-- R33: a freed record leaves the eligible list of a board that is OFFLINE too. -/
theorem test_drop_leaves_offline_list :
    let s := (strung 0 WallString.reset (boarded oneRow (holding 54000 [train key1 41 54600 none]))).mapWork fun w =>
      { w with bcp := { w.bcp with
        boards := w.bcp.boards.map (Option.map fun bd => { bd with eligible := [key2, key1] }) } }
    ((after (.serviceDrop hd key1) s).work.board 3).map Board.eligible = some [key2] := by decide +kernel

/-- R121: a drop of an empty place. -/
theorem test_rule_drop_missing : answer (.ruleDrop hd 5) State.reset = some ⟨.notFound, [], .field .ruleNumber⟩ := by
  decide +kernel

/-- R126: the watch sets the stale flag and is freed. -/
theorem test_watch_expiry :
    let s := (holding 20910 [train key1 41 20700 none]).mapWork (Work.mapNre fun n =>
      { n with slots := n.slots.set 2 (some ⟨11, key1, .timeout 60 0, false⟩) })
    let t := after (.watchExpiry 2) s
    (t.work.svt.services.map Service.stale, t.work.nre.slots[2]?) = ([true], some none) := by decide +kernel

/-- R128: the count reached sets the unsettled flag and counts afresh. -/
theorem test_watch_count :
    let s := (holding 0 [train key1 41 20700 none]).mapWork (Work.mapNre fun n =>
      { n with slots := n.slots.set 2 (some ⟨11, key1, .count 3 3, false⟩) })
    let t := after (.watchCount 2) s
    (t.work.svt.services.map Service.unsettled, t.work.nre.slots[2]?) = ([true], some (some ⟨11, key1, .count 3 0, false⟩)) := by
  decide +kernel

/-- R131: a validity of 5 s is clamped to 10 s. -/
theorem test_template :
    (answer (.templatePut hd 12
        { items := [some (.phrase 3001)], priority := some 5, validity := some 5, zones := .is (.fixed [1])
          needsShown := none, requiresFeed := none, withdrawOnClear := none, deadline := none }) State.reset).map
        (fun r => (r.result, r.clamped)) = some (.clamped, [(.validity, 10)]) := by decide +kernel

/-- 8.9: what entry 88 resolves to. The check is the CRC-16 of Python's binascii over 0C 05 07 and the phrases. -/
theorem test_resolution :
    let x := { train key1 41 57600 (some 14) with destination := 410 }
    let s := holding 57006 [x]
    let b := { s.base with txs := s.base.txs.set 410 ⟨[0x4E], some 2410⟩ }
    let w := s.work.mapCuc fun c => { c with cfg := { c.cfg with
      numberBase := 1000, hourBase := 1100, minuteBase := 1130, zones := c.cfg.zones.set 13 [3, 4] } }
    resolve b w { cue87 .queued with template := template12, key := some key1, serviceSeq := some 41 }
      = some ⟨[3, 4], 5, [3001, 1118, 1160, 3003, 2410, 3004, 1014], 0xB6C9⟩ := by decide +kernel

/-- R143: three phrases of a NARROW frame in five characters, the last in two. -/
theorem test_narrow : phraseBytes .narrow [0xBB9, 0x45E, 0x488] = [0xBB, 0x94, 0x5E, 0x48, 0x80] := by decide +kernel

/-- R134: a CUE ASK admitted with the next enqueue sequence. -/
theorem test_cue_ask :
    let s := (timed 57000).mapWork (Work.mapCuc fun c => { c with
      counter := 87, templates := c.templates.set 12 (some (cue87 .queued).template) })
    answer (.cueAsk hd 12 none) s = some ⟨.ok, [], .admitted 88⟩ := by decide +kernel

/-- R149: the link enabled. -/
theorem test_link_enabled :
    let r : CueLinkReq :=
      { enabled := .is true, rate := .omitted, width := .omitted, numberBase := none, hourBase := none, minuteBase := none
        suffixA := none, suffixB := none, truncation := none, zones := none, overrideTemplate := none, resumeDelay := some 31 }
    let t := after (.configureCueLink hd r) State.reset
    (t.work.cuc.link, t.work.cuc.cfg.resumeDelay) = (.idle, 30) := by decide +kernel

/-- R144: the accept window is 500 ms. -/
theorem test_cue_sent :
    (after .endOfTransmission (linked (.sending 9000) (cue87 .sending) (timed 57000))).work.cuc.link = .awaitAccept 500 := by
  decide +kernel

/-- R145: a cue that is not accepted is dropped. -/
theorem test_accept_end :
    (after .acceptWindowEnd (linked (.awaitAccept 0) (cue87 .awaitAccept) (timed 57000))).work.hlu.reports.map Report.body
      = [.cueDropped 12 none .host .notAccepted (some 87)] := by decide +kernel

/-- R146: a cue that plays too long is stuck. -/
theorem test_play_end :
    let t := after .maximumPlayTimeEnd (linked (.playing 0) (cue87 .playing) (timed 57000))
    (t.work.cuc.link, t.work.hlu.reports.map Report.body) = (.blocked, [.cueStuck 12 none 87]) := by decide +kernel

/-- R146: PLAY_BUSY becoming inactive ends the cue PLAYED. -/
theorem test_play_done :
    let l := { contact .playBusy with raw := .high, filtered := .high }
    let s := (linked (.playing 0) (cue87 .playing) (wired 9 l (timed 57000))).mapWork (Work.mapCuc fun c => { c with busy := true })
    let t := after (.edge 9 .low) s
    (t.work.cuc.link, t.work.hlu.reports.map Report.body) = (.idle, [.cueDone 12 none .host 87 .played none]) := by
  decide +kernel

/-- R147: the resume count ends. -/
theorem test_resume_end :
    (after .resumeDelayEnd ((timed 0).mapWork (Work.mapCuc fun c => { c with resume := 3 }))).work.cuc.resume = 0 := by
  decide +kernel

/-! ### Slave clocks (9.8) -/

/-- Case D's section. -/
def caseD (h m : Nat) : ClockReq :=
  { active := .omitted, kind := .is .minute, indicated := .is (.reading h m 0), polarity := .is (some .positive)
    width := none, gap := none, hold := none }

/-- Case D: 165 steps behind, the line goes CATCHUP and impulse 1 starts at once. -/
theorem test_case_d :
    let l := (after (.configureClockLine hd 0 (caseD 3 55)) (timed 58200)).clock 0
    (l.state, l.indicated, l.behind 67200, l.drive) = (.catchup, 235, 165, .driving 300) := by decide +kernel

/-- Case E: 30 minutes ahead, the line holds. -/
theorem test_case_e :
    let l := (after (.configureClockLine hd 0 (caseD 19 10)) (timed 58200)).clock 0
    (l.state, l.indicated, l.behind 67200, l.drive) = (.holding, 430, 690, .idle) := by decide +kernel

/-- Case F's line before its third miss. -/
def caseF : ClockLine :=
  { ClockLine.reset with
    state := .catchup, kind := .halfMinute, indicated := 871, polarity := .positive, sense := some 6, miss := 2
    drive := .driving 300, impulseSense := some 6 }

/-- Case F: the third miss faults the line, its next polarity NEGATIVE. -/
theorem test_case_f :
    let l := (after (.impulseEnd 2) (dial 2 caseF (timed 17162))).clock 2
    (l.state, l.miss, l.indicated, l.polarity) = (.faulted, 3, 871, .negative) := by decide +kernel

/-- R159: a pending impulse starts at the end of the gap. -/
theorem test_gap_end :
    ((after (.gapEnd 2) (dial 2 { caseF with drive := .gap 0, pending := true } (timed 0))).clock 2).drive = .driving 300 := by
  decide +kernel

/-! ### Field inputs (10.7, 10.8) -/

/-- 10.7: a press during the lockout is reported with 8810 ms remaining. -/
theorem test_dispatch_ignored :
    let l := { contact (.dispatch 5) with lockoutEnd := some 8810 }
    (after (.edge 3 .high) (wired 3 l (timed 54561))).work.hlu.reports.map Report.body = [.dispatchIgnored 3 5 8810] := by
  decide +kernel

/-- 10.8 steps 2 and 5: the second key enters override; OVERRIDE SET ON finds it active. -/
theorem test_keys :
    let on := { contact .overrideKey with active := .low, raw := .low, filtered := .low }
    let off := { on with raw := .high, filtered := .high }
    let t := after (.edge 15 .low) (wired 14 on (wired 15 off State.reset))
    (t.base.fiu.override, t.work.hlu.reports.map Report.body) = (true, [.overrideEntered .keys true false]) := by
  decide +kernel

/-- R174: the reply to OVERRIDE SET ON. -/
theorem test_override_set :
    answer (.overrideSet hd (some true)) State.reset = some ⟨.ok, [], .override true false true⟩ := by decide +kernel

/-- R170: the third sample that disagrees is an edge. -/
theorem test_third_sample :
    ((after (.filterSample 3 .high) (wired 3 { contact .unused with filter := some 4, disagree := 2 } State.reset)).line 3).filtered
      = .high := by decide +kernel

/-- R172: the lockout ends. -/
theorem test_lockout_end :
    ((after (.lockoutEnd 3) (wired 3 { contact (.dispatch 5) with lockoutEnd := some 0 } State.reset)).line 3).lockoutEnd
      = none := by decide +kernel

/-- R168: a role that another line holds is refused, naming that line. -/
theorem test_role_in_use :
    answer (.configureLine hd 4 ⟨.is .sync, .omitted, .omitted, .omitted, none⟩) (wired 2 (contact .sync) State.reset)
      = some ⟨.inUse, [], .holder 2⟩ := by decide +kernel

/-! ### Host link (11.8) -/

/-- The CRC of R178 over the characters "123456789" is 29B1, the published check value of this polynomial and start. -/
theorem test_crc : crc16 [0x31, 0x32, 0x33, 0x34, 0x35, 0x36, 0x37, 0x38, 0x39] = 0x29B1 := by decide +kernel

/-- R178: a length of 1027 is discarded and counted. -/
theorem test_bad_length : (after (.hostFrame [0xA5, 0x04, 0x03]) State.reset).work.hlu.badLengths = 1 := by decide +kernel

/-- R178: a frame with a wrong check is discarded and counted, and no reply is sent. -/
theorem test_bad_check :
    let t := after (.hostFrame [0xA5, 0x00, 0x02, 0x01, 0x03, 0x00, 0x00]) State.reset
    (t.work.hlu.badChecks, t.work.hlu.inbound) = (1, []) := by decide +kernel

/-- R178: the time limit. -/
theorem test_frame_timeout :
    let t := after .frameTimeout (State.reset.mapHlu fun h => { h with rx := .length 0 [] })
    (t.work.hlu.rx, t.work.hlu.frameTimeouts) = (.hunt, 1) := by decide +kernel

/-- R178: a frame whose last byte has not come 50 ms after its first is discarded, and the bytes are examined in HUNT. -/
theorem test_frame_limit :
    let s := fun e : Nat => ({ State.reset with base := { State.reset.base with elapsed := e } }).mapHlu fun h =>
      { h with rx := .length 7 [] }
    ((after (.hostFrame [0x00]) (s 56)).work.hlu.rx, (after (.hostFrame [0x00]) (s 57)).work.hlu.rx)
      = (.length 7 [0x00], .hunt) := by decide +kernel

/-- 2.11, 11.7: the creation of 1A47 as bytes, and with its class flag alone set in the none set too. -/
theorem test_put_layout :
    readPut [0x04, 0x31, 0x41, 0x34, 0x37, 0x52, 0x00, 0x00, 0x00, 0x00, 0x05, 0x11, 0x28, 0x00, 0x00, 0x0C, 0x00]
        = .request (.servicePut create1) ∧
      readPut [0x01, 0x41, 0x80, 0x00, 0x80, 0x00] = .request (.servicePut { bare [0x41] with cls := .none }) ∧
      readPut [0x01, 0x41, 0x80, 0x00, 0x00, 0x00] = .misfit 7 ∧
      readPut [0x01, 0x41, 0x00, 0x80, 0x00, 0x00, 0x15] = .misfit 49 := by decide +kernel

/-- 11.7, R180: of items whose texts have 255 characters, a third cut short needs 781 bytes, and a fourth 1041, which no payload
holds. -/
theorem test_text_length :
    let item : List Byte := [0, 1, 0xFF, 0xFF, 255] ++ List.replicate 255 0x41
    let cut : List Byte := [0, 2, 0xFF, 0xFF, 255, 0x41]
    (readPayload .textLoad (3 :: item ++ item ++ cut), readPayload .textLoad (4 :: item ++ item ++ item ++ cut))
      = (.misfit 781, .misfit 0) := by decide +kernel

/-- R180: a kind with its top bit set is no request's. -/
theorem test_bad_kind :
    let t := after (.hostFrame [0xA5, 0x00, 0x02, 0x81, 0x03, 0xF2, 0x6A]) State.reset
    t.replyTo 0 = some ⟨.badKind, [], .nothing⟩ := by decide +kernel

/-- R180: a request that waits keeps its fields, and is served once the impulse has ended that the one before it waits for. -/
theorem test_served_in_turn :
    let x : ClockSection := clockSection (caseD 3 55)
    let s := (dial 2 { caseF with waiting := some x } (timed 0)).mapHlu fun h => { h with
      arrivals := 2
      inbound := [⟨0, 7, .request (.configureClockLine 2 (caseD 3 55)), .inService, false⟩,
        ⟨1, 8, .request (.textLoad [⟨9, [0x51], none⟩]), .waiting, false⟩] }
    let t := after (.impulseEnd 2) s
    (t.replyTo 1, t.base.txs[9]?) = (some Reply.ok, some ⟨[0x51], none⟩) := by decide +kernel

/-- 11.8: the queue full, frame 6 is refused BUSY, and its reply is sent first when no other is built. -/
theorem test_busy :
    let four := (List.range 4).map fun n => (⟨n, 1, .request .status, if n = 0 then .inService else .waiting, false⟩ : Inbound)
    let t := after (.timeGet ⟨6, none⟩) (State.reset.mapHlu fun h => { h with inbound := four, arrivals := 4 })
    (t.work.hlu.busyReplies, t.work.hlu.tx) = (1, some (.busy 4)) := by decide +kernel

/-- R182: the last byte of a report frees its place. -/
theorem test_report_sent :
    let s := State.reset.mapHlu fun h => { h with reports := [⟨1, .feed, .feedRestored⟩], tx := some .report }
    (after .hostFrameSent s).work.hlu.reports = [] := by decide +kernel

/-- R183: one class enabled. -/
theorem test_report_mask : answer (.reportMask hd [some .feed]) State.reset = some ⟨.ok, [], .mask [.feed]⟩ := by
  decide +kernel

/-- R186: the feed lost. -/
theorem test_feed_lost :
    (after .feedLost State.reset).work.hlu.reports.map Report.body = [.feedLost 60] := by decide +kernel

/-- R184. -/
theorem test_identify : (answer (.identify hd) State.reset).map Reply.result = some .ok := by decide +kernel

/-- R185: the lost flag is cleared. -/
theorem test_status : (after (.status hd) (State.reset.mapHlu fun h => { h with lost := true })).work.hlu.lost = false := by
  decide +kernel

/-- R187: RESTART takes effect when its reply has gone out, and then the table is empty. -/
theorem test_restart :
    let s := (holding 0 [train key1 41 54600 none]).mapHlu fun h =>
      { h with inbound := [⟨0, 7, .request .restart, .answered Reply.ok, true⟩], tx := some (.reply 0), arrivals := 1 }
    (after (.restart hd) (holding 0 [train key1 41 54600 none])).work.svt.services.length = 1
      ∧ (after .hostFrameSent s).work.svt.services = [] := by decide +kernel

/-- R2: a C0 that differs is refused once the timebase is set. -/
theorem test_general_c0 :
    let r : GeneralReq :=
      { c0 := some 151, period := .omitted, overdue := none, retain := none, abandon := none, window := none
        departing := none, tolerance := none, flashTime := none, startText := none, degradedText := none
        overrideText := none, feedTimeout := none }
    answer (.configureGeneral hd r) (timed 0) = some ⟨.state, [], .field .c0⟩ := by decide +kernel

/-- R1: power-on. -/
theorem test_power_on : (after .powerOn (timed 5)).base.tbs.state = .unset := by decide +kernel

/-! ### Witnesses: states and operands that meet the hypotheses of each statement together -/

/-- A part with an empty inbound queue is ready for a request. -/
theorem ready_when (s : State) (h : s.work.hlu.inbound = []) : s.ready := by
  unfold State.ready
  rw [h]
  exact ⟨by decide, fun _ he => absurd he List.not_mem_nil⟩

/-- A timebase before its first setting, its C0 at the end of its range, with a clock line WAITING. -/
def unsetLate : State :=
  dial 3 { ClockLine.reset with state := .waiting } (State.reset.mapTbs fun tb => { tb with c0 := 1439 })

theorem witness_TimeGetAnswersTheSnapshot :
    unsetLate.ready ∧ hd.misfit = none ∧ unsetLate.base.tbs.Inv ∧ unsetLate.base.tbs.state = .unset := by
  refine ⟨ready_when _ rfl, rfl, ?_, rfl⟩
  unfold Timebase.Inv
  decide +kernel

theorem witness_FirstTimeSetPlacesTheDay :
    unsetLate.ready ∧ hd.misfit = none ∧ 23 ≤ 23 ∧ 59 ≤ 59 ∧ 999 ≤ 999 ∧ unsetLate.base.tbs.state = .unset ∧
      unsetLate.base.tbs.c0 ≤ 1439 ∧ (unsetLate.clock 3).state = .waiting ∧ (unsetLate.clock 2).state ≠ .waiting :=
  ⟨ready_when _ rfl, rfl, by decide +kernel⟩

/-- At both ends of the range of d, with d = 0, through the changeover, and at the limit. -/
theorem witness_TimeSetStepsTheClock :
    (timed 0).ready ∧ hd.misfit = none ∧ (timed 0).base.tbs.state ≠ .unset ∧
      ((timed 0).base.tbs.clockMillis + (-43200000) - ((3600 * 14 + 60 * 30 + 0) * 1000 + 0 : Nat)) % 86400000 = 0 ∧
      ((timed 0).base.tbs.clockMillis + 43199999 - ((3600 * 14 + 60 * 29 + 59) * 1000 + 999 : Nat)) % 86400000 = 0 ∧
      ((timed 0).base.tbs.clockMillis + 0 - ((3600 * 2 + 60 * 30 + 0) * 1000 + 0 : Nat)) % 86400000 = 0 ∧
      ((timed 86395).base.tbs.clockMillis + 75000 - ((3600 * 2 + 60 * 31 + 10) * 1000 + 0 : Nat)) % 86400000 = 0 :=
  ⟨ready_when _ rfl, rfl, by decide +kernel⟩

/-- A first TIME SET, a step through the changeover and an agreement step, with the classes of their reports enabled and none
lost; a clock line changes its state at each. -/
theorem witness_TimeReports :
    let line := { ClockLine.reset with state := .running, indicated := 7 }
    let enabled := fun t : State =>
      t.work.hlu.mask.contains .time && t.work.hlu.mask.contains .clockLine && !t.work.hlu.lost
    let first := after (.timeSet hd 23 59 59 999) unsetLate
    let step := after (.timeSet hd 2 31 10 0) (dial 3 line (timed 86395))
    let agreed := after (.edge 2 .high) (dial 3 line (wired 2 (contact .sync)
      ((timed 2).mapTbs fun tb => { tb with secPos := 1, rejected := [2101, 1901] })))
    enabled first = true ∧ enabled step = true ∧ enabled agreed = true ∧
      stateChanges first.base.tbs .timeSet unsetLate.scd first.scd ≠ [] ∧
      step.work.hlu.reports.map Report.body =
        [.changeover 150 true, .clockLineState 3 .running .catchup .step 7 (some 151) (some 144),
          .timeStepped ⟨86395, 70, 75000, 75000, .timeSet, false, true⟩] ∧
      (agreed.work.hlu.reports.map Report.body).getLast? = some (.syncRegained .free 2001 true) := by decide +kernel

/-- The last two seconds of a day; a board whose page period ends; a cue that is late, at the changeover and in the day; and
the feed one second from its timeout. -/
theorem witness_SecondEventAdvancesTime :
    let board := boarded { oneRow with period := 5 } (timed 86398)
    let late := fun (t at' : Int) => linked .blocked { cue87 .queued with latest := at' } (timed t)
    let fed := (timed 0).mapHlu fun h => { h with feedCount := 59 }
    (timed 86398).base.tbs.state ≠ .unset ∧ (timed 86399).base.tbs.state ≠ .unset ∧
      ((holding 0 [train key1 41 54600 none]).work.svt.services.map Service.key).Nodup ∧
      board.work.board 3 = some (onFirstPage { oneRow with period := 5 }) ∧ board.work.online 3 = true ∧
      board.base.fiu.override = false ∧ (onFirstPage oneRow).presentation = .normal ∧ 5 ≤ (onFirstPage oneRow).timer + 1 ∧
      (strung 0 WallString.reset board).work.online 3 = false ∧
      (late 86398 86398).work.svt.services = [] ∧ (86398 : Int) < 86399 ∧
      (late 86399 86399).work.cuc.queue = [{ cue87 .queued with latest := 86399 }] ∧ (86399 : Int) - 86400 < 0 ∧
      fed.work.hlu.feedTimeout ≠ 0 ∧ fed.work.hlu.degraded = false ∧ fed.work.hlu.feedTimeout ≤ fed.work.hlu.feedCount + 1 := by
  decide +kernel

/-- A late cue beside a service, with the link blocked and no rule that has a cue; a staged pair that is due at the next second,
and one a second later. -/
theorem witness_SecondBesideServices :
    let staged := fun at' : Int => { train key1 41 54600 none with staged := some (⟨14, 0⟩, at') }
    let s := linked .blocked { cue87 .queued with latest := 54000 } (holding 54000 [staged 54001])
    s.base.tbs.state ≠ .unset ∧ s.work.cuc.maySelect = false ∧ s.work.cuc.queue = [{ cue87 .queued with latest := 54000 }] ∧
      (∀ i r, s.work.nre.rule i = some r → r.cue = none) ∧ (54000 : Int) < 54000 + 1 ∧
      (staged 54001).staged = some (⟨14, 0⟩, 54001) ∧ (54001 : Int) ≤ 54000 + 1 ∧ ¬ (54002 : Int) ≤ 54000 + 1 ∧
      (staged 54001).current ≠ some ⟨14, 0⟩ ∧ (s.work.svt.services.map Service.key).Nodup := by
  refine ⟨by decide, by decide +kernel, by decide +kernel, ?_, by decide +kernel⟩
  intro i r h
  have h : (List.replicate 64 (none : Option Rule))[i]?.getD none = some r := h
  rw [List.getElem?_replicate] at h
  split at h <;> exact absurd h nofun

theorem witness_WaitingCue : (cue87 .queued).waits ∧ (cue87 .held).waits ∧ ¬ (cue87 .sending).waits :=
  ⟨.inl rfl, .inr rfl, by rintro (h | h) <;> cases h⟩

/-- A part whose line 2 is a SYNC line, with its clock `ms` past a minute. -/
def syncing (t : Int) (ms : Nat) (held : List Int) : State :=
  wired 2 (contact .sync) ((timed t).mapTbs fun tb => { tb with secPos := ms, rejected := held })

/-- Ignored in UNSET; accepted at o = 2000; rejected at o = 2001; agreed at o = 2001 with offsets 100 ms away. -/
theorem witness_SyncPulseMeasured :
    2 < (syncing 2 0 []).base.fiu.lines.length ∧ ((syncing 2 0 []).line 2).role = .sync ∧
      ((syncing 2 0 []).line 2).active = .high ∧ ((syncing 2 0 []).line 2).filtered ≠ .high ∧
      (syncing 2 1 [2101, 1901]).base.tbs.rejected.length ≤ 2 ∧ (syncing 2 0 []).base.tbs.state ≠ .unset ∧
      (syncing 2 0 []).base.tbs.lastPulse = none ∧ pulseOffset (syncing 2 0 []).base.tbs = 2000 ∧
      pulseOffset (syncing 2 1 []).base.tbs = 2001 ∧
      (syncing 2 1 [2101, 1901]).base.tbs.rejected = [2101, 1901] ∧ |(2001 : Int) - 2101| ≤ 100 ∧ |(2001 : Int) - 1901| ≤ 100 ∧
      (wired 2 (contact .sync) State.reset).base.tbs.state = .unset := by decide +kernel

/-- A waiting cue that is late after a first TIME SET, after a step, after one that passes the day, and after an agreement step of
an empty table; and one that no removal withdraws, beside a service, with no selection and no rule that has a cue. -/
theorem witness_LateCues :
    let late := fun (at' : Int) (s : State) => linked .blocked { cue87 .queued with latest := at' } s
    let free := { (cue87 .queued).template with withdrawOnClear := false }
    let beside := linked .blocked { cue87 .queued with latest := 54000, template := free } (holding 54000 [train key1 41 54600 none])
    let agreed := late (-1) (syncing 2 1 [2101, 1901])
    (late 0 unsetLate).ready ∧ (cue87 .queued).state = .queued ∧ (late 0 unsetLate).base.tbs.state = .unset ∧
      (0 : Int) < (after (.timeSet hd 23 59 59 999) (late 0 unsetLate)).base.tbs.t ∧
      (late 0 (timed 0)).work.svt.services = [] ∧
      (0 : Int) < (after (.timeSet hd 2 31 10 0) (late 0 (timed 0))).base.tbs.t ∧
      (86395 : Int) - 86400 < (after (.timeSet hd 2 31 10 0) (late 86395 (timed 86395))).base.tbs.t ∧
      agreed.base.tbs.t = 2 ∧ (-1 : Int) < (after (.edge 2 .high) agreed).base.tbs.t ∧
      beside.work.cuc.maySelect = false ∧ (∀ i < 64, beside.work.nre.rule i = none) ∧ free.withdrawOnClear = false ∧
      (54000 : Int) < (after (.timeSet hd 17 31 0 0) beside).base.tbs.t := ⟨ready_when _ rfl, by decide +kernel⟩

theorem witness_SyncLostGivesHoldover : ((timed 0).mapTbs fun tb => { tb with state := .locked }).base.tbs.state = .locked := rfl

/-- A part at the last second of the day with a second event waiting. -/
def ticking : State := { timed 86399 with pending := [.secondEvent] }

theorem witness_TimebaseRangesKept :
    let s := { timed 86399 with pending := [.syncLost] }
    s.base.tbs.Inv ∧ ∃ t, step s = .next t := by
  refine ⟨?_, _, rfl⟩
  unfold Timebase.Inv
  decide +kernel

theorem witness_PutCreatesTheRecord :
    (holding 53400 []).ready ∧ hd.misfit = none ∧ putRefusal (holding 53400 []) create1 = none ∧
      (holding 53400 []).work.svt.find create1.key = none ∧ (holding 53400 []).work.svt.services.length < 192 :=
  ⟨ready_when _ rfl, rfl, by decide +kernel⟩

/-- 1A47 held, with a stale flag that a carried expected time clears. -/
def stale1 : State := holding 54000 [{ train key1 41 54600 (some 12) with stale := true }]

/-- The update of 1A47 in 2.11. -/
def update1 : PutReq := { bare key1 with expected := .value ⟨17, 44, 0, 0⟩, status := .value (some .delayed) }

theorem witness_PutUpdatesTheRecord :
    stale1.ready ∧ hd.misfit = none ∧ putRefusal stale1 update1 = none ∧
      stale1.work.svt.find key1 = some { train key1 41 54600 (some 12) with stale := true } ∧
      isPresent update1.expected = true := ⟨ready_when _ rfl, rfl, by decide +kernel⟩

/-- 1A47 with the slots `slots` and the HEAD 63, held before if `held`, with a COUNT watch of 2. -/
def watched (held : Bool) (slots : List (Option Slot)) : State :=
  (holding 54000 [{ train key1 41 54600 (some 12) with held := if held then [63] else [] }]).mapWork (Work.mapNre fun n =>
    { n with
      slots := slots ++ n.slots.drop slots.length
      rules := n.rules.set 63 (some { ruleRecord headReq with watch := some (.count 2) }) })

/-- An update that carries the expected field and changes the platform, with slots of each mode that remain, below the threshold
and at it, and with a HEAD that rises and finds a slot free. -/
theorem witness_PutMarksTheSlots :
    let r := { update1 with platform := .value ⟨7, 0⟩ }
    let u := { updatedRecord 150 54000 r (train key1 41 54600 (some 12)) with held := [63] }
    let s := watched true [some ⟨63, key1, .timeout 10 1, false⟩, some ⟨63, key1, .count 2 0, false⟩, some ⟨63, key1, .count 2 1, true⟩]
    let rising := watched false []
    let after63 := fun v : State => (v.work.svt.find key1).map fun y => y.held.contains 63
    s.ready ∧ putRefusal s r = none ∧ putRefusal rising r = none ∧
      ((s.work.svt.find key1).map fun x => (x.current, x.unsettled)) = some (some ⟨12, 0⟩, false) ∧
      u.current = some ⟨7, 0⟩ ∧ isPresent r.expected = true ∧
      (s.work.nre.rule 63).map (fun g => s.work.nre.headHolds 54000 s.work.nre.ruleTime s.work.nre.ruleTime g u) = some true ∧
      after63 (after (.servicePut hd r) s) = some true ∧ (after (.servicePut hd r) s).work.hlu.lost = false ∧
      (rising.work.svt.find key1).map Service.held = some [] ∧ rising.work.nre.slots[0]? = some none ∧
      after63 (after (.servicePut hd r) rising) = some true ∧ (∀ k < 63, rising.work.nre.rule k = none) :=
  ⟨ready_when _ rfl, by decide +kernel⟩

/-- A payload of the wrong length; a malformed key; and each case of the checks of SERVICE PUT. -/
theorem witness_RefusedRequestsChangeNothing :
    stale1.ready ∧ requestOf (.timeGet ⟨7, some 0⟩) = some (⟨7, some 0⟩, .timeGet) ∧
      requestOf (.serviceDrop hd []) = some (hd, .serviceDrop []) ∧ hd.misfit = none ∧
      stale1.refusalOf (.serviceDrop []) = some ⟨.badField, [], .field .key⟩ ∧
      State.reset.base.tbs.state = .unset ∧ stale1.base.tbs.state ≠ .unset := ⟨ready_when _ rfl, by decide +kernel⟩

/-- The first field of a SERVICE PUT, the last, and one in the middle that fail when the others do not; and none that fails. -/
theorem witness_PutFieldsFail :
    keyForm (bare []).key = false ∧
      (∃ m, (Carried.value ⟨0, 256, 0, 0⟩ : Carried MsgTime) = .value m ∧ ∀ v, convertTime 150 m ≠ some v) ∧
      (∃ is, (Carried.value [1023, 1024] : Carried (List Nat)) = .value is ∧ (20 < is.length ∨ ∃ i ∈ is, 1023 < i)) ∧
      ∀ p ∈ putFieldFails 150 (bare key1), ¬ p.2 := by
  refine ⟨by decide, ⟨_, rfl, ?_⟩, ⟨_, rfl, by decide⟩, ?_⟩
  · have : convertTime 150 ⟨0, 256, 0, 0⟩ = none := by decide +kernel
    intro v; rw [this]; exact nofun
  · have : keyForm key1 = true := by decide +kernel
    simp [putFieldFails, bare, this]

/-- A creation without destination, one without scheduled, one with both; a held record that has departed, and one that has
not. -/
theorem witness_PutChecksThreeAndFour :
    stale1.work.svt.find key2 = none ∧ (∀ i, (bare key2).destination ≠ .value i) ∧
      (∃ i, { bare key2 with destination := .value 5 }.destination = .value i) ∧
      (∀ m, { bare key2 with destination := .value 5 }.scheduled ≠ .value m) ∧
      (holding 0 []).work.svt.find create1.key = none ∧ (∃ i, create1.destination = .value i) ∧
      (∃ m, create1.scheduled = .value m) ∧
      ((holding 0 [{ train key1 41 54600 none with actual := some 0 }]).work.svt.find key1).map Service.actual = some (some 0) ∧
      { bare key1 with actual := .none }.actual = .none ∧ (stale1.work.svt.find key1).map Service.actual = some none :=
  ⟨by decide +kernel, nofun, ⟨5, rfl⟩, nofun, by decide +kernel, ⟨5, rfl⟩, ⟨_, rfl⟩, by decide +kernel, rfl, by decide +kernel⟩

/-- The third check of a request is the first to fail; the last check of another is; and requests whose every check passes. -/
theorem witness_ChecksInOrder :
    let s := boarded oneRow stale1
    ((s.checksOf (.timeSet 23 59 60 1000))[2]? = some (⟨.badField, [], .field .second⟩, 59 < 60) ∧ 59 < 60 ∧
        ∀ (j : Nat) (other : Reply) (earlier : Prop), j < 2 → (s.checksOf (.timeSet 23 59 60 1000))[j]? = some (other, earlier) →
          ¬ earlier) ∧
      ((s.checksOf (.boardGet 4))[1]? = some (⟨.notFound, [], .field .boardNumber⟩, s.work.board 4 = none) ∧
        s.work.board 4 = none ∧ ¬ 15 < 4) ∧
      (∀ p ∈ s.checksOf (.timeSet 23 59 59 999), ¬ p.2) ∧ (∀ p ∈ s.checksOf (.boardGet 3), ¬ p.2) ∧
      ∀ p ∈ s.checksOf (.serviceDrop key1), ¬ p.2 := by
  have hk : keyForm key1 = true := by decide +kernel
  have hb : (boarded oneRow stale1).work.board 3 ≠ none := by decide +kernel
  have hf : (boarded oneRow stale1).work.svt.find key1 ≠ none := by decide +kernel
  refine ⟨⟨rfl, by decide, ?_⟩, ⟨rfl, by decide +kernel, by decide⟩, ?_, ?_, ?_⟩
  · intro j other earlier hj h
    match j, hj with
    | 0, _ => cases h; decide
    | 1, _ => cases h; decide
  · simp [State.checksOf, fieldChecks]
  · simp [State.checksOf, hb]
  · simp [State.checksOf, keyChecks, hk, hf]

/-- The keys of a full table: three characters each, no two alike. -/
def fullKeys : List Key := (List.range 192).map fun n => [0x41, BitVec.ofNat 8 (0x30 + n / 20 % 10), BitVec.ofNat 8 (0x41 + n % 20)]

/-- A full table in which every record has K = `k`. -/
def full (k : Int) : State := holding 60000 (fullKeys.map fun key => train key 1 k none)

/-- The creation in a full table, where a record is overdue by 1801 s, and where none is. -/
theorem witness_FullTableEvictsOrRefuses :
    (full 58199).ready ∧ hd.misfit = none ∧ putRefusal (full 58199) create1 = none ∧
      (full 58199).work.svt.find create1.key = none ∧ 192 ≤ (full 58199).work.svt.services.length ∧
      (full 58199).work.svt.services.any (fun x => decide (60 * (30 : Int) < 60000 - x.k)) = true ∧
      putRefusal (full 58200) create1 = none ∧ (full 58200).work.svt.find create1.key = none ∧
      (full 58200).work.svt.services.all (fun x => !decide (60 * (30 : Int) < 60000 - x.k)) = true :=
  ⟨ready_when _ rfl, rfl, by decide +kernel⟩

theorem witness_DropFreesTheRecord :
    stale1.ready ∧ hd.misfit = none ∧ keyForm [] = false ∧ keyForm key1 = true ∧ stale1.work.svt.find key1 ≠ none ∧
      stale1.work.svt.find key2 = none := ⟨ready_when _ rfl, rfl, by decide +kernel⟩

/-- Ignored in a lockout of 0 ms; captured at K − t = 300; unmatched at 301. -/
theorem witness_DispatchCapturesTheCandidate :
    let l := contact (.dispatch 12)
    let s := fun t => wired 3 l (holding t [train key1 41 54600 (some 12)])
    3 < (s 54300).base.fiu.lines.length ∧ ((s 54300).line 3).role = .dispatch 12 ∧ ((s 54300).line 3).active = .high ∧
      ((s 54300).line 3).filtered ≠ .high ∧ ((s 54300).line 3).lockoutEnd = none ∧
      (s 54300).work.captured (s 54300).base 12 ≠ none ∧ (s 54299).work.captured (s 54299).base 12 = none ∧
      ((wired 3 { l with lockoutEnd := some 0 } (timed 0)).line 3).lockoutEnd = some 0 := by decide +kernel

/-- 1A47 departing, with one second left. -/
def departing1 : Service := { train key1 41 54600 (some 12) with status := .departing, timer := some 1 }

theorem witness_TimerEndMakesDeparted :
    (holding 54725 [departing1]).work.svt.find key1 = some departing1 ∧ departing1.timer.isSome = true := by decide +kernel

/-- A staged pair that is due at its moment, and not a second before. -/
theorem witness_TimeEventsAtTheTable :
    let x := { train key2 42 55320 none with staged := some (⟨14, 0⟩, 54300) }
    (holding 54300 [x]).work.svt.find key2 = some x ∧ x.staged = some (⟨14, 0⟩, 54300) ∧
      (54300 : Int) ≤ (holding 54300 [x]).base.tbs.t ∧ ¬ (54300 : Int) ≤ (holding 54299 [x]).base.tbs.t := by decide +kernel

/-- The last second of the day, and a step of 43199.999 s that changes over. -/
theorem witness_TableAtSecondsAndSteps :
    let s := holding 86399 [train key2 42 55320 none, { train key1 41 86380 none with timer := some 1, status := .departing }]
    s.ready ∧ hd.misfit = none ∧ s.base.tbs.state ≠ .unset ∧ (s.work.svt.services.map Service.key).Nodup ∧
      (43199999 : Int) ≠ 0 ∧
      (s.base.tbs.clockMillis + 43199999 - ((3600 * 14 + 60 * 29 + 58) * 1000 + 999 : Nat)) % 86400000 = 0 :=
  ⟨ready_when _ rfl, rfl, by decide +kernel⟩

/-- 02:30:00 day −1 converts to the value −86400, out of range; 14:30:00 day −1 to −43200, the least; 14:29:59 day +1 to
129599, the greatest. -/
theorem witness_MessageTimesConvertAndReadBack :
    150 ≤ 1439 ∧ convertTime 150 ⟨14, 30, 0, -1⟩ = some (-43200) ∧ convertTime 150 ⟨14, 29, 59, 1⟩ = some 129599 ∧
      convertTime 150 ⟨2, 30, 0, -1⟩ = none := by decide +kernel

/-- E absent; E < S by one second; E = S; both at the ends of the stored range; and a countdown predicate that holds. -/
theorem witness_DepartureFiguresRead :
    (train key1 1 60 none).expected = none ∧
      (let x := { train key1 1 60 none with expected := some 59 }; x.expected = some 59 ∧ (59 : Int) < x.scheduled) ∧
      (let x := { train key1 1 60 none with expected := some 60 }; x.expected = some 60 ∧ x.scheduled ≤ (60 : Int)) ∧
      (let x := { train key1 1 (-43200) none with expected := some 129599 }
       x.expected = some 129599 ∧ -43200 ≤ x.scheduled ∧ (129599 : Int) ≤ 129599) ∧
      predsHold 0 0 0 { anyTrain with countdown := some (1, 1) } (train key1 1 60 none) = true := by decide +kernel

/-- Sixteen items, the last index, a text of 32 characters and the last phrase code. -/
def items16 : List TextItem := (List.range 16).map fun n => ⟨1008 + n, List.replicate 32 0x7E, some 4095⟩

theorem witness_TextLoadWritesTheEntries :
    State.reset.ready ∧ hd.misfit = none ∧ 1 ≤ items16.length ∧ items16.length ≤ 16 ∧
      (items16.map TextItem.index).Nodup ∧
      (∀ x ∈ items16, x.index ≤ 1023 ∧ x.text.length ≤ 32 ∧ (x.phrase.all fun p => decide (p ≤ 4095)) = true ∧
        ∀ c ∈ x.text, (0x20 ≤ c.toNat ∧ c.toNat ≤ 0x7E) ∨ 0xA0 ≤ c.toNat) ∧ State.reset.base.txs.length = 1024 :=
  ⟨ready_when _ rfl, rfl, by decide +kernel⟩

/-- Two boards of one row each that show 1A47, one of which reads the first index that the items change, and one of which reads
no such index. -/
theorem witness_TextChangeDerives :
    let x := fun d : Nat => { train key1 41 54600 none with destination := d }
    let s := fun d : Nat => (boarded oneRow (holding 54000 [x d])).mapWork fun w => { w with bcp := { w.bcp with
      boards := w.bcp.boards.map (Option.map fun bd => { bd with eligible := [key1] }) } }
    let bd := { onFirstPage oneRow with eligible := [key1] }
    3 < 16 ∧ (s 1008).work.online 3 = true ∧ (s 1008).work.board 3 = some bd ∧ (s 1008).work.hlu.degraded = false ∧
      0 < (s 1008).work.bcp.cells.length ∧ 1 ≤ oneRow.first ∧
      oneRow.first + oneRow.rows - 1 ≤ ((s 1008).work.bcp.cells.getD 0 []).length ∧ 1 ≤ oneRow.rows ∧
      (∀ m < 16, m ≠ 3 → (s 1008).work.board m = none) ∧
      bd.assigned (s 1008).base (s 1008).work 1 = .service (x 1008) ∧ (RowSource.service (x 1008)).reads (s 1008).work 1008 ∧
      bd.assigned (s 0).base (s 0).work 1 = .service (x 0) ∧
      (textEntry (s 1008).base.txs 1008).text ≠ List.replicate 32 0x7E := by
  refine ⟨by decide, by decide +kernel, by decide +kernel, by decide +kernel, by decide +kernel, by decide, by decide +kernel,
    by decide, by decide +kernel, by decide +kernel, .inl rfl, by decide +kernel, by decide +kernel⟩

/-- A text store of blanks. -/
def blankTexts : State :=
  { State.reset with base := { State.reset.base with txs := List.replicate 1024 ⟨[0x20], some 4095⟩ }, pending := [.feedLost] }

theorem witness_TextsChangeOnlyByTextLoad :
    textsInv blankTexts.base.txs ∧ (∃ t, step blankTexts = .next t) ∧
      (∀ h items, blankTexts.pending.head? ≠ some (.textLoad h items)) ∧ blankTexts.pending.head? ≠ some .powerOn ∧
      (∀ bytes, blankTexts.pending.head? = some (.hostFrame bytes) → ∀ f ∈ completedFrames 0 .hunt bytes, ∀ items,
        frameOf f.1 f.2 ≠ .request (.textLoad items)) ∧
      ∀ e ∈ blankTexts.work.hlu.inbound, e.progress = .waiting → ∀ items, e.frame ≠ .request (.textLoad items) := by
  refine ⟨?_, ⟨_, rfl⟩, fun _ _ => nofun, nofun, fun _ => nofun, fun _ he => absurd he List.not_mem_nil⟩
  unfold textsInv
  refine ⟨by decide +kernel, fun e he => ?_⟩
  have he : e = ⟨[0x20], some 4095⟩ := List.eq_of_mem_replicate he
  subst he
  decide +kernel

/-- Bytes that complete one frame, whose kind names no request. -/
theorem witness_FrameWithoutTexts :
    completedFrames 0 .hunt [0xA5, 0x00, 0x02, 0x81, 0x03, 0xF2, 0x6A] = [(0x81, [])] ∧
      ∀ items, frameOf 0x81 [] ≠ .request (.textLoad items) := ⟨by decide +kernel, fun _ => nofun⟩

/-- A section for board 3: addresses 40 to 63, the last; a page period below its range. -/
def boardReq : BoardReq :=
  { enabled := .omitted, string := some 0, first := some 40, rows := some 24, kind := .is .list, platforms := none
    classes := none, horizon := none, fixed := some 24, period := some 4, showDue := none, showExpected := none
    showCoaches := none }

theorem witness_ConfigureBoardStoresTheRecord :
    State.reset.ready ∧ hd.misfit = none ∧ boardRefusal State.reset 3 boardReq = none ∧
      3 < State.reset.work.bcp.boards.length ∧ 1 ≤ 24 ∧ 24 ≤ (boardReq.rows.getD 1) :=
  ⟨ready_when _ rfl, rfl, by decide +kernel⟩

/-- An ONLINE board that a section disables, on a string with room for its one row and no more. -/
theorem witness_BoardDisabled :
    let busy := { WallString.reset with
      enabled := true, activity := .awaiting 20, inFlight := some (⟨63, .blank⟩, 1), queue := List.replicate 47 ⟨9, .blank⟩ }
    let s := strung 0 busy (boarded oneRow (timed 0))
    let r := { boardReq with enabled := .is false }
    s.ready ∧ boardRefusal s 3 r = none ∧ argOr true r.enabled = false ∧ s.work.online 3 = true ∧
      s.work.board 3 = some (onFirstPage oneRow) ∧ s.work.hlu.degraded = false ∧ 0 < s.work.bcp.cells.length ∧ 1 ≤ oneRow.first ∧
      oneRow.first + oneRow.rows - 1 ≤ (s.work.bcp.cells.getD 0 []).length ∧ (s.work.string 0).drain = false ∧
      (s.work.string 0).queue.length + oneRow.rows ≤ 48 := ⟨ready_when _ rfl, by decide +kernel⟩

/-- The last row that an address can hold, in each presentation and on each kind of board. -/
theorem witness_DerivationAssignsTheRows :
    let rec' := { oneRow with first := 40, rows := 24 }
    let s := boarded rec' (timed 0)
    s.work.board 3 = some (onFirstPage rec') ∧ rec'.string < s.work.bcp.cells.length ∧ 1 ≤ rec'.first ∧
      rec'.first + rec'.rows - 1 ≤ (s.work.bcp.cells.getD 0 []).length ∧ 1 ≤ 24 ∧ 24 ≤ rec'.rows ∧
      s.base.fiu.override = false ∧ s.base.tbs.state ≠ .unset ∧ rec'.kind = .list ∧
      (boarded rec' State.reset).base.tbs.state = .unset ∧
      (boarded { rec' with kind := .platform } (timed 0)).work.board 3 = some (onFirstPage { rec' with kind := .platform }) ∧
      ((timed 0).mapFiu fun u => { u with override := true }).base.fiu.override = true := by decide +kernel

/-- Two services on a board of one row: two pages; with the page held in them, beyond them, and after the start-up text. -/
theorem witness_PagesDerived :
    let s := boarded oneRow (holding 54000 [train key1 41 54600 none, train key2 42 54660 none])
    let bd := (s.work.deriveBoard s.base none false 3).board 3
    s.work.board 3 = some (onFirstPage oneRow) ∧ s.base.fiu.override = false ∧ s.base.tbs.state ≠ .unset ∧
      oneRow.kind = .list ∧ 0 < oneRow.rows - min oneRow.fixed oneRow.rows ∧
      bd.map (fun bd => (bd.eligible.length, bd.pageCount, bd.page)) = some (2, 2, 0) ∧
      (onFirstPage oneRow).presentation = .normal ∧ (onFirstPage oneRow).page < 2 ∧
      2 ≤ ({ onFirstPage oneRow with page := 2 } : Board).page ∧
      ({ onFirstPage oneRow with presentation := .startUp } : Board).presentation ≠ .normal := by decide +kernel

/-- A HEAD that is held and has a banner for board 15 and a notice, the one candidate of each. -/
theorem witness_BannerAndNotice :
    let x := { train key1 41 54600 none with held := [63] }
    let s := (holding 0 [x]).mapWork (Work.mapNre fun n =>
      { n with rules := n.rules.set 63 (some (ruleRecord { headReq with banner := some (3, [15]), notice := some 4 })) })
    let candidate := fun (h : Nat) (r : Rule) (i : Nat) =>
      h < 64 ∧ h ∈ x.held ∧ s.work.nre.rule h = some r ∧ r.kind = .head ∧ r.notice = some i
    bannerSource s.base s.work 15 = .rule 63 ∧
      ∃ r, candidate 63 r 4 ∧
        ∀ g q j, candidate g q j → g = 63 ∨ q.priority < r.priority ∨ (q.priority = r.priority ∧ 63 < g) := by
  refine ⟨by decide +kernel, ruleRecord { headReq with banner := some (3, [15]), notice := some 4 }, ?_, ?_⟩
  · exact ⟨by decide, List.mem_singleton.mpr rfl, by decide +kernel, rfl, rfl⟩
  · rintro g q j ⟨-, hg, -⟩
    exact .inl (List.mem_singleton.mp hg)

theorem witness_PageAndFlashEnd :
    let s := boarded oneRow (holding 54000 [{ train key1 41 54600 none with flash := 1 }])
    s.work.online 3 = true ∧ s.work.board 3 = some (onFirstPage oneRow) ∧ oneRow.kind = .list ∧
      (onFirstPage oneRow).presentation = .normal ∧
      s.work.svt.find key1 = some { train key1 41 54600 none with flash := 1 } ∧ 0 < 1 := by decide +kernel

/-- A row of 1A47 as a board shows it. -/
def row1 : ServiceRow := serviceRow State.reset.base State.reset.work oneRow (train key1 41 54600 none)

/-- A PLATFORM board of two rows, the first of which is due to show 1A47, while the second has `second` on the wall. -/
def moving (second : RowContent) : State :=
  (boarded { oneRow with rows := 2, kind := .platform } (timed 0)).mapWork fun w =>
    (w.setCell 0 1 fun c => { c with desired := .service row1 }).setCell 0 2 fun c => { c with onWall := some second }

/-- A row that is due, held back by another row and free to go; and one that is not due. -/
theorem witness_RowsAreStaged :
    let bd := onFirstPage { oneRow with rows := 2, kind := .platform }
    let w := (moving (.service row1)).work
    let free := (moving .blank).work
    w.board 3 = some bd ∧ 0 < w.bcp.cells.length ∧ 0 < w.wsc.length ∧ 1 ≤ bd.record.first ∧
      bd.record.first + bd.record.rows - 1 ≤ (w.bcp.cells.getD 0 []).length ∧ bd.due 1 (w.cell 0 1) = true ∧
      (w.cell 0 1).desired = .service row1 ∧ row1.key = key1 ∧ (w.cell 0 2).onWall = some (.service row1) ∧
      (w.cell 0 2).dirty = true ∧ (w.cell 0 1).reference = none ∧ bd.due 1 (free.cell 0 1) = true ∧
      (free.cell 0 2).onWall = some .blank ∧ (free.cell 0 2).outstanding = [] ∧ bd.due 2 (free.cell 0 2) = false ∧
      (onFirstPage oneRow).rotating 1 = true := by decide +kernel

theorem witness_ConfirmationSetNamesUnshownBoards :
    15 < 16 ∧ ∃ x, x ∈ ((holding 0 [train key1 41 54600 none]).work.refreshConfirmations State.reset.base []).svt.services := by
  refine ⟨by decide, train key1 41 54600 none, ?_⟩
  decide +kernel

/-- A string enabled, and one disabled while it holds a frame. -/
theorem witness_ConfigureStringStoresTheRecord :
    let s := boarded oneRow (timed 0)
    s.ready ∧ hd.misfit = none ∧ stringRefusal 3 ⟨.is true, .omitted⟩ = none ∧ 3 < s.work.wsc.length ∧
      (s.work.string 0).enabled = true ∧ s.work.hlu.degraded = false ∧ stringRefusal 0 ⟨.is false, .omitted⟩ = none ∧
      (let off := strung 0 WallString.reset s
       (off.work.string 0).enabled = false ∧ off.work.board 3 = some (onFirstPage oneRow) ∧ oneRow.enabled = true ∧
         oneRow.string = 0 ∧ 1 ≤ 1 ∧ 1 ≤ oneRow.rows) := ⟨ready_when _ rfl, rfl, by decide +kernel⟩

/-- A string that is disabled with a frame for address 1 in its queue. -/
theorem witness_StringDisabled :
    let s := strung 0 { WallString.reset with
      enabled := true, activity := .awaiting 20, inFlight := some (⟨63, .blank⟩, 1), queue := [⟨1, .blank⟩] } (boarded oneRow (timed 0))
    s.ready ∧ stringRefusal 0 ⟨.is false, .omitted⟩ = none ∧ 0 < s.work.wsc.length ∧ (s.work.string 0).enabled = true ∧
      s.work.hlu.degraded = false ∧ ∀ f ∈ (s.work.string 0).queue, 1 ≤ f.address := ⟨ready_when _ rfl, by decide +kernel⟩

/-- A string with a frame on the line; the first platform and the last; and a remark with its greatest figure. -/
theorem witness_OffersAreAnsweredInOrder :
    let s := { WallString.reset with activity := .sending 9000, inFlight := some (⟨63, .blank⟩, 118) }
    s.activity = .sending 9000 ∧ s.inFlight = some (⟨63, .blank⟩, 118) ∧
      (let p : Designator := ⟨1, 0⟩; 1 ≤ p.num ∧ p.num ≤ 40 ∧ p.suffix ≤ 2) ∧
      (let p : Designator := ⟨40, 2⟩; 1 ≤ p.num ∧ p.num ≤ 40 ∧ p.suffix ≤ 2) ∧
      (let r := { row1 with remark := .expected ⟨23, 59⟩ 999 }; r.remark = .expected ⟨23, 59⟩ 999 ∧ 999 ≤ 999) ∧
      ∀ x d, row1.remark ≠ .expected x d := by
  refine ⟨rfl, rfl, by decide, by decide, by decide, fun x d => ?_⟩
  have h : row1.remark = .due ∨ row1.remark = .onTime := by decide +kernel
  rcases h with h | h <;> rw [h] <;> exact nofun

/-- A string with frame 118 awaiting its reply. -/
def awaiting118 : WallString :=
  { WallString.reset with enabled := true, activity := .awaiting 20, inFlight := some (⟨63, .blank⟩, 118), queue := [⟨6, .blank⟩] }

/-- A frame going out; a late reply on a string that awaits another; and any reply on a string that is sending or idle. -/
theorem witness_FrameSentAwaitsTheReply :
    ((strung 3 { WallString.reset with activity := .sending 9000 } (timed 0)).work.string 3).activity = .sending 9000 ∧
      (∀ due f q, ((strung 0 awaiting118 (timed 0)).work.string 0).activity = .awaiting due →
        ((strung 0 awaiting118 (timed 0)).work.string 0).inFlight = some (f, q) →
        (⟨63, 117, .ok, true⟩ : ModReply).checkGood = false ∨ (63 : Nat) ≠ f.address ∨ (117 : Byte) ≠ q) ∧
      ∀ due, ((timed 0).work.string 0).activity ≠ .awaiting due := by
  refine ⟨by decide +kernel, fun due f q _ h => ?_, fun due => nofun⟩
  have h : some (⟨63, .blank⟩, 118) = some (f, q) := h
  cases h
  decide +kernel

/-- A completion at the last address of a string that goes on with the next frame, and whose health changes. -/
theorem witness_CompletionsAreRecorded :
    let s := strung 0 awaiting118 (timed 0)
    0 < s.work.wsc.length ∧ (s.work.string 0).activity = .awaiting 20 ∧
      (s.work.string 0).inFlight = some (⟨63, .blank⟩, 118) ∧ (s.work.string 0).drain = false ∧
      (s.work.string 0).enabled = true ∧ (s.work.string 0).queue = ⟨6, .blank⟩ :: [] ∧ 0 < s.work.bcp.cells.length ∧
      63 - 1 < (s.work.bcp.cells.getD 0 []).length ∧ (s.work.string 0).healthOf 63 ≠ .ok ∧
      s.work.hlu.mask.contains .moduleState = true ∧ s.work.hlu.reports.length < 24 := by decide +kernel

/-- A part with one rule loaded in place 63. -/
def ruled : State := (holding 0 [train key1 41 54600 none]).mapWork (Work.mapNre fun n =>
  { n with rules := n.rules.set 63 (some (ruleRecord headReq)) })

theorem witness_RuleLoadsBringHeldSetsIntoLine :
    ruled.ready ∧ hd.misfit = none ∧ (ruled.work.svt.services.map Service.key).Nodup ∧ ruleRefusal ruled 0 headReq = none ∧
      ruleDropRefusal ruled 63 = none := ⟨ready_when _ rfl, rfl, by decide +kernel⟩

/-- A part with a board ONLINE and no service, whose place 11 is empty and is to hold a banner. -/
theorem witness_RuleLoadTellsNothing :
    let s := boarded oneRow (timed 54000)
    s.ready ∧ ruleRefusal s 11 { headReq with banner := some (3, [3]) } = none ∧ s.work.hlu.degraded = false ∧
      s.work.svt.services = [] ∧ s.work.nre.rule 11 = none := ⟨ready_when _ rfl, by decide +kernel⟩

/-- A part whose HEAD 63 has a cue, a watch and a report, and `held` as the held set of its one service. -/
def actioned (held : List Nat) (on : Bool) : State :=
  (holding 57000 [{ train key1 41 58000 none with held := held }]).mapWork fun w =>
    { w with
      nre := { w.nre with rules := w.nre.rules.set 63 (some { ruleRecord headReq with
        enabled := on, cue := some 12, watch := some (.timeout 10) }) }
      cuc := { w.cuc with templates := w.cuc.templates.set 12 (some template12) } }

/-- HEAD 63 rises, alone, with room in the cue queue and in the slots, and with no slot free; and it falls. -/
theorem witness_LoudEvaluation :
    let holds := fun (s : State) (h : Nat) => ((s.work.nre.rule h).map fun r =>
      (s.work.svt.find key1).any fun x => s.work.nre.headHolds 57000 s.work.nre.ruleTime s.work.nre.ruleTime r x) = some true
    let s := actioned [] true
    let full := s.mapWork (Work.mapNre fun n => { n with slots := n.slots.map fun _ => some ⟨1, key2, .count 2 0, false⟩ })
    s.work.svt.find key1 = some (train key1 41 58000 none) ∧ holds s 63 ∧ (∀ g < 64, holds s g → g = 63) ∧
      s.work.cuc.template 12 = some template12 ∧ s.base.fiu.override = false ∧ s.work.cuc.maySelect = false ∧
      s.work.cuc.queue = [] ∧ (57000 : Int) ≤ min (57000 + template12.validity) 58000 ∧ s.work.nre.slots[0]? = some none ∧
      holds full 63 ∧ (∀ o ∈ full.work.nre.slots, o ≠ none) ∧
      (actioned [63] false).work.svt.find key1 = some { train key1 41 58000 none with held := [63] } ∧
      ¬ holds (actioned [63] false) 63 ∧ template12.withdrawOnClear = true := by decide +kernel

/-- A step of 60 s, forward over a countdown and back, and one that changes over. -/
theorem witness_StepEvaluation :
    let s := fun t : Int => holding t [train key1 41 58000 none]
    (s 57000).ready ∧ (s 57000).base.tbs.state ≠ .unset ∧ ((s 57000).work.svt.services.map Service.key).Nodup ∧
      ((s 57000).base.tbs.clockMillis + 60000 - ((3600 * 18 + 60 * 21 + 0) * 1000 + 0 : Nat)) % 86400000 = 0 ∧
      ((s 57000).base.tbs.clockMillis + (-60000) - ((3600 * 18 + 60 * 19 + 0) * 1000 + 0 : Nat)) % 86400000 = 0 ∧
      86400000 ≤ 1000 * (s 86399).base.tbs.t + (s 86399).base.tbs.fraction + 1000 ∧
      ((s 86399).base.tbs.clockMillis + 1000 - ((3600 * 2 + 60 * 30 + 0) * 1000 + 0 : Nat)) % 86400000 = 0 :=
  ⟨ready_when _ rfl, by decide +kernel⟩

/-- A HEAD; a TERM as a rule and as a request; and a HEAD that is about to rise. -/
theorem witness_HeadHoldsByItsChain :
    (ruleRecord headReq).kind = .head ∧
      (let r := { headReq with kind := .is .term, priority := none, report := false }
       (ruleRecord r).kind = .term ∧ ruleRefusal State.reset 63 r = none ∧ r.kind = .is .term) ∧
      63 ∈ ruled.work.rising ruled.base (fun _ => true) 0 0 (train key1 41 54600 none) := by decide +kernel

/-- A part with a watch in slot 23. -/
def watching (m : SlotMode) (raised : Bool) : State :=
  (holding 0 [{ train key1 41 54600 none with stale := raised, unsettled := raised, held := [11] }]).mapWork (Work.mapNre fun n =>
    { n with
      rules := n.rules.set 11 (some (ruleRecord { headReq with watch := .is (match m with
        | .timeout p _ => .timeout p
        | .count k _ => .count k) }))
      slots := n.slots.set 23 (some ⟨11, key1, m, false⟩) })

theorem witness_WatchOutcomesSetTheFlags :
    (watching (.timeout 10 0) true).work.nre.slots.getD 23 none = some ⟨11, key1, .timeout 10 0, false⟩ ∧
      ((watching (.timeout 10 0) true).work.svt.find key1).map Service.stale = some true ∧
      (watching (.count 2 2) true).work.nre.slots.getD 23 none = some ⟨11, key1, .count 2 2, false⟩ ∧
      ((watching (.count 2 2) true).work.svt.find key1).map Service.unsettled = some true ∧
      (watching (.count 2 2) true).work.hlu.mask.contains .watch = true ∧
      (watching (.count 2 2) true).work.hlu.reports.length < 24 := by decide +kernel

/-- A second event within a minute, with a slot that is about to end, and with one that has a second to go. -/
theorem witness_WatchSecondEvent :
    let s := fun left : Nat => watching (.timeout 10 left) false
    (s 1).base.tbs.state ≠ .unset ∧ (s 1).base.tbs.t < 86399 ∧
      (∀ x ∈ (s 1).work.svt.services, x.staged = none ∧ x.timer = none) ∧
      (∀ i r, (s 1).work.nre.rule i = some r → (s 1).work.nre.timeHead r = false) ∧
      (after .secondEvent (s 1)).base.tbs.clockSeconds % 60 ≠ 0 ∧
      (s 1).work.nre.slots[23]? = some (some ⟨11, key1, .timeout 10 1, false⟩) ∧
      (∀ j < 23, (s 1).work.nre.slots[j]? = some none) ∧
      (s 2).work.nre.slots[23]? = some (some ⟨11, key1, .timeout 10 2, false⟩) := by
  refine ⟨by decide +kernel, by decide +kernel, by decide +kernel, ?_, by decide +kernel, by decide +kernel, by decide +kernel,
    by decide +kernel⟩
  intro i r h
  have hr : some r ∈ (watching (.timeout 10 1) false).work.nre.rules := by
    rw [Nre.rule, List.getD_eq_getElem?_getD] at h
    cases hi : (watching (.timeout 10 1) false).work.nre.rules[i]? with
    | none => rw [hi] at h; cases h
    | some o => rw [hi] at h; exact List.mem_of_getElem? (hi.trans (congrArg some h))
  have all : ∀ o ∈ (watching (.timeout 10 1) false).work.nre.rules,
      (o.map (watching (.timeout 10 1) false).work.nre.timeHead).getD false = false := by decide +kernel
  exact all _ hr

/-- In the ordinary case the expiry frees the slot, and the count goes on from 0. -/
theorem test_watch_slots_after :
    ((after (.watchExpiry 23) (watching (.timeout 10 0) false)).work.nre.slots.getD 23 none,
        (after (.watchCount 23) (watching (.count 2 2) false)).work.nre.slots.getD 23 none)
      = (none, some ⟨11, key1, .count 2 0, false⟩) := by decide +kernel

/-- The one bound slot of a list that has it last. -/
theorem last_bound (n : Nat) (y : Slot) (i : Nat) (x : Slot)
    (h : (List.replicate n none ++ [some y])[i]? = some (some x)) : i = n ∧ x = y := by
  rcases Nat.lt_trichotomy i n with hi | rfl | hi
  · rw [List.getElem?_append_left (by simpa using hi), List.getElem?_replicate] at h
    split at h <;> cases h
  · simp at h
    exact ⟨rfl, h.symm⟩
  · rw [List.getElem?_eq_none (by simp; omega)] at h
    cases h

theorem witness_WatchSlotsFollowHeldRules :
    let s := { watching (.timeout 10 0) false with pending := [.watchExpiry 23] }
    s.work.watchInv ∧ ∃ t, step s = .next t := by
  have hs : (watching (.timeout 10 0) false).work.nre.slots
      = List.replicate 23 none ++ [some ⟨11, key1, .timeout 10 0, false⟩] := by decide +kernel
  refine ⟨⟨by decide +kernel, by decide +kernel, by decide +kernel, ?_, ?_⟩, _, rfl⟩
  · intro i x h
    obtain ⟨-, rfl⟩ := last_bound 23 _ i x (hs ▸ h)
    exact ⟨_, List.mem_singleton.mpr rfl, rfl, by decide +kernel⟩
  · intro i j x y hi hj _ _
    rw [(last_bound 23 _ i x (hs ▸ hi)).1, (last_bound 23 _ j y (hs ▸ hj)).1]

/-- Template 63, with a validity above its range. -/
def templateReq : TemplateReq :=
  { items := [some (.phrase 4095)], priority := some 7, validity := some 901, zones := .is (.fixed [1, 8])
    needsShown := none, requiresFeed := none, withdrawOnClear := none, deadline := none }

theorem witness_TemplatePutStoresTheTemplate :
    State.reset.ready ∧ hd.misfit = none ∧ templateRefusal 63 templateReq = none := ⟨ready_when _ rfl, rfl, by decide +kernel⟩

/-- A part with template 12 loaded, and a queue. -/
def asking (q : List CueEntry) : State :=
  (timed 57000).mapWork (Work.mapCuc fun c => { c with
    queue := q, templates := c.templates.set 12 (some (cue87 .queued).template) })

/-- An entry admitted to an empty queue, one merged with the entry that waits, and one on a queue with an entry playing. -/
theorem witness_CueAskJoinsTheQueue :
    (asking []).ready ∧ hd.misfit = none ∧ askRefusal (asking []) 12 none = none ∧
      (asking []).work.cuc.template 12 = some (cue87 .queued).template ∧ (asking []).work.hlu.degraded = false ∧
      (asking []).work.cuc.queue.Pairwise (fun a b => b.priority ≤ a.priority) ∧ (asking []).work.cuc.maySelect = false ∧
      (asking []).base.fiu.override = false ∧ (asking []).base.tbs.t ≤ 57000 + (cue87 .queued).template.validity ∧
      (asking []).work.cuc.queue.length < 32 ∧
      askRefusal (asking [cue87 .queued]) 12 none = none ∧
      (asking [cue87 .queued]).work.cuc.queue.Pairwise (fun a b => b.priority ≤ a.priority) ∧
      (asking [cue87 .queued]).work.cuc.maySelect = false := ⟨ready_when _ rfl, rfl, by decide +kernel⟩

/-- A full queue of cues of another template at priority 6 and then `low`; with a request of priority 5: one whose last entry is
displaced, and one with no lower entry; a late request; and one under override. -/
theorem witness_CueAskAtAFullQueue :
    let tm := (cue87 .queued).template
    let full := fun low : Nat => asking (((List.range 31).map fun i =>
      { cue87 .queued with number := 13, priority := 6, seq := BitVec.ofNat 32 i }) ++
      [{ cue87 .queued with number := 13, priority := low, seq := 31 }])
    let s := full 1
    let d : CueEntry := { cue87 .queued with number := 13, priority := 1, seq := 31 }
    let late := (asking []).mapWork (Work.mapCuc fun c => { c with templates := c.templates.set 12 (some { tm with deadline := true }) })
    tm.priority = 5 ∧ s.ready ∧ askRefusal s 12 none = none ∧ s.work.hlu.degraded = false ∧ s.base.fiu.override = false ∧
      s.work.cuc.maySelect = false ∧ s.work.cuc.queue.length = 32 ∧ s.work.cuc.queue.Pairwise cueOrder ∧ d ∈ s.work.cuc.queue ∧
      (∀ q ∈ s.work.cuc.queue, q.seq = d.seq → q = d) ∧
      (∀ q ∈ s.work.cuc.queue, d.priority < q.priority ∨ (q.priority = d.priority ∧ q.seq.toNat ≤ d.seq.toNat)) ∧
      (∀ q ∈ (full 5).work.cuc.queue, tm.priority ≤ q.priority) ∧ askRefusal (full 5) 12 none = none ∧
      askRefusal (late.mapWork fun w => { w with svt := { w.svt with services := [train key1 41 56999 none] } }) 12 (some key1) =
        none ∧ (train key1 41 56999 none).k < 57000 := by
  refine ⟨by decide +kernel, ready_when _ rfl, by decide +kernel, by decide +kernel, by decide +kernel, by decide +kernel,
    by decide +kernel, ?_, by decide +kernel⟩
  unfold cueOrder
  decide +kernel

/-- A section that only sets `enabled`. -/
def linkReq (on : Bool) : CueLinkReq :=
  { enabled := .is on, rate := .omitted, width := .omitted, numberBase := none, hourBase := none, minuteBase := none
    suffixA := none, suffixB := none, truncation := none, zones := none, overrideTemplate := none, resumeDelay := some 31 }

theorem witness_ConfigureCueLinkStoresTheFields :
    State.reset.ready ∧ hd.misfit = none ∧ cueLinkRefusal State.reset (linkReq true) = none ∧
      cueLinkRefusal State.reset (linkReq false) = none ∧ State.reset.work.hlu.degraded = false ∧
      State.reset.work.cuc.link = .disabled ∧ (∀ e ∈ State.reset.work.cuc.queue, e.state ≠ .queued) ∧
      (linked (.sending 9000) (cue87 .sending) (timed 0)).work.cuc.link = .sending 9000 :=
  ⟨ready_when _ rfl, rfl, by decide +kernel⟩

/-- A disable in each state of the link that has an entry on it, and with nothing on it. -/
theorem witness_LinkDisabled :
    let s := fun (l : LinkState) (c : CueState) => linked l (cue87 c) (timed 0)
    (s (.sending 9000) .sending).ready ∧ cueLinkRefusal (s (.sending 9000) .sending) (linkReq false) = none ∧
      (linkReq false).enabled = .is false ∧ (s (.awaitAccept 0) .awaitAccept).work.cuc.onLink = some (cue87 .awaitAccept) ∧
      (s (.playing 0) .playing).work.cuc.onLink = some (cue87 .playing) ∧
      cueLinkRefusal (s (.awaitAccept 0) .awaitAccept) (linkReq false) = none ∧
      cueLinkRefusal (s (.playing 0) .playing) (linkReq false) = none ∧ (s .blocked .queued).work.hlu.degraded = false ∧
      (s (.playing 0) .playing).work.hlu.mask.contains .cue = true ∧
      (after (.configureCueLink hd (linkReq false)) (s (.playing 0) .playing)).work.hlu.lost = false :=
  ⟨ready_when _ rfl, by decide +kernel⟩

theorem witness_CueFrameSentAwaitsAcceptance :
    let s := linked (.sending 9000) (cue87 .sending) (timed 0)
    let u := linked (.sending 9000) { cue87 .sending with unobserved := true } (timed 0)
    s.work.cuc.link = .sending 9000 ∧ s.work.cuc.onLink = some (cue87 .sending) ∧ (cue87 .sending).unobserved = false ∧
      u.work.cuc.link = .sending 9000 ∧ u.work.cuc.onLink = some { cue87 .sending with unobserved := true } ∧
      u.work.cuc.disablePending = false ∧ s.work.hlu.mask.contains .cue = true ∧ s.work.hlu.reports.length < 24 ∧
      (u.mapWork (Work.mapCuc fun c => { c with busy := true })).work.cuc.busy = true ∧
      (u.mapWork (Work.mapCuc fun c => { c with disablePending := true })).work.cuc.disablePending = true := by decide +kernel

theorem witness_CueIntervalsEnd :
    let a := linked (.awaitAccept 0) (cue87 .awaitAccept) (timed 0)
    let p := linked (.playing 0) (cue87 .playing) (timed 0)
    a.work.cuc.link = .awaitAccept 0 ∧ a.work.cuc.onLink = some (cue87 .awaitAccept) ∧ a.work.cuc.busy = false ∧
      (∀ q ∈ a.work.cuc.queue, q.state ≠ .queued) ∧ a.work.hlu.mask.contains .cue = true ∧
      a.work.hlu.reports.length < 24 ∧ p.work.cuc.link = .playing 0 ∧ p.work.cuc.onLink = some (cue87 .playing) ∧
      0 < (p.mapWork (Work.mapCuc fun c => { c with resume := 1 })).work.cuc.resume ∧ p.work.cuc.link ≠ .idle := by
  decide +kernel

/-- An edge of a PLAY_BUSY line in each state of the link it changes, and one of a PA_OVERRIDE line. -/
theorem witness_PlayBusyEdges :
    let l := contact .playBusy
    let on := { l with filtered := .high }
    let s := fun (l : FieldLine) (st : LinkState) (e : CueState) (busy : Bool) =>
      (linked st (cue87 e) (wired 15 l (timed 0))).mapWork (Work.mapCuc fun c => { c with busy := busy })
    (s l (.awaitAccept 0) .awaitAccept false).base.fiu.lines[15]? = some l ∧ l.filtered ≠ .high ∧ l.active = .high ∧
      (s on (.playing 0) .playing true).base.fiu.lines[15]? = some on ∧ on.filtered ≠ .low ∧ on.active ≠ .low ∧
      (s on (.playing 0) .playing true).work.cuc.onLink = some (cue87 .playing) ∧
      (s on (.playing 0) .playing true).work.cuc.busy ≠ decide (on.active = .low) ∧
      (∀ q ∈ (s on (.playing 0) .playing true).work.cuc.queue, q.state ≠ .queued) ∧
      (s l .idle .held false).work.cuc.link = .idle ∧ (s on .blocked .held true).work.cuc.link = .blocked ∧
      (∀ q ∈ (s on .blocked .held true).work.cuc.queue, q.state ≠ .queued) ∧
      (wired 15 (contact .paOverride) (timed 0)).base.fiu.lines[15]? = some (contact .paOverride) ∧
      (timed 0).work.cuc.paOverride ≠ decide ((contact .paOverride).active = .high) ∧
      (timed 0).work.cuc.cfg.resumeDelay ≠ 0 := by decide +kernel

/-- The link idle with one entry that waits: it is sent. -/
theorem witness_SelectionObeysTheInterlock :
    let s := linked .idle (cue87 .queued) (timed 0)
    (s.work.cuc.queue.map CueEntry.seq).Nodup ∧ (∀ q ∈ s.work.cuc.queue, q.state ≠ .sending) ∧
      ∃ e ∈ (s.work.select s.base).cuc.queue, e.state = .sending := by decide +kernel

/-- Four waiting cues in a DEGRADED part: one that requires the feed, one held back by the interlock, one unresolvable, and one
that is sent. -/
theorem witness_SelectionInOrder :
    let x := train key1 41 54600 (some 12)
    let e := fun (seq : BitVec 32) (key : Option Key) (tm : Template) =>
      { cue87 .queued with seq := seq, key := key, serviceSeq := key.map fun _ => 41, template := tm }
    let tm := (cue87 .queued).template
    let starved := e 1 none { tm with requiresFeed := true }
    let locked := e 2 (some key1) { tm with needsShown := true }
    let unresolved := e 3 none { tm with items := [.slot .platform] }
    let sent := e 4 (some key1) tm
    let s := ((boarded oneRow (holding 54000 [x])).mapWork fun w =>
      (w.setCell 0 1 fun c => { c with desired := .service row1 }).mapCuc fun c =>
        { c with link := .idle, queue := [starved, locked, unresolved, sent] }).mapHlu fun h => { h with degraded := true }
    s.work.cuc.link = .idle ∧ s.work.cuc.disablePending = false ∧ s.work.cuc.paOverride = false ∧ s.work.cuc.resume = 0 ∧
      (s.work.cuc.queue.map CueEntry.seq).Nodup ∧
      (s.work.cuc.queue.filter fun q => q.state == .queued && (!s.base.fiu.override || q.source == .override))
        = [starved, locked, unresolved] ++ sent :: [] ∧
      (s.work.hlu.degraded = true ∧ starved.template.requiresFeed = true) ∧ locked.template.needsShown = true ∧
      locked.record s.work = some x ∧ s.work.confirmation x = [3] ∧ resolve s.base s.work unresolved = none ∧
      sent.template.requiresFeed = false ∧ sent.template.needsShown = false ∧
      (resolve s.base s.work sent).map CueFrame.phrases = some [3001] ∧ 3001 ≤ 4095 ∧
      (s.work.select s.base).hlu.lost = false ∧ s.work.hlu.mask.contains .cue = true := by decide +kernel

/-- No selection: the link BLOCKED; and under override, no cue of the override. -/
theorem witness_NoSelection :
    let s := linked .blocked (cue87 .queued) (timed 0)
    let o := (linked .idle (cue87 .queued) (timed 0)).mapFiu fun u => { u with override := true }
    s.work.cuc.link ≠ .idle ∧
      ∀ q ∈ o.work.cuc.queue, q.state = .queued → o.base.fiu.override = true ∧ q.source ≠ .override := by decide +kernel

/-- At once on a line that is idle, one in a gap and one held; waiting on a line that is driving. -/
theorem witness_ConfigureClockLineTakesTheSection :
    (timed 58200).ready ∧ hd.misfit = none ∧ clockRefusal (timed 58200) 3 (caseD 3 55) = none ∧
      (timed 58200).scd[3]? = some ClockLine.reset ∧ ClockLine.reset.drive = .idle ∧
      decidedState .minute 60 (stepsBehind .minute (timed 58200).base.tbs.clockSeconds 235) = .catchup ∧
      decidedState .minute 60 (stepsBehind .minute (timed 58200).base.tbs.clockSeconds 430) = .holding ∧
      clockRefusal (dial 3 { caseF with drive := .gap 0 } (timed 0)) 3 (caseD 3 55) = none ∧
      (dial 3 { caseF with drive := .gap 0 } (timed 0)).scd[3]? = some { caseF with drive := .gap 0 } ∧
      clockRefusal (dial 3 caseF (timed 0)) 3 (caseD 3 55) = none ∧ (dial 3 caseF (timed 0)).scd[3]? = some caseF ∧
      caseF.drive = .driving 300 := ⟨ready_when _ rfl, rfl, by decide +kernel⟩

/-- The third miss; and a line that ends an impulse with a section waiting. -/
theorem witness_ImpulseEndJudgesTheImpulse :
    (dial 3 caseF (timed 0)).scd[3]? = some caseF ∧ caseF.drive = .driving 300 ∧ caseF.state = .catchup ∧
      caseF.waiting = none ∧ caseF.impulseSense ≠ none ∧ caseF.seen = false ∧ caseF.miss + 1 = 3 ∧
      (let l := { caseF with waiting := some (clockSection (caseD 3 55)) }
       let s := (dial 3 l (timed 0)).mapHlu fun h => { h with inbound := [⟨0, 7, .request (.configureClockLine 3 (caseD 3 55)), .inService, false⟩] }
       s.scd[3]? = some l ∧ l.waiting = some (clockSection (caseD 3 55)) ∧
         ∃ e ∈ s.work.hlu.inbound, e.progress = .inService) ∧
      ({ caseF with decide := true } : ClockLine).decide = true ∧ nextToServe (dial 3 caseF (timed 0)).work.hlu.inbound = none := by
  decide +kernel

theorem witness_GapEndStartsThePendingImpulse :
    let l := { caseF with drive := .gap 0, pending := true }
    (dial 3 l (timed 0)).scd[3]? = some l ∧ l.drive = .gap 0 := by decide +kernel

/-- A RUNNING line that is idle at the boundary of 02:31:00. -/
theorem witness_BoundariesMoveTheLines :
    let l := { ClockLine.reset with state := .running }
    let s := dial 3 l (timed 59)
    s.base.tbs.state ≠ .unset ∧ s.scd[3]? = some l ∧ (after .secondEvent s).base.tbs.clockSeconds % 60 = 0 ∧
      l.state = .running ∧ l.drive = .idle := by decide +kernel

theorem witness_ClockLinesKeepTheirRanges :
    let s := { dial 2 caseF (timed 0) with pending := [.impulseEnd 2] }
    (∀ l ∈ s.scd, l.Inv) ∧ ∃ t, step s = .next t := by
  refine ⟨?_, _, rfl⟩
  intro l hl
  have hl : l ∈ [ClockLine.reset, ClockLine.reset, caseF, ClockLine.reset] := hl
  have h : l = ClockLine.reset ∨ l = caseF := by simp at hl; tauto
  rcases h with rfl | rfl
  · refine ⟨by decide, by decide, by decide, by decide, by decide, by decide, by decide, by decide, nofun, nofun, nofun⟩
  · refine ⟨by decide, by decide, by decide, by decide, by decide, by decide, by decide, by decide, ?_, by decide, nofun⟩
    intro k hk
    cases hk
    decide

/-- A line that leaves PLAY_BUSY for SENSE of clock line 3. -/
theorem witness_ConfigureLineStoresTheSection :
    let s := wired 15 { contact .playBusy with raw := .high } State.reset
    let r : LineReq := ⟨.is (.sense 3), .omitted, .is (some 64), .omitted, some 60⟩
    s.ready ∧ hd.misfit = none ∧ lineRefusal s 15 r = none ∧
      s.base.fiu.lines[15]? = some { contact .playBusy with raw := .high } := ⟨ready_when _ rfl, rfl, by decide +kernel⟩

theorem witness_EdgesAreMarkedReportedDelivered :
    let l := { contact (.sense 3) with reports := true }
    (wired 15 l (timed 0)).base.fiu.lines[15]? = some l ∧ l.filtered ≠ .high ∧
      (wired 15 l (timed 0)).work.hlu.mask.contains .inputEdge = true ∧ (wired 15 l (timed 0)).work.hlu.reports.length < 24 ∧
      (wired 15 (contact .overrideKey) (timed 0)).base.fiu.lines[15]? = some (contact .overrideKey) ∧
      (contact .overrideKey).filtered ≠ .high := by decide +kernel

/-- A part with a waiting cue on a blocked link, the override's own when it is active, and its override template loaded. -/
def keyed (n : Nat) (l : FieldLine) (active : Bool) (forced : Bool) : State :=
  let e := { cue87 .queued with source := if active then .override else .host }
  ((wired n l (linked .blocked e (timed 0))).mapFiu fun u =>
    { u with override := active, keys := active && !forced, forced := forced }).mapWork (Work.mapCuc fun c =>
      { c with cfg := { c.cfg with overrideTemplate := some 12 }, templates := c.templates.set 12 (some template12) })

/-- The override entered and left by an edge, by CONFIGURE LINE and by forcing, with a cue that waits. -/
theorem witness_OverrideEntersAndLeaves :
    let key := contact .overrideKey
    let turned := { key with filtered := .high }
    let lineReq := fun (r : Role) (a : Level) => (⟨.is r, .is a, .omitted, .omitted, none⟩ : LineReq)
    let changes := fun (c : Instr) (s : State) => (s.base.fiu.override, (after c s).base.fiu.override)
    changes (.edge 15 .high) (keyed 15 key false false) = (false, true) ∧
      changes (.edge 15 .low) (keyed 15 turned true false) = (true, false) ∧
      lineRefusal (keyed 0 (contact .unused) false false) 0 (lineReq .overrideKey .low) = none ∧
      changes (.configureLine hd 0 (lineReq .overrideKey .low)) (keyed 0 (contact .unused) false false) = (false, true) ∧
      lineRefusal (keyed 0 turned true false) 0 (lineReq .unused .high) = none ∧
      changes (.configureLine hd 0 (lineReq .unused .high)) (keyed 0 turned true false) = (true, false) ∧
      changes (.overrideSet hd (some true)) (keyed 15 key false false) = (false, true) ∧
      changes (.overrideSet hd (some false)) (keyed 15 key true true) = (true, false) ∧
      (keyed 15 key false false).work.cuc.maySelect = false ∧
      (keyed 15 key false false).work.cuc.cfg.overrideTemplate = some 12 ∧
      (keyed 15 key false false).work.cuc.template 12 = some template12 ∧
      (keyed 15 key false false).work.cuc.queue.length < 32 := by decide +kernel

/-- Edges that reach no block: of an UNUSED line, and deactivating ones of a SYNC, a DISPATCH and a SENSE line. -/
theorem witness_EdgesNotDelivered :
    let on := fun r : Role => { contact r with filtered := .high }
    (wired 15 (contact .unused) (timed 0)).base.fiu.lines[15]? = some (contact .unused) ∧ (contact .unused).filtered ≠ .high ∧
      (wired 15 (on .sync) (timed 0)).base.fiu.lines[15]? = some (on .sync) ∧ (on .sync).filtered ≠ .low ∧
      (on .sync).active ≠ .low ∧ (on (.dispatch 40)).filtered ≠ .low ∧ (on (.dispatch 40)).active ≠ .low ∧
      (on (.sense 3)).active ≠ .low := by decide +kernel

/-- The second sample to disagree, and the third. -/
theorem witness_SamplesAndLockouts :
    let l := fun n : Nat => { contact .unused with filter := some 64, disagree := n }
    (wired 15 (l 1) (timed 0)).base.fiu.lines[15]? = some (l 1) ∧ (l 1).filter ≠ none ∧ (l 1).disagree + 1 < 3 ∧
      (wired 15 (l 2) (timed 0)).base.fiu.lines[15]? = some (l 2) ∧ (l 2).filtered ≠ .high ∧ 3 ≤ (l 2).disagree + 1 := by
  decide +kernel

/-- An entry by forcing, with a cue that waits. -/
theorem witness_OverrideSetForcesTheOverride :
    let s := linked .idle (cue87 .queued) (timed 0)
    s.ready ∧ hd.misfit = none ∧ s.base.fiu.override = false ∧
      (after (.overrideSet hd (some true)) s).base.fiu.override = true ∧ s.work.hlu.degraded = false ∧
      s.work.hlu.mask.contains .override = true ∧ s.work.hlu.reports.length < 24 :=
  ⟨ready_when _ rfl, rfl, by decide +kernel⟩

theorem witness_OverrideFollowsKeysAndForcing :
    let s := { wired 15 (contact .overrideKey) (timed 0) with pending := [.edge 15 .high] }
    s.base.fiu.Inv ∧ ∃ t, step s = .next t := ⟨⟨by decide +kernel, by decide +kernel⟩, _, rfl⟩

/-- An empty payload and one of 1024 bytes; kinds that name no request; a check that differs; lengths 1 and 1027; and a request
that waits and is next. Which kind names a request is free, so that a frame that spells one is met through `readPayload`. -/
theorem witness_HostFramesAreTaken :
    State.reset.ready ∧ (∀ payload, frameOf 0x80 payload = .unknown 0x80) ∧
      readPayload .timeGet [] = .request .timeGet ∧ readPayload .timeGet [0x00] = .misfit 0 ∧
      requestOf (.timeGet ⟨7, none⟩) = some (⟨7, none⟩, .timeGet) ∧
      nextToServe [(⟨0, 7, .request .timeGet, .waiting, false⟩ : Inbound)] ≠ none := by
  refine ⟨ready_when _ rfl, fun _ => rfl, rfl, rfl, rfl, by decide⟩

theorem witness_HostFrameBytes :
    State.reset.work.hlu.rx = .hunt ∧ ([] : List Byte).length ≤ 1024 ∧ (List.replicate 1024 (0 : Byte)).length ≤ 1024 ∧
      256 * (0 : Byte).toNat + (0 : Byte).toNat ≠ (crc16 [0x00, 0x02, 0x01, 0x03]).toNat ∧
      256 * (0 : Byte).toNat + (1 : Byte).toNat < 2 ∧ 1026 < 256 * (4 : Byte).toNat + (3 : Byte).toNat := by decide +kernel

theorem witness_LinkTimeLimits :
    (State.reset.mapHlu fun h => { h with rx := .length 0 [] }).work.hlu.rx ≠ .hunt ∧
      State.reset.work.hlu.feedTimeout ≠ 0 ∧ State.reset.work.hlu.degraded = false ∧
      State.reset.work.hlu.mask.contains .feed = true ∧ State.reset.work.hlu.reports.length < 24 := by decide +kernel

/-- A part that sends `x`, with one reply built. -/
def sending (x : Sending) (restart : Bool) : State :=
  (timed 0).mapHlu fun h => { h with
    inbound := [⟨0, 7, .request .restart, .answered Reply.ok, restart⟩], arrivals := 1, tx := some x }

theorem witness_SentFramesFreeTheirPlaces :
    (sending (.reply 0) false).work.hlu.tx = some (.reply 0) ∧ nextToServe (sending (.reply 0) false).work.hlu.inbound = none ∧
      (∀ e ∈ (sending (.reply 0) false).work.hlu.inbound, Sending.reply 0 = .reply e.arrival →
        e.reply ≠ none ∧ e.restart = false) ∧
      (sending (.busy 5) false).work.hlu.tx = some (.busy 5) ∧ (sending .report false).work.hlu.tx = some .report := by
  decide +kernel

theorem witness_ReadingRequestsAnswer :
    let s := boarded oneRow (holding 0 [train key1 41 54600 none])
    s.ready ∧ hd.misfit = none ∧ keyForm key1 = true ∧ s.work.svt.find key1 = some (train key1 41 54600 none) ∧ 191 ≤ 191 ∧
      3 < 16 ∧ s.work.board 3 = some (onFirstPage oneRow) := ⟨ready_when _ rfl, rfl, by decide +kernel⟩

theorem witness_StatusAnswersAndClears :
    (timed 0).ready ∧ hd.misfit = none ∧ (timed 0).work.hlu.degraded = false := ⟨ready_when _ rfl, rfl, rfl⟩

/-- A report whose class is masked; one that takes the last place; and one that finds the queue full, its number wrapping. -/
theorem witness_ReportRaised :
    let u := fun n : Nat => { Hlu.reset with number := 65535, reports := List.replicate n ⟨1, .feed, .feedRestored⟩ }
    ReportBody.feedRestored.cls ∉ ({ u 0 with mask := [.time] } : Hlu).mask ∧ ¬ ReportBody.feedRestored.cls ∉ (u 23).mask ∧
      (u 23).reports.length < 24 ∧ ¬ (u 24).reports.length < 24 ∧ (u 24).number.toNat = 65535 := by decide +kernel

theorem witness_ReportMaskBecomesTheSet :
    (timed 0).ready ∧ hd.misfit = none ∧ none ∉ [some ReportClass.feed] ∧ (timed 0).work.hlu.degraded = false :=
  ⟨ready_when _ rfl, rfl, by decide +kernel⟩

/-- A section that changes the sync period and the retain time. -/
def generalReq : GeneralReq :=
  { c0 := none, period := .is .second, overdue := some 240, retain := some 240, abandon := none, window := none
    departing := none, tolerance := none, flashTime := none, startText := none, degradedText := none
    overrideText := some 1023, feedTimeout := some 0 }

theorem witness_ConfigureGeneralStoresTheFields :
    (timed 0).ready ∧ hd.misfit = none ∧ generalRefusal (timed 0) generalReq = none := ⟨ready_when _ rfl, rfl, by decide +kernel⟩

theorem witness_RestartTakesEffectAfterItsReply :
    (timed 0).ready ∧ hd.misfit = none ∧ (sending (.reply 0) true).work.hlu.tx = some (.reply 0) ∧
      (∃ e ∈ (sending (.reply 0) true).work.hlu.inbound, e.arrival = 0 ∧ e.restart = true) ∧
      (sending (.reply 0) true).work.wsc.length = 4 := ⟨ready_when _ rfl, rfl, by decide +kernel⟩

/-- A RESTART takes effect with an entry on the link, in each state of the link that has one. -/
theorem witness_RestartEndsTheCue :
    let s := fun (l : LinkState) (c : CueState) => linked l (cue87 c) (sending (.reply 0) true)
    (s (.sending 9000) .sending).work.cuc.link = .sending 9000 ∧
      (s (.awaitAccept 0) .awaitAccept).work.cuc.onLink = some (cue87 .awaitAccept) ∧
      (s (.playing 0) .playing).work.cuc.onLink = some (cue87 .playing) ∧
      (s (.playing 0) .playing).work.hlu.tx = some (.reply 0) ∧ (s (.playing 0) .playing).work.wsc.length = 4 ∧
      (s (.playing 0) .playing).work.hlu.mask.contains .cue = true ∧
      (after .hostFrameSent (s (.playing 0) .playing)).work.hlu.lost = false := by decide +kernel

theorem witness_StepTakesTheFrontCommand : ticking.pending = .secondEvent :: [] ∧ (timed 0).pending = [] := ⟨rfl, rfl⟩

theorem witness_QueuesKeepTheirBounds :
    let s := { linked .idle (cue87 .queued) (strung 0 awaiting118 (timed 0)) with pending := [.replyTimeout 0] }
    s.work.bounds ∧ s.caughtUp ∧ ∃ t, step s = .next t := by
  refine ⟨?_, rfl, _, rfl⟩
  unfold Work.bounds
  refine ⟨?_, by decide +kernel, List.pairwise_singleton _ _, by decide +kernel, by decide +kernel, by decide +kernel⟩
  intro u hu
  have hu : u ∈ [awaiting118, WallString.reset, WallString.reset, WallString.reset] := hu
  have h : u = awaiting118 ∨ u = WallString.reset := by simp at hu; tauto
  rcases h with rfl | rfl
  · exact ⟨by decide +kernel, by decide +kernel, by decide +kernel⟩
  · exact ⟨by decide +kernel, by decide +kernel, by decide +kernel⟩

end Sys2Proof.Tests
end

section
/-!
PROOF. Departure arithmetic (chapter 3): one rule for each figure the public reads, the order of a table, and from these the
statement `Obligations.DepartureFiguresRead`.
-/

namespace Sys2Proof.Machine

/-! ### The displayed minutes and their texts (R42, R43, R44) -/

/-- R42 on whole minutes: the day of 86400 seconds becomes a day of 1440 minutes. -/
theorem displayed_wholeMinutes (c0 : Nat) (m : Int) :
    displayed c0 (60 * m) = ⟨((m + c0) % 1440 / 60).toNat, ((m + c0) % 60).toNat⟩ := by
  have hv : (60 * m + 60 * (c0 : Int)) % Config.day = 60 * ((m + c0) % 1440) := by
    rw [← mul_add]
    exact Int.mul_emod_mul_of_pos (m + c0) 1440 (by decide : (0 : Int) < 60)
  have hhour : 60 * ((m + (c0 : Int)) % 1440) / 3600 = (m + c0) % 1440 / 60 := by omega
  have hminute : 60 * ((m + (c0 : Int)) % 1440) % 3600 / 60 = (m + c0) % 60 := by omega
  simp only [displayed, hv, hhour, hminute]

theorem schedMinute_range {s : Int} (hlo : -43200 ≤ s) (hhi : s ≤ 129599) :
    -720 ≤ schedMinute s ∧ schedMinute s ≤ 2159 := by
  unfold schedMinute
  omega

/-- The greatest expected minute is one above the greatest scheduled minute, for R44 rounds to the nearest. -/
theorem expMinute_range {e : Int} (hlo : -43200 ≤ e) (hhi : e ≤ 129599) :
    -720 ≤ expMinute e ∧ expMinute e ≤ 2160 := by
  unfold expMinute
  omega

/-- R45's remark: from S on, rounding to the nearest never falls below rounding down. -/
theorem schedMinute_le_expMinute {s e : Int} (h : s ≤ e) : schedMinute s ≤ expMinute e := by
  unfold schedMinute expMinute
  omega

theorem expText_of_none (c0 : Nat) {x : Service} (h : x.expected = none) : expText c0 x = none := by
  simp [expText, h]

theorem expText_of_some (c0 : Nat) {x : Service} {e : Int} (h : x.expected = some e) :
    expText c0 x = some (displayed c0 (60 * expMinute e)) := by
  simp [expText, h]

/-! ### The delay minutes (R45) -/

theorem Service.delay_of_none {x : Service} (h : x.expected = none) : x.delay = 0 := by
  simp [Service.delay, delayMinutes, h]

theorem Service.delay_of_early {x : Service} {e : Int} (h : x.expected = some e) (hlt : e < x.scheduled) :
    x.delay = 0 := by
  simp [Service.delay, delayMinutes, h, hlt]

theorem Service.delay_of_late {x : Service} {e : Int} (h : x.expected = some e) (hle : x.scheduled ≤ e) :
    (x.delay : Int) = expMinute e - schedMinute x.scheduled := by
  have hm := schedMinute_le_expMinute hle
  simp only [Service.delay, delayMinutes, h, if_neg (not_lt.mpr hle)]
  omega

theorem Service.delay_le {x : Service} {e : Int} (h : x.expected = some e) (hlo : -43200 ≤ x.scheduled)
    (hhi : e ≤ 129599) : x.delay ≤ 2880 := by
  rcases lt_or_ge e x.scheduled with hlt | hle
  · simp [Service.delay_of_early h hlt]
  · have hd := Service.delay_of_late h hle
    obtain ⟨hS, -⟩ := schedMinute_range hlo (hle.trans hhi)
    obtain ⟨-, hE⟩ := expMinute_range (hlo.trans hle) hhi
    omega

/-! ### The ordering key (R46) -/

theorem Service.k_of_none {x : Service} (h : x.expected = none) : x.k = x.scheduled := by
  simp [Service.k, orderingKey, h]

theorem Service.k_of_some {x : Service} {e : Int} (h : x.expected = some e) : x.k = max x.scheduled e := by
  simp [Service.k, orderingKey, h]

theorem Service.k_range {x : Service} (hlo : -43200 ≤ x.scheduled) (hhi : x.scheduled ≤ 129599)
    (he : ∀ e, x.expected = some e → e ≤ 129599) : -43200 ≤ x.k ∧ x.k ≤ 129599 := by
  cases hx : x.expected with
  | none => rw [Service.k_of_none hx]; exact ⟨hlo, hhi⟩
  | some e => rw [Service.k_of_some hx]; exact ⟨le_max_of_le_left hlo, max_le hhi (he e hx)⟩

/-! ### The order of a table (R19, R35, R46) -/

/-- Table order, equal places included: by K, and by the admission sequence where K is the same. -/
def Service.NotAfter (x y : Service) : Prop := x.k < y.k ∨ (x.k = y.k ∧ x.seq.toNat ≤ y.seq.toNat)

theorem Service.notAfter_trans {x y z : Service} (hxy : x.NotAfter y) (hyz : y.NotAfter z) : x.NotAfter z := by
  unfold Service.NotAfter at *
  omega

theorem Service.notAfter_of_before {x y : Service} (h : x.before y = true) : x.NotAfter y := by
  simp only [Service.before, Bool.or_eq_true, Bool.and_eq_true, beq_iff_eq, decide_eq_true_eq] at h
  exact h.imp_right fun ⟨hk, hseq⟩ => ⟨hk, hseq.le⟩

theorem Service.notAfter_of_not_before {x y : Service} (h : ¬ x.before y = true) : y.NotAfter x := by
  simp only [Service.before, Bool.or_eq_true, Bool.and_eq_true, beq_iff_eq, decide_eq_true_eq] at h
  unfold Service.NotAfter
  omega

theorem mem_insertBy {α : Type} (before : α → α → Bool) {a b : α} {l : List α} :
    b ∈ insertBy before a l ↔ b = a ∨ b ∈ l := by
  induction l with
  | nil => simp [insertBy]
  | cons x xs ih =>
    by_cases h : before a x = true
    · simp [insertBy, h]
    · simp [insertBy, h, ih, or_left_comm]

section sorting

variable {α : Type} {before : α → α → Bool} {r : α → α → Prop}
  (htrans : ∀ a b c, r a b → r b c → r a c) (hpos : ∀ a b, before a b = true → r a b)
  (hneg : ∀ a b, ¬ before a b = true → r b a)
include htrans hpos hneg

/-- An insertion keeps a list ordered by `r` when `before` decides between `r` and its converse. -/
theorem pairwise_insertBy (a : α) {l : List α} (hl : l.Pairwise r) : (insertBy before a l).Pairwise r := by
  induction l with
  | nil => simp [insertBy]
  | cons x xs ih =>
    obtain ⟨hx, hxs⟩ := List.pairwise_cons.mp hl
    by_cases h : before a x = true
    · have ha : ∀ b ∈ x :: xs, r a b :=
        List.forall_mem_cons.mpr ⟨hpos a x h, fun b hb => htrans a x b (hpos a x h) (hx b hb)⟩
      simpa only [insertBy, if_pos h] using hl.cons ha
    · have hall : ∀ b ∈ insertBy before a xs, r x b := fun b hb =>
        ((mem_insertBy before).mp hb).elim (fun hba => hba ▸ hneg a x h) (hx b)
      simpa only [insertBy, if_neg h] using (ih hxs).cons hall

theorem pairwise_sortBy (l : List α) : (sortBy before l).Pairwise r := by
  induction l with
  | nil => exact .nil
  | cons x xs ih => exact pairwise_insertBy htrans hpos hneg x ih

end sorting

theorem Svt.pairwise_ordered (v : Svt) : v.ordered.Pairwise Service.NotAfter :=
  pairwise_sortBy (before := Service.before) (r := Service.NotAfter) (fun _ _ _ => Service.notAfter_trans)
    (fun _ _ => Service.notAfter_of_before) (fun _ _ => Service.notAfter_of_not_before) v.services

/-- R67: a board's list is the table's with records left out, so it is in the same order. -/
theorem pairwise_eligibleRecords (b : Base) (w : Work) (r : BoardRec) :
    (eligibleRecords b w r).Pairwise Service.NotAfter := by
  unfold eligibleRecords
  split
  · exact w.svt.pairwise_ordered.filter _
  · exact .nil

/-! ### The countdown (R47, R108) -/

theorem countdown_of_nonpos {delta : Int} (h : delta ≤ 0) : countdown delta = 0 := if_neg (not_lt.mpr h)

/-- Before the departure the countdown is the time to it in minutes, rounded up. -/
theorem countdown_of_pos {delta : Int} (h : 0 < delta) : (countdown delta : Int) = (delta + 59) / 60 := by
  simp only [countdown, if_pos h]
  omega

theorem countdown_le {delta : Int} (h : delta ≤ 133199) : countdown delta ≤ 2220 := by
  rcases le_or_gt delta 0 with hle | hlt
  · simp [countdown_of_nonpos hle]
  · have hc := countdown_of_pos hlt
    omega

theorem countdownHolds_same (ruleTime : Int) (x : Service) (range : Nat × Nat) :
    countdownHolds ruleTime ruleTime x range = true ↔
      range.1 ≤ countdown (x.k - ruleTime) ∧ countdown (x.k - ruleTime) ≤ range.2 := by
  simp only [countdownHolds, decide_eq_true_eq]
  omega

theorem countdownHolds_of_predsHold {t a c : Int} {p : Preds} {x : Service} {range : Nat × Nat}
    (hp : p.countdown = some range) (h : predsHold t a c p x = true) : countdownHolds a c x range = true := by
  have hwhen : whenPresent p.countdown (countdownHolds a c x) = true := by
    simp only [predsHold, Bool.and_eq_true] at h
    tauto
  simpa [hp, whenPresent] using hwhen

/-! ### The statement -/

/-- Settles O18, from the rules of the figures above. -/
theorem departureFiguresRead : Obligations.DepartureFiguresRead := by
  refine ⟨fun c0 x => ?texts, fun x => ?delay, ?order, ?predicate, fun x t => ?key⟩
  case texts =>
    refine ⟨rfl, displayed_wholeMinutes c0 _, schedMinute_range, expText_of_none c0, fun e he => ⟨rfl, ?_, expMinute_range⟩⟩
    exact (expText_of_some c0 he).trans (congrArg some (displayed_wholeMinutes c0 _))
  case delay =>
    exact ⟨Service.delay_of_none, fun e he => ⟨Service.delay_of_early he,
      fun hle => ⟨schedMinute_le_expMinute hle, Service.delay_of_late he hle⟩, Service.delay_le he⟩⟩
  case order =>
    rintro b w r list (rfl | rfl)
    · exact w.svt.pairwise_ordered
    · exact pairwise_eligibleRecords b w r
  case predicate =>
    exact fun t ruleTime p x lo hi hp h => (countdownHolds_same ruleTime x (lo, hi)).mp (countdownHolds_of_predsHold hp h)
  case key =>
    refine ⟨?larger, fun hlt => ?before, fun hle => countdown_of_nonpos (sub_nonpos.mpr hle), fun hlo hhi he => ?ranges⟩
    case larger =>
      cases hx : x.expected with
      | none => exact Service.k_of_none hx
      | some e => exact Service.k_of_some hx
    case before =>
      have hc := countdown_of_pos (sub_pos.mpr hlt)
      omega
    case ranges =>
      obtain ⟨hklo, hkhi⟩ := Service.k_range hlo hhi he
      refine ⟨hklo, hkhi, fun htlo hthi => ?_⟩
      have hdelta : x.k - t ≤ 133199 := by omega
      exact ⟨by omega, hdelta, countdown_le hdelta⟩

end Sys2Proof.Machine
end

section
/-!
PROOF. When a HEAD holds (chapter 7): what each function of R108 and R109 says, as an equivalence, for any station time and any
range of rule times; and from these the statement `Obligations.HeadHoldsByItsChain`.
-/

namespace Sys2Proof.Machine

/-! ### Predicates (R108) -/

theorem whenPresent_eq_true_iff {α : Type} {o : Option α} {f : α → Bool} :
    whenPresent o f = true ↔ ∀ a, o = some a → f a = true := by
  cases o <;> simp [whenPresent]

/-- R108 at one rule time: each predicate that is present holds, an absent one asking nothing. -/
theorem predsHold_same_iff (t ruleTime : Int) (p : Preds) (x : Service) :
    predsHold t ruleTime ruleTime p x = true ↔
      (∀ ss, p.status = some ss → x.status ∈ ss) ∧ (∀ cs, p.cls = some cs → x.cls ∈ cs) ∧
      (∀ ns, p.platform = some ns → ∃ d, x.current = some d ∧ d.num ∈ ns) ∧
      (∀ i, p.destination = some i → x.destination = i) ∧ (∀ i, p.calling = some i → i ∈ x.calling) ∧
      (∀ lo hi, p.delay = some (lo, hi) → lo ≤ x.delay ∧ x.delay ≤ hi) ∧
      (∀ lo hi, p.countdown = some (lo, hi) → lo ≤ countdown (x.k - ruleTime) ∧ countdown (x.k - ruleTime) ≤ hi) ∧
      (∀ n, p.changed = some n → ∃ ct, x.changeTime = some ct ∧ t - ct ≤ n) ∧
      (∀ v, p.stale = some v → x.stale = v) ∧ (∀ v, p.unsettled = some v → x.unsettled = v) ∧
      (∀ v, p.actual = some v → x.actual.isSome = v) := by
  cases hcurrent : x.current <;> cases hchange : x.changeTime <;>
    simp only [predsHold, hcurrent, hchange, whenPresent_eq_true_iff, countdownHolds_same, Bool.and_eq_true,
      List.contains_iff_mem, beq_iff_eq, decide_eq_true_eq, Prod.forall, and_assoc, Option.some.injEq, exists_eq_left',
      reduceCtorEq, false_and, exists_false, Bool.false_eq_true]

theorem predsTimed_iff (p : Preds) : predsTimed p = true ↔ p.countdown ≠ none ∨ p.changed ≠ none := by
  simp only [predsTimed, Bool.or_eq_true, Option.isSome_iff_ne_none]

/-! ### The chain of a HEAD (R109) -/

/-- The predicates of a rule's chain: its own, and those of each rule it lists. -/
def Nre.InChain (e : Nre) (r : Rule) (p : Preds) : Prop :=
  p = r.preds ∨ ∃ i ∈ r.terms, ∃ q, e.rule i = some q ∧ q.preds = p

theorem Nre.inChain_own (e : Nre) (r : Rule) : e.InChain r r.preds := Or.inl rfl

theorem Nre.inChain_listed {e : Nre} {r q : Rule} {i : Nat} (hi : i ∈ r.terms) (hq : e.rule i = some q) :
    e.InChain r q.preds := Or.inr ⟨i, hi, q, hq, rfl⟩

theorem Nre.termHolds_iff (e : Nre) (t a c : Int) (x : Service) (i : Nat) :
    e.termHolds t a c x i = true ↔
      ∃ q, e.rule i = some q ∧ q.kind = .term ∧ q.enabled = true ∧ predsHold t a c q.preds x = true := by
  unfold Nre.termHolds
  cases e.rule i <;> simp [and_assoc]

/-- R109: only a HEAD holds by itself. -/
theorem Nre.kind_of_headHolds {e : Nre} {t a c : Int} {r : Rule} {x : Service} (h : e.headHolds t a c r x = true) :
    r.kind = .head := by
  simp only [Nre.headHolds, Bool.and_eq_true, beq_iff_eq] at h
  obtain ⟨⟨⟨hkind, -⟩, -⟩, -⟩ := h
  exact hkind

theorem Nre.not_headHolds_of_term (e : Nre) (t a c : Int) {r : Rule} (x : Service) (hr : r.kind = .term) :
    e.headHolds t a c r x = false := by
  simp [Nre.headHolds, hr]

/-- R109: a HEAD holds when it is enabled, each rule it lists is an enabled TERM, and every predicate of the chain holds. -/
theorem Nre.headHolds_iff (e : Nre) (t a c : Int) {r : Rule} (x : Service) (hr : r.kind = .head) :
    e.headHolds t a c r x = true ↔
      r.enabled = true ∧ (∀ i ∈ r.terms, ∃ q, e.rule i = some q ∧ q.kind = .term ∧ q.enabled = true) ∧
        ∀ p, e.InChain r p → predsHold t a c p x = true := by
  simp only [Nre.headHolds, hr, BEq.rfl, Bool.true_and, Bool.and_eq_true, List.all_eq_true, Nre.termHolds_iff]
  constructor
  · rintro ⟨⟨henabled, hown⟩, hterms⟩
    refine ⟨henabled, fun i hi => ?_, ?_⟩
    · obtain ⟨q, hq, hkind, hon, -⟩ := hterms i hi
      exact ⟨q, hq, hkind, hon⟩
    · rintro p (rfl | ⟨i, hi, q, hq, rfl⟩)
      · exact hown
      · obtain ⟨q', hq', -, -, hpreds⟩ := hterms i hi
        rwa [Option.some.inj (hq.symm.trans hq')]
  · rintro ⟨henabled, hterms, hchain⟩
    refine ⟨⟨henabled, hchain _ (e.inChain_own r)⟩, fun i hi => ?_⟩
    obtain ⟨q, hq, hkind, hon⟩ := hterms i hi
    exact ⟨q, hq, hkind, hon, hchain _ (Nre.inChain_listed hi hq)⟩

theorem Nre.timeHead_iff (e : Nre) (r : Rule) : e.timeHead r = true ↔ ∃ p, e.InChain r p ∧ predsTimed p = true := by
  simp only [Nre.timeHead, Bool.or_eq_true, List.any_eq_true]
  constructor
  · rintro (hown | ⟨i, hi, htimed⟩)
    · exact ⟨_, e.inChain_own r, hown⟩
    · cases hq : e.rule i with
      | none => simp [hq] at htimed
      | some q => exact ⟨_, Nre.inChain_listed hi hq, by simpa [hq] using htimed⟩
  · rintro ⟨p, rfl | ⟨i, hi, q, hq, rfl⟩, htimed⟩
    · exact Or.inl htimed
    · exact Or.inr ⟨i, hi, by simpa [hq] using htimed⟩

/-! ### Held sets (R111) -/

/-- R111: the rules that rise for a service: those of the group that hold for it now and are not held. -/
theorem Work.mem_rising_iff {b : Base} {group : Rule → Bool} {a c : Int} {x : Service} {w : Work} {h : Nat} :
    h ∈ w.rising b group a c x ↔ h < Config.ruleCount ∧ h ∉ x.held ∧
      ∃ r, w.nre.rule h = some r ∧ group r = true ∧ w.nre.headHolds b.tbs.t a c r x = true := by
  cases hr : w.nre.rule h <;> simp [Work.rising, hr]

/-! ### The refusal of a RULE PUT (R119) -/

theorem firstRefusal_eq_none_iff {a b : Option Reply} : firstRefusal a b = none ↔ a = none ∧ b = none := by
  cases a <;> simp [firstRefusal]

theorem firstFailing_eq_none_iff {α : Type} {cs : List (α × Bool)} :
    firstFailing cs = none ↔ ∀ check ∈ cs, check.2 = false := by
  induction cs with
  | nil => simp [firstFailing]
  | cons check rest ih =>
    obtain ⟨f, bad⟩ := check
    cases bad <;> simp [firstFailing, ih]

/-- R119: a RULE PUT that is not refused fails none of the checks on the fields after its predicates. -/
theorem actionChecks_pass_of_not_refused {s : State} {n : Nat} {r : RuleReq} (h : ruleRefusal s n r = none) :
    ∀ check ∈ actionChecks r, check.2 = false := by
  have hfields := (firstRefusal_eq_none_iff.mp h).1
  simp only [badFields, Option.map_eq_none_iff, firstFailing_eq_none_iff] at hfields
  exact fun check hc => hfields check (by simp [hc])

/-- R119 check 2: a TERM that is not refused carries none of the fields that only a HEAD has. -/
theorem term_carries_nothing {s : State} {n : Nat} {r : RuleReq} (h : ruleRefusal s n r = none) (hr : r.kind = .is .term) :
    r.terms = none ∧ r.notice = none ∧ r.banner = none ∧ r.cue = none ∧ r.watch = .omitted ∧ r.report = false := by
  have hpass := actionChecks_pass_of_not_refused h
  simp only [actionChecks, hr, List.forall_mem_cons, Option.isSome_eq_false_iff, Option.isNone_iff_eq_none,
    bne_eq_false_iff_eq] at hpass
  obtain ⟨hterms, -, hnotice, hbanner, hcue, hwatch, hreport, -⟩ := hpass
  exact ⟨hterms, hnotice, hbanner, hcue, hwatch, hreport⟩

/-! ### The statement -/

/-- Settles O30, from the equivalence of each function of R108 and R109 and the checks a RULE PUT passes. -/
theorem headHoldsByItsChain : Obligations.HeadHoldsByItsChain := by
  refine ⟨fun e t u r x hr => ⟨?holds, ?timed⟩, fun e t a c r x hr => e.not_headHolds_of_term t a c x hr, ?rising, ?stored⟩
  case holds =>
    simpa only [Nre.InChain, predsHold_same_iff] using e.headHolds_iff t u u x hr
  case timed =>
    simpa only [Nre.InChain, predsTimed_iff] using e.timeHead_iff r
  case rising =>
    intro b group a c x w h hrise
    obtain ⟨-, -, r, hrule, -, hholds⟩ := Work.mem_rising_iff.mp hrise
    exact ⟨r, hrule, Nre.kind_of_headHolds hholds⟩
  case stored =>
    intro n r s haccepted hkind
    obtain ⟨hterms, hnotice, hbanner, hcue, hwatch, hreport⟩ := term_carries_nothing haccepted hkind
    simp [ruleRecord, hkind, hterms, hnotice, hbanner, hcue, hwatch, hreport, argOr, argValue]

end Sys2Proof.Machine
end

section
/-!
PROOF. One step of the part, taken apart once: an invariant that every act of the part keeps is kept by every step. The proofs
of the step invariants cite `Kept.step` and show the acts alone.
-/

namespace Sys2Proof.Machine

/-- What the oscillator brings about, apart from the events of time, each of which keeps `I`. -/
structure KeptByTick (I : State → Prop) : Prop where
  pump : ∀ s, I s → I s.finish
  serve : ∀ e s, nextToServe s.work.hlu.inbound = some e → I s → I (s.serve e)
  sample : ∀ n v s, I s → I (s.sample n v)
  endLockout : ∀ n s, I s → I (s.endLockout n)
  wallSent : ∀ n s, I s → I (s.mapWork (Work.setString n (WallString.frameSent s.base.elapsed)))
  replyTimeout : ∀ n s, I s → I (s.mapWork (Work.replyTimeout s.base n))
  cueSent : ∀ s, I s → I (s.mapWork (Work.cueSent s.base))
  acceptEnd : ∀ s, I s → I (s.mapWork (Work.acceptEnd s.base))
  playEnd : ∀ s, I s → I (s.mapWork (Work.playEnd s.base))
  endImpulse : ∀ n s, I s → I (s.endImpulse n)
  endGap : ∀ n s, I s → I (s.endGap n)

/-- The acts of the part, each of which keeps `I`: what the commands `C`, the requests they serve and the oscillator bring
about. -/
structure Kept (C : Instr → Prop) (I : State → Prop) : Prop extends KeptByTick I where
  pending : ∀ s cs, I s → I { s with pending := cs }
  powerOn : C .powerOn → ∀ s, I s → I s.poweredOn
  arrives : ∀ c h q, C c → requestOf c = some (h, q) → ∀ s, I s → I (s.arrives h q)
  bytes : ∀ bs, C (.hostFrame bs) → ∀ s, I s → I (s.mapWork (Work.hostBytes s.base bs))
  linkTimeOut : ∀ s, I s → I (s.mapHlu Hlu.timeOut)
  frameSent : ∀ s, I s → I s.frameSent
  feedEnds : ∀ s, I s → I (s.mapWork (Work.feedEnds s.base))
  second : ∀ s, I s → I s.takeSecond
  losePulses : ∀ s, I s → I s.losePulses
  edge : ∀ n v s, I s → I (s.edge n v)
  timerEnds : ∀ k s, I s → I (s.mapWork (Work.timerEnds s.base k))
  expirePage : ∀ n s, I s → I (s.mapWork (Work.expirePage s.base n))
  endFlash : ∀ k s, I s → I (s.mapWork (Work.endFlash s.base k))
  moduleReply : ∀ n r s, I s → I (s.mapWork (Work.moduleReply s.base n r))
  expireSlot : ∀ i s, I s → I (s.mapWork (Work.expireSlot s.base i))
  reachSlot : ∀ i s, I s → I (s.mapWork (Work.reachSlot s.base i))
  resumeEnds : ∀ s, I s → I (s.mapWork (Work.resumeDelayEnds s.base))
  millisecond : ∀ s, I s → I ({ s with base := s.base.millisecond } : State).timeDues

variable {C : Instr → Prop} {I : State → Prop}

theorem State.takeIf_keeps {due : State → Bool} {f : State → State} (h : ∀ s, I s → I (f s)) (s : State) (hs : I s) :
    I (s.takeIf due f) := by
  unfold State.takeIf
  split
  · exact h s hs
  · exact hs

theorem State.takeEach_keeps (n : Nat) {due : Nat → State → Bool} {f : Nat → State → State} (h : ∀ i s, I s → I (f i s))
    (s : State) (hs : I s) : I (s.takeEach n due f) := by
  unfold State.takeEach
  generalize List.range n = is
  induction is generalizing s with
  | nil => exact hs
  | cons i is ih => exact ih _ (State.takeIf_keeps (h i) s hs)

theorem State.timeDues_keeps (second : ∀ s, I s → I s.takeSecond) (loss : ∀ s, I s → I s.losePulses)
    (timeOut : ∀ s, I s → I (s.mapHlu Hlu.timeOut)) (s : State) (hs : I s) : I s.timeDues :=
  State.takeIf_keeps timeOut _ (State.takeIf_keeps loss _ (State.takeIf_keeps second s hs))

theorem KeptByTick.serveAll (k : KeptByTick I) (n : Nat) (s : State) (hs : I s) : I (s.serveAll n) := by
  induction n generalizing s with
  | zero => exact hs
  | succ n ih =>
    unfold State.serveAll
    split
    · next e he => exact ih _ (k.serve e s he hs)
    · exact hs

theorem KeptByTick.serveWaiting (k : KeptByTick I) (s : State) (hs : I s) : I s.serveWaiting := k.serveAll _ s hs

/-- R3: what comes due at a millisecond, after the events of time. -/
theorem KeptByTick.tick (k : KeptByTick I) (s : State) (hs : I ({ s with base := s.base.millisecond } : State).timeDues) :
    I s.tick := by
  have lines : ∀ s, I s → I s.lineDues := fun s hs =>
    State.takeEach_keeps _ (fun n s => k.endLockout n s) _ (State.takeEach_keeps _ (fun n s => k.sample n _ s) s hs)
  have wall : ∀ s, I s → I s.wallDues := fun s hs =>
    State.takeEach_keeps _ (fun n s => k.replyTimeout n s) _ (State.takeEach_keeps _ (fun n s => k.wallSent n s) s hs)
  have cues : ∀ s, I s → I s.cueDues := fun s hs =>
    State.takeIf_keeps k.playEnd _ (State.takeIf_keeps k.acceptEnd _ (State.takeIf_keeps k.cueSent s hs))
  have clocks : ∀ s, I s → I s.clockDues := fun s hs =>
    State.takeEach_keeps _ k.endGap _ (State.takeEach_keeps _ k.endImpulse s hs)
  exact k.pump _ (k.serveWaiting _ (clocks _ (cues _ (wall _ (lines _ hs)))))

/-- A request command is the arrival of its frame (log 3). -/
theorem exec_request {c : Instr} {h : ReqHead} {q : Request} (hq : requestOf c = some (h, q)) (s : State) :
    exec c s = s.request h q := by
  cases c <;> cases hq <;> rfl

theorem Kept.exec (k : Kept C I) (c : Instr) (hc : C c) (s t : State) (he : exec c s = .next t)
    (hs : I s) : I t := by
  cases hq : requestOf c with
  | some p =>
    rw [exec_request hq] at he
    cases he
    exact k.pump _ (k.serveWaiting _ (k.arrives c p.1 p.2 hc hq s hs))
  | none =>
    cases c with
    | powerOn => cases he; exact k.pump _ (k.powerOn hc s hs)
    | hostFrame bs => cases he; exact k.pump _ (k.serveWaiting _ (k.bytes bs hc s hs))
    | frameTimeout => cases he; exact k.pump _ (k.linkTimeOut s hs)
    | hostFrameSent => cases he; exact k.pump _ (k.serveWaiting _ (k.frameSent s hs))
    | secondEvent => cases he; exact k.pump _ (k.second s hs)
    | edge n v => cases he; exact k.pump _ (k.edge n.val v s hs)
    | syncLost => cases he; exact k.pump _ (k.losePulses s hs)
    | lockoutEnd n => cases he; exact k.pump _ (k.endLockout n.val s hs)
    | departingTimerEnd key => cases he; exact k.pump _ (k.timerEnds key s hs)
    | pageExpiry n => cases he; exact k.pump _ (k.expirePage n.val s hs)
    | flashEnd key => cases he; exact k.pump _ (k.endFlash key s hs)
    | wallFrameSent n => cases he; exact k.pump _ (k.wallSent n.val s hs)
    | moduleReply n r => cases he; exact k.pump _ (k.moduleReply n.val r s hs)
    | replyTimeout n => cases he; exact k.pump _ (k.replyTimeout n.val s hs)
    | watchExpiry i => cases he; exact k.pump _ (k.expireSlot i.val s hs)
    | watchCount i => cases he; exact k.pump _ (k.reachSlot i.val s hs)
    | endOfTransmission => cases he; exact k.pump _ (k.cueSent s hs)
    | acceptWindowEnd => cases he; exact k.pump _ (k.acceptEnd s hs)
    | maximumPlayTimeEnd => cases he; exact k.pump _ (k.playEnd s hs)
    | resumeDelayEnd => cases he; exact k.pump _ (k.resumeEnds s hs)
    | impulseEnd n => cases he; exact k.pump _ (k.serveWaiting _ (k.endImpulse n.val s hs))
    | gapEnd n => cases he; exact k.pump _ (k.endGap n.val s hs)
    | feedLost => cases he; exact k.pump _ (k.feedEnds s hs)
    | filterSample n v => cases he; exact k.pump _ (k.sample n.val v s hs)
    | _ => cases hq

theorem State.guarded_keeps {refusal : Option Reply} {owner : State → Served} {s : State} (hs : I s)
    (h : refusal = none → I (owner s).1) : I (s.guarded refusal owner).1 := by
  unfold State.guarded
  split
  · exact hs
  · exact h rfl

/-- R180: a request served by an owner that keeps `I`, its entry answered. -/
theorem State.serve_keeps (owner : ∀ q s, I s → I (Request.owner q s).1)
    (served : ∀ a o s, I s → I (s.mapHlu (Hlu.updateInbound a (Inbound.served o)))) (e : Inbound) (s : State) (hs : I s) :
    I (s.serve e) := by
  have hf : I (e.frame.owner s).1 := by
    cases e.frame with
    | unknown _ => exact hs
    | misfit _ _ => exact hs
    | request q => exact owner q s hs
  exact served _ _ _ hf

/-- What every act keeps, every step keeps. -/
theorem Kept.step (k : Kept C I) (s t : State) (hc : ∀ c, s.pending.head? = some c → C c) (hs : I s)
    (hstep : step s = .next t) : I t := by
  cases hp : s.pending with
  | nil =>
    rw [Machine.step, hp] at hstep
    exact Host.Outcome.next.inj hstep ▸ k.tick s (k.millisecond s hs)
  | cons c cs =>
    rw [Machine.step, hp] at hstep
    exact k.exec c (hc c (by rw [hp]; rfl)) _ t hstep (k.pending s cs hs)

end Sys2Proof.Machine
end

section
/-!
PROOF. The acts of the part put no request into the inbound queue, and take out none but the one whose reply was sent.
-/

namespace Sys2Proof.Machine

/-! ### The inbound queue through the remaining operations -/

theorem Work.offersOn_inbound (b : Base) (s : Nat) (w : Work) : (w.offersOn b s).hlu.inbound = w.hlu.inbound :=
  kept_inbound (Work.offersOn_kept ..)

theorem Work.forgetRows_inbound (rec : BoardRec) (w : Work) : (w.forgetRows rec).hlu.inbound = w.hlu.inbound :=
  setCells_inbound _ _ _ _ _

theorem Work.drainCheck_inbound (b : Base) (w : Work) : (w.drainCheck b).hlu.inbound = w.hlu.inbound := by
  unfold Work.drainCheck
  split
  · simp only [Work.recomposeBoards, Work.deriveAll_inbound]
    refine foldl_inbound _ (fun w n => ?_) _ _
    split
    · split
      · exact Work.forgetRows_inbound ..
      · rfl
    · rfl
  · rfl

theorem Work.endDrain_inbound (b : Base) (s : Nat) (w : Work) : (w.endDrain b s).hlu.inbound = w.hlu.inbound := by
  unfold Work.endDrain
  split
  · exact Work.drainCheck_inbound ..
  · rfl

theorem Work.answerAfter_inbound (b : Base) (s a : Nat) (d : Bool) (w : Work) :
    (w.answerAfter b s a d).hlu.inbound = w.hlu.inbound := by
  unfold Work.answerAfter
  split
  · exact (kept_inbound (Work.answerCompletion_kept ..) :)
  · exact kept_inbound (Work.answerCompletion_kept ..)

theorem Work.complete_inbound (b : Base) (s : Nat) (r : FrameResult) (w : Work) :
    (w.complete b s r).hlu.inbound = w.hlu.inbound := by
  unfold Work.complete
  split
  · rfl
  · simp only [Work.answerAfter_inbound, Work.setString_hlu, Work.recordCompletion, Work.setCell_hlu, Work.endDrain_inbound]
    exact (kept_inbound (Work.raiseAll_kept ..) :)

theorem Work.moduleReply_inbound (b : Base) (n : Nat) (r : ModReply) (w : Work) :
    (w.moduleReply b n r).hlu.inbound = w.hlu.inbound := by
  unfold Work.moduleReply
  split
  · exact Work.complete_inbound ..
  · split <;> rfl

theorem Work.replyTimeout_inbound (b : Base) (n : Nat) (w : Work) : (w.replyTimeout b n).hlu.inbound = w.hlu.inbound := by
  unfold Work.replyTimeout
  split
  · exact Work.complete_inbound ..
  · rfl

theorem Work.timerEnds_inbound (b : Base) (k : Key) (w : Work) : (w.timerEnds b k).hlu.inbound = w.hlu.inbound := by
  unfold Work.timerEnds
  split
  · exact steady_inbound (Work.endTimer_steady ..)
  · rfl

theorem Work.cueSent_inbound (b : Base) (w : Work) : (w.cueSent b).hlu.inbound = w.hlu.inbound := by
  unfold Work.cueSent
  split
  · split
    · simp only [Work.select_inbound, Work.mapCuc_hlu, Work.endEntry_inbound]
    · simp only [Work.select_inbound, Work.mapCuc_hlu]
  · rfl

theorem Work.acceptEnd_inbound (b : Base) (w : Work) : (w.acceptEnd b).hlu.inbound = w.hlu.inbound := by
  unfold Work.acceptEnd
  split
  · simp only [Work.select_inbound, Work.endEntry_inbound]
  · rfl

theorem Work.playEnd_inbound (b : Base) (w : Work) : (w.playEnd b).hlu.inbound = w.hlu.inbound := by
  unfold Work.playEnd
  split
  · simp only [Work.select_inbound, Work.endEntry_inbound]
  · rfl

theorem Work.resumeDelayEnds_inbound (b : Base) (w : Work) : (w.resumeDelayEnds b).hlu.inbound = w.hlu.inbound := by
  unfold Work.resumeDelayEnds
  split
  · rfl
  · simp only [Work.resumeEnd, Work.select_inbound, Work.mapCuc_hlu]

theorem Work.restartCues_inbound (w : Work) : w.restartCues.hlu.inbound = w.hlu.inbound := by
  unfold Work.restartCues
  dsimp only
  split
  · rfl
  · simp only [Work.endEntry_inbound, Work.mapCuc_hlu]
  · simp only [Work.endEntry_inbound, Work.mapCuc_hlu]
  · rfl

theorem Work.restartOverride_inbound (b : Base) (was : Bool) (w : Work) :
    (w.restartOverride b was).hlu.inbound = w.hlu.inbound := by
  unfold Work.restartOverride
  split
  · rw [kept_inbound (Work.cueOverrideExit_kept ..), kept_inbound (Work.raise_kept ..)]
  · rfl

theorem Work.restartFeed_inbound (w : Work) : w.restartFeed.hlu.inbound = w.hlu.inbound := by
  unfold Work.restartFeed
  dsimp only
  split
  · exact (kept_inbound (Work.raise_kept ..) :)
  · rfl

theorem Work.dropDiscarded_inbound (s : Nat) (fs : List WallFrame) (w : Work) :
    (w.dropDiscarded s fs).hlu.inbound = w.hlu.inbound := setCells_inbound _ _ _ _ _

theorem Work.clearBoards_inbound (w : Work) : w.clearBoards.hlu.inbound = w.hlu.inbound := by
  unfold Work.clearBoards
  dsimp only
  rw [foldl_inbound]
  intro w n
  split
  · exact setCells_inbound _ _ _ _ _
  · rfl

theorem Work.drainStrings_inbound (w : Work) : w.drainStrings.hlu.inbound = w.hlu.inbound := by
  unfold Work.drainStrings
  rw [foldl_inbound]
  intro w s
  rw [Work.dropDiscarded_inbound, Work.setString_hlu]

theorem Work.restartWall_inbound (b : Base) (c : Bool) (w : Work) : (w.restartWall b c).hlu.inbound = w.hlu.inbound := by
  have hw : (w.drainStrings.clearBoards.drainCheck b).hlu.inbound = w.hlu.inbound := by
    rw [Work.drainCheck_inbound, Work.clearBoards_inbound, Work.drainStrings_inbound]
  unfold Work.restartWall
  dsimp only
  split
  · rw [Work.deriveAll_inbound, hw]
  · exact hw

theorem State.restartEffect_inbound (s : State) : s.restartEffect.work.hlu.inbound = s.work.hlu.inbound := by
  simp only [State.restartEffect, State.mapWork_work, Work.restartWall_inbound, Work.restartFeed_inbound,
    Work.restartOverride_inbound, Work.clearTables, Work.restartCues_inbound]
  rfl

theorem State.dispatchEdge_inbound (n p : Nat) (s : State) :
    (s.dispatchEdge n p).work.hlu.inbound = s.work.hlu.inbound := by
  unfold State.dispatchEdge
  split
  · exact kept_inbound (Work.raise_kept ..)
  · dsimp only
    split <;> exact steady_inbound (Work.dispatch_steady ..)

theorem State.syncPulse_inbound (s : State) : s.syncPulse.work.hlu.inbound = s.work.hlu.inbound := by
  unfold State.syncPulse
  dsimp only
  split
  · rfl
  · split
    · exact kept_inbound (Work.raiseAll_kept ..)
    · split
      · exact (kept_inbound (Work.raiseAll_kept ..)).trans (steady_inbound (State.stepBy_steady ..))
      · exact kept_inbound (Work.raise_kept ..)

theorem State.deliverEdge_inbound (n : Nat) (s : State) : (s.deliverEdge n).work.hlu.inbound = s.work.hlu.inbound := by
  unfold State.deliverEdge
  dsimp only
  split
  · rfl
  · split
    · exact State.dispatchEdge_inbound ..
    · rfl
  · exact State.settleOverride_inbound ..
  · split
    · exact State.syncPulse_inbound ..
    · rfl
  · exact Work.paChange_inbound ..
  · exact Work.busyChange_inbound ..
  · split <;> rfl

theorem State.takeEdge_inbound (n : Nat) (v : Level) (s : State) :
    (s.takeEdge n v).work.hlu.inbound = s.work.hlu.inbound := by
  rw [State.takeEdge_eq]
  dsimp only
  split
  · rw [State.deliverEdge_inbound]
    exact kept_inbound (Work.raise_kept ..)
  · exact State.deliverEdge_inbound ..

theorem State.edge_inbound (n : Nat) (v : Level) (s : State) : (s.edge n v).work.hlu.inbound = s.work.hlu.inbound := by
  unfold State.edge
  split
  · rfl
  · exact State.takeEdge_inbound ..

theorem State.sample_inbound (n : Nat) (v : Level) (s : State) : (s.sample n v).work.hlu.inbound = s.work.hlu.inbound := by
  unfold State.sample
  dsimp only
  repeat' split
  all_goals first | rfl | exact State.takeEdge_inbound ..

theorem State.takeSecond_inbound (s : State) : s.takeSecond.work.hlu.inbound = s.work.hlu.inbound := by
  unfold State.takeSecond
  split
  · exact steady_inbound (State.secondEvent_steady s)
  · rfl

theorem State.losePulses_inbound (s : State) : s.losePulses.work.hlu.inbound = s.work.hlu.inbound := by
  unfold State.losePulses
  split
  · exact kept_inbound (Work.raise_kept ..)
  · rfl

theorem Hlu.timeOut_inbound (h : Hlu) : h.timeOut.inbound = h.inbound := by
  unfold Hlu.timeOut
  split <;> rfl

theorem Hlu.pump_inbound (h : Hlu) : h.pump.inbound = h.inbound := by rw [pump_work]

theorem Work.feedEnds_inbound (b : Base) (w : Work) : (w.feedEnds b).hlu.inbound = w.hlu.inbound :=
  steady_inbound (Work.feedEnds_steady ..)

end Sys2Proof.Machine
end

section
/-!
PROOF. What the acts of the part leave of the base, the clock lines and the queue of commands, and the step rule for an invariant
that the work of an event cannot touch.
-/

namespace Sys2Proof.Machine

/-- Only the work of an event between: the base, the clock lines and the queue of commands stay, and no request is new. -/
structure State.Beside (s t : State) : Prop where
  base : t.base = s.base
  scd : t.scd = s.scd
  pending : t.pending = s.pending
  waiting : ∀ e ∈ t.work.hlu.inbound, e.progress = .waiting → e ∈ s.work.hlu.inbound

theorem State.beside_refl (s : State) : s.Beside s := ⟨rfl, rfl, rfl, fun _ he _ => he⟩

theorem State.mapWork_beside {f : Work → Work} {s : State} (h : (f s.work).hlu.inbound = s.work.hlu.inbound) :
    s.Beside (s.mapWork f) := ⟨rfl, rfl, rfl, fun _ he _ => h ▸ he⟩

/-! ### Acts that write the base or the clock lines -/

theorem State.dispatchEdge_rest (n p : Nat) (s : State) :
    ((s.dispatchEdge n p).base = s.base ∨
        (s.dispatchEdge n p).base =
          (s.setLine n fun l => { l with lockoutEnd := some (s.base.elapsed + 1000 * l.lockout) }).base) ∧
      (s.dispatchEdge n p).scd = s.scd ∧ (s.dispatchEdge n p).pending = s.pending := by
  unfold State.dispatchEdge
  split
  · exact ⟨.inl rfl, rfl, rfl⟩
  · dsimp only
    split
    · exact ⟨.inr rfl, rfl, rfl⟩
    · exact ⟨.inl rfl, rfl, rfl⟩

theorem State.endImpulse_rest (n : Nat) (s : State) :
    (s.endImpulse n).base = s.base ∧ (s.endImpulse n).pending = s.pending ∧
      (s.endImpulse n).scd = s.scd.set n ((s.clock n).impulseEnds n s.base.elapsed s.base.tbs).1 := by
  unfold State.endImpulse
  dsimp only
  split
  · split <;> exact ⟨rfl, rfl, rfl⟩
  · exact ⟨rfl, rfl, rfl⟩

/-- R166: the request in service is answered at most; none is new. -/
theorem State.endImpulse_waiting (n : Nat) (s : State) :
    ∀ e ∈ (s.endImpulse n).work.hlu.inbound, e.progress = .waiting → e ∈ s.work.hlu.inbound := by
  intro e he hw
  unfold State.endImpulse at he
  dsimp only at he
  have hone := State.oneClock_inbound n (ClockLine.impulseEnds n s.base.elapsed s.base.tbs) s
  split at he
  · split at he
    · obtain ⟨x, hx, rfl⟩ := List.mem_map.mp he
      split at hw
      · cases hw
      · rename_i hnot
        rw [if_neg hnot]
        exact hone ▸ hx
    · exact hone ▸ he
  · exact hone ▸ he

theorem State.frameSent_rest (s : State) :
    (s.frameSent.base = s.base ∨ s.frameSent.base = (s.mapFiu Fiu.restart).base) ∧ s.frameSent.scd = s.scd ∧
      s.frameSent.pending = s.pending := by
  unfold State.frameSent
  split
  · exact ⟨.inl rfl, rfl, rfl⟩
  · dsimp only
    split <;> split <;> first | exact ⟨.inl rfl, rfl, rfl⟩ | exact ⟨.inr rfl, rfl, rfl⟩

theorem Hlu.freePlace_inbound (x : Sending) (h : Hlu) : ∀ e ∈ (h.freePlace x).inbound, e ∈ h.inbound := by
  intro e he
  unfold Hlu.freePlace at he
  split at he
  · exact List.mem_of_mem_filter he
  · exact he
  · exact he

theorem State.frameSent_waiting (s : State) : ∀ e ∈ s.frameSent.work.hlu.inbound, e ∈ s.work.hlu.inbound := by
  intro e he
  have hr : ∀ c : Bool, (if c = true then s.restartEffect else s).work.hlu.inbound = s.work.hlu.inbound := by
    intro c
    rw [apply_ite (fun u : State => u.work.hlu.inbound), State.restartEffect_inbound, ite_self]
  unfold State.frameSent at he
  split at he
  · exact he
  · rw [← hr _]
    exact Hlu.freePlace_inbound _ _ e he

theorem State.leaveRole_rest (o : Role) (s : State) :
    (s.leaveRole o).base = s.base ∧ (s.leaveRole o).pending = s.pending ∧
      ((s.leaveRole o).scd = s.scd ∨ ∃ k, o = .sense k ∧ (s.leaveRole o).scd = s.scd.modify k (ClockLine.setSense none)) := by
  unfold State.leaveRole
  split
  · exact ⟨rfl, rfl, .inl rfl⟩
  · exact ⟨rfl, rfl, .inl rfl⟩
  · exact ⟨rfl, rfl, .inr ⟨_, rfl, rfl⟩⟩
  · exact ⟨rfl, rfl, .inl rfl⟩

theorem State.tellRole_rest (n : Nat) (s : State) :
    (s.tellRole n).base = s.base ∧ (s.tellRole n).pending = s.pending ∧
      ((s.tellRole n).scd = s.scd ∨
        ∃ k, (s.line n).role = .sense k ∧ (s.tellRole n).scd = s.scd.modify k (ClockLine.setSense (some n))) := by
  unfold State.tellRole
  split
  · exact ⟨rfl, rfl, .inl rfl⟩
  · exact ⟨rfl, rfl, .inl rfl⟩
  · exact ⟨rfl, rfl, .inr ⟨_, by assumption, rfl⟩⟩
  · exact ⟨rfl, rfl, .inl rfl⟩

/-- R169: what an accepted section makes of the base: the line stored, the key condition and the override recomputed. -/
theorem State.configureField_rest (n : Nat) (f : FieldLine → FieldLine) (s : State) :
    (s.configureField n f).base = ((s.setLine n f).mapFiu Fiu.recompute).base ∧
      (s.configureField n f).pending = s.pending := by
  have hs : ∀ (o r : Role), (if r = o then s.setLine n f else (s.setLine n f).leaveRole o).base = (s.setLine n f).base ∧
      (if r = o then s.setLine n f else (s.setLine n f).leaveRole o).pending = s.pending := by
    intro o r
    split
    · exact ⟨rfl, rfl⟩
    · exact ⟨(State.leaveRole_rest ..).1, (State.leaveRole_rest ..).2.1⟩
  simp only [State.configureField, State.settleOverride_rest, State.tellRole_rest, hs, State.mapFiu_base, and_self]

/-! ### What an edge leaves of the base -/

/-- R10 to R14: of the base a pulse writes the timebase alone. -/
theorem State.syncPulse_rest (s : State) :
    s.syncPulse.base = { s.base with tbs := s.syncPulse.base.tbs } ∧ s.syncPulse.pending = s.pending := by
  unfold State.syncPulse
  dsimp only
  split
  · exact ⟨rfl, rfl⟩
  · split
    · exact ⟨rfl, rfl⟩
    · split
      · simp only [State.mapWork_base, State.mapTbs_base, State.mapWork_pending, State.mapTbs_pending, State.stepBy_rest,
          and_self]
      · exact ⟨rfl, rfl⟩

theorem State.deliverEdge_pending (n : Nat) (s : State) : (s.deliverEdge n).pending = s.pending := by
  unfold State.deliverEdge
  dsimp only
  split
  · rfl
  · split
    · exact (State.dispatchEdge_rest ..).2.2
    · rfl
  · exact (State.settleOverride_rest ..).2.1
  · split
    · exact (State.syncPulse_rest s).2
    · rfl
  · rfl
  · rfl
  · split <;> rfl

/-- R171: an edge delivered writes no text and no elapsed count. -/
theorem State.deliverEdge_txs (n : Nat) (s : State) :
    (s.deliverEdge n).base.txs = s.base.txs ∧ (s.deliverEdge n).base.elapsed = s.base.elapsed := by
  unfold State.deliverEdge
  dsimp only
  split
  · exact ⟨rfl, rfl⟩
  · split
    · rcases (State.dispatchEdge_rest n _ s).1 with h | h <;> rw [h] <;> exact ⟨rfl, rfl⟩
    · exact ⟨rfl, rfl⟩
  · rw [(State.settleOverride_rest ..).1]
    exact ⟨rfl, rfl⟩
  · split
    · rw [(State.syncPulse_rest s).1]
      exact ⟨rfl, rfl⟩
    · exact ⟨rfl, rfl⟩
  · exact ⟨rfl, rfl⟩
  · exact ⟨rfl, rfl⟩
  · split <;> exact ⟨rfl, rfl⟩

/-- R171: what an edge delivered makes of the field inputs: on a key line the override record recomputed, on a dispatch line at
most its lockout started. -/
theorem State.deliverEdge_fiu (n : Nat) (s : State) :
    ((s.line n).role = .overrideKey ∧ (s.deliverEdge n).base.fiu = s.base.fiu.recompute) ∨
      ((s.line n).role ≠ .overrideKey ∧
        ((s.deliverEdge n).base.fiu = s.base.fiu ∨
          (s.deliverEdge n).base.fiu =
            (s.setLine n fun l => { l with lockoutEnd := some (s.base.elapsed + 1000 * l.lockout) }).base.fiu)) := by
  unfold State.deliverEdge
  dsimp only
  split <;> rename_i hr <;> rw [hr]
  · exact .inr ⟨by simp, .inl rfl⟩
  · refine .inr ⟨by simp, ?_⟩
    split
    · exact (State.dispatchEdge_rest n _ s).1.imp (congrArg Base.fiu) (congrArg Base.fiu)
    · exact .inl rfl
  · exact .inl ⟨rfl, congrArg Base.fiu (State.settleOverride_rest ..).1⟩
  · refine .inr ⟨by simp, .inl ?_⟩
    split
    · rw [(State.syncPulse_rest s).1]
    · rfl
  · exact .inr ⟨by simp, .inl rfl⟩
  · exact .inr ⟨by simp, .inl rfl⟩
  · refine .inr ⟨by simp, .inl ?_⟩
    split <;> rfl

/-! ### The owners -/

/-- The requests whose owners write the base or the clock lines. -/
def writesBeside : Request → Bool
  | .configureGeneral _ | .configureLine _ _ | .configureClockLine _ _ | .textLoad _ | .timeSet _ _ _ _ | .overrideSet _
  | .status => true
  | _ => false

theorem State.putService_rest (r : PutReq) (s : State) : ((s.putService r).1.base = s.base) ∧ (s.putService r).1.scd = s.scd ∧
    (s.putService r).1.pending = s.pending := by
  unfold State.putService
  split
  · exact ⟨rfl, rfl, rfl⟩
  · split <;> exact ⟨rfl, rfl, rfl⟩

/-- Every other owner leaves them. -/
theorem owner_beside {q : Request} (hq : writesBeside q = false) (s : State) : s.Beside (Request.owner q s).1 := by
  have hin := owner_inbound q s
  suffices h : (Request.owner q s).1.base = s.base ∧ (Request.owner q s).1.scd = s.scd ∧
      (Request.owner q s).1.pending = s.pending from ⟨h.1, h.2.1, h.2.2, fun _ he _ => hin ▸ he⟩
  have guarded : ∀ (r : Option Reply) (o : State → Served),
      ((o s).1.base = s.base ∧ (o s).1.scd = s.scd ∧ (o s).1.pending = s.pending) →
      (s.guarded r o).1.base = s.base ∧ (s.guarded r o).1.scd = s.scd ∧ (s.guarded r o).1.pending = s.pending :=
    fun _ _ h => State.guarded_keeps (I := fun u => u.base = s.base ∧ u.scd = s.scd ∧ u.pending = s.pending) ⟨rfl, rfl, rfl⟩
      fun _ => h
  cases q with
  | identify | timeGet | restart => exact ⟨rfl, rfl, rfl⟩
  | reportMask cs =>
    simp only [Request.owner, ownReportMask]
    split <;> exact ⟨rfl, rfl, rfl⟩
  | servicePut r => exact guarded _ _ (State.putService_rest r s)
  | configureBoard | configureString | configureCueLink | serviceDrop | serviceGet | serviceList | rulePut | ruleDrop
  | templatePut | cueAsk | boardGet =>
    refine guarded _ _ ?_
    simp only [State.mapWork_base, State.mapWork_scd, State.mapWork_pending, and_self]
  | configureGeneral | configureLine | configureClockLine | textLoad | timeSet | overrideSet | status => cases hq

/-! ### The step rule -/

theorem updateInbound_waiting (a : Nat) (o : Option Reply) (h : Hlu) :
    ∀ e ∈ (h.updateInbound a (Inbound.served o)).inbound, e.progress = .waiting → e ∈ h.inbound := by
  intro e he hw
  obtain ⟨x, hx, rfl⟩ := List.mem_map.mp he
  split at hw
  · exact absurd hw (served_progress o x)
  · rename_i hnot
    rw [if_neg hnot]
    exact hx

/-- An invariant of the base, the clock lines and the waiting requests is kept by every step when the acts that write these
keep it. -/
theorem Kept.of_beside {C : Instr → Prop} {I : State → Prop} (view : ∀ s t, s.Beside t → I s → I t)
    (pending : ∀ s cs, I s → I { s with pending := cs })
    (powerOn : C .powerOn → ∀ s, I s → I s.poweredOn)
    (arrives : ∀ c h q, C c → requestOf c = some (h, q) → ∀ s, I s → I (s.arrives h q))
    (bytes : ∀ bs, C (.hostFrame bs) → ∀ s, I s → I (s.mapWork (Work.hostBytes s.base bs)))
    (serve : ∀ e s q, nextToServe s.work.hlu.inbound = some e → e.frame = .request q → writesBeside q = true → I s →
      I (Request.owner q s).1)
    (restart : ∀ s, I s → I s.frameSent)
    (second : ∀ s, I s → I s.takeSecond)
    (losePulses : ∀ s, I s → I s.losePulses)
    (edge : ∀ n v s, I s → I (s.edge n v))
    (sample : ∀ n v s, I s → I (s.sample n v))
    (endLockout : ∀ n s, I s → I (s.endLockout n))
    (endImpulse : ∀ n s, I s → I (s.endImpulse n))
    (endGap : ∀ n s, I s → I (s.endGap n))
    (millisecond : ∀ s, I s → I ({ s with base := s.base.millisecond } : State).timeDues) : Kept C I where
  pending := pending
  powerOn := powerOn
  pump s := view _ _ (State.mapWork_beside (f := fun w => { w with hlu := w.hlu.pump }) (Hlu.pump_inbound _))
  serve e s he hs := by
    suffices ho : I (e.frame.owner s).1 from view (e.frame.owner s).1 _ ⟨rfl, rfl, rfl, updateInbound_waiting _ _ _⟩ ho
    cases hf : e.frame with
    | unknown _ => exact hs
    | misfit _ _ => exact hs
    | request q =>
      cases hq : writesBeside q with
      | true => exact serve e s q he hf hq hs
      | false => exact view _ _ (owner_beside hq s) hs
  arrives := arrives
  bytes := bytes
  linkTimeOut s := view _ _ (State.mapWork_beside (f := fun w => { w with hlu := w.hlu.timeOut }) (Hlu.timeOut_inbound _))
  frameSent := restart
  feedEnds s := view _ _ (State.mapWork_beside (Work.feedEnds_inbound ..))
  second := second
  losePulses := losePulses
  edge := edge
  sample := sample
  endLockout := endLockout
  timerEnds k s := view _ _ (State.mapWork_beside (Work.timerEnds_inbound ..))
  expirePage n s := view _ _ (State.mapWork_beside (kept_inbound (Work.expirePage_kept ..)))
  endFlash k s := view _ _ (State.mapWork_beside (kept_inbound (Work.endFlash_kept ..)))
  wallSent n s := view _ _ (State.mapWork_beside rfl)
  moduleReply n r s := view _ _ (State.mapWork_beside (Work.moduleReply_inbound ..))
  replyTimeout n s := view _ _ (State.mapWork_beside (Work.replyTimeout_inbound ..))
  expireSlot i s := view _ _ (State.mapWork_beside (kept_inbound (Work.expireSlot_kept ..)))
  reachSlot i s := view _ _ (State.mapWork_beside (kept_inbound (Work.reachSlot_kept ..)))
  cueSent s := view _ _ (State.mapWork_beside (Work.cueSent_inbound ..))
  acceptEnd s := view _ _ (State.mapWork_beside (Work.acceptEnd_inbound ..))
  playEnd s := view _ _ (State.mapWork_beside (Work.playEnd_inbound ..))
  resumeEnds s := view _ _ (State.mapWork_beside (Work.resumeDelayEnds_inbound ..))
  endImpulse := endImpulse
  endGap := endGap
  millisecond := millisecond

end Sys2Proof.Machine
end

section
/-!
PROOF. The override record (R173): the key condition as the key lines stand, and override as the keys and the forced flag say,
through every step.
-/

namespace Sys2Proof.Machine

/-! ### The key condition (R173) -/

/-- A line whose role and, if it is a key line, whose activity stay leaves the key condition. -/
theorem keyCondition_modify {f : FieldLine → FieldLine} {lines : List FieldLine} {n : Nat}
    (hrole : ∀ l, (f l).role = l.role)
    (hactive : ∀ l, lines[n]? = some l → l.role = .overrideKey → (f l).isActive = l.isActive) :
    keyCondition (lines.modify n f) = keyCondition lines := by
  have hany : (lines.modify n f).any (fun l => l.role == .overrideKey) = lines.any fun l => l.role == .overrideKey := by
    have := congrArg (fun rs : List Role => rs.any (· == .overrideKey)) (map_modify_same FieldLine.role f hrole lines n)
    simpa only [List.any_map, Function.comp_def] using this
  have hall : (lines.modify n f).all (fun l => l.role != .overrideKey || l.isActive)
      = lines.all fun l => l.role != .overrideKey || l.isActive := by
    clear hany
    induction lines generalizing n with
    | nil => simp
    | cons x xs ih =>
      cases n with
      | succ n => simpa using congrArg _ (ih (n := n) fun l hl => hactive l (by simpa using hl))
      | zero =>
        have hx := hactive x (by simp)
        have hhead : ((f x).role != .overrideKey || (f x).isActive) = (x.role != .overrideKey || x.isActive) := by
          by_cases hk : x.role = .overrideKey
          · rw [hrole, hx hk]
          · rw [hrole, bne_iff_ne.mpr hk, Bool.true_or, Bool.true_or]
        simp [hhead]
  rw [keyCondition, keyCondition, hany, hall]

theorem Fiu.recompute_inv (u : Fiu) : u.recompute.Inv := ⟨rfl, rfl⟩

theorem State.line_eq {s : State} {n : Nat} {l : FieldLine} (h : s.base.fiu.lines[n]? = some l) : s.line n = l := by
  simp [State.line, List.getD_eq_getElem?_getD, h]

/-- A write of one line that leaves the key condition keeps the override record. -/
theorem State.setLine_inv {n : Nat} {f : FieldLine → FieldLine} {s : State} (hrole : ∀ l, (f l).role = l.role)
    (hactive : (s.line n).role = .overrideKey → (f (s.line n)).isActive = (s.line n).isActive) (hs : s.base.fiu.Inv) :
    (s.setLine n f).base.fiu.Inv := by
  obtain ⟨hkeys, hover⟩ := hs
  refine ⟨hkeys.trans (keyCondition_modify hrole fun l hl hk => ?_).symm, hover⟩
  rw [← State.line_eq hl] at hk ⊢
  exact hactive hk

theorem State.deliverEdge_inv {n : Nat} {s : State} (hs : (s.line n).role ≠ .overrideKey → s.base.fiu.Inv) :
    (s.deliverEdge n).base.fiu.Inv := by
  rcases s.deliverEdge_fiu n with ⟨-, h⟩ | ⟨hr, h | h⟩
  · rw [h]; exact Fiu.recompute_inv _
  · rw [h]; exact hs hr
  · rw [h]
    exact State.setLine_inv (fun _ => rfl) (fun _ => rfl) (hs hr)

theorem State.takeEdge_inv (n : Nat) (v : Level) {s : State} (hs : s.base.fiu.Inv) : (s.takeEdge n v).base.fiu.Inv := by
  have hline : (((s.setLine n fun l => { l with filtered := v, disagree := 0, mark := true }).line n).role ≠ .overrideKey →
      (s.setLine n fun l => { l with filtered := v, disagree := 0, mark := true }).base.fiu.Inv) := by
    intro hr
    refine State.setLine_inv (fun _ => rfl) (fun hk => absurd ?_ hr) hs
    cases hl : s.base.fiu.lines[n]? with
    | none => simp [State.line, List.getD_eq_getElem?_getD, hl, FieldLine.reset] at hk
    | some l => simpa [State.line, List.getD_eq_getElem?_getD, hl] using hk
  rw [State.takeEdge_eq]
  dsimp only
  split <;> exact State.deliverEdge_inv hline

theorem State.edge_inv (n : Nat) (v : Level) {s : State} (hs : s.base.fiu.Inv) : (s.edge n v).base.fiu.Inv := by
  unfold State.edge
  split
  · exact hs
  · exact State.takeEdge_inv n v (State.setLine_inv (fun _ => rfl) (fun _ => rfl) hs)

theorem State.sample_inv (n : Nat) (v : Level) {s : State} (hs : s.base.fiu.Inv) : (s.sample n v).base.fiu.Inv := by
  have hraw : (s.setLine n fun l => { l with raw := v }).base.fiu.Inv := State.setLine_inv (fun _ => rfl) (fun _ => rfl) hs
  unfold State.sample
  dsimp only
  split
  · exact hs
  · split
    · exact State.setLine_inv (fun _ => rfl) (fun _ => rfl) hraw
    · split
      · exact State.takeEdge_inv n v hraw
      · exact State.setLine_inv (fun _ => rfl) (fun _ => rfl) hraw

theorem Fiu.clearMarks_inv {u : Fiu} (h : u.Inv) :
    ({ u with lines := u.lines.map fun l => { l with mark := false } } : Fiu).Inv := by
  obtain ⟨hkeys, hover⟩ := h
  refine ⟨hkeys.trans ?_, hover⟩
  simp only [keyCondition, List.any_map, List.all_map]
  rfl

theorem State.poweredOn_inv (s : State) : s.poweredOn.base.fiu.Inv := by
  refine ⟨?_, rfl⟩
  have : (s.base.fiu.lines.map FieldLine.powerOn).any (fun l => l.role == .overrideKey) = false := by
    simp [FieldLine.powerOn, FieldLine.reset]
  change false = keyCondition (s.base.fiu.lines.map FieldLine.powerOn)
  rw [keyCondition, this, Bool.false_and]

theorem State.takeSecond_fiu (s : State) : s.takeSecond.base.fiu = s.base.fiu := by
  unfold State.takeSecond
  split
  · rw [(State.secondEvent_rest s).1]; rfl
  · rfl

theorem State.losePulses_fiu (s : State) : s.losePulses.base.fiu = s.base.fiu := by
  unfold State.losePulses
  split <;> rfl

theorem State.setFirst_fiu (h m sec ms : Nat) (s : State) : (s.setFirst h m sec ms).base.fiu = s.base.fiu := by
  rw [(State.setFirst_rest ..).1]

theorem State.stepTime_fiu (h m sec ms : Nat) (s : State) : (s.stepTime h m sec ms).1.base.fiu = s.base.fiu := by
  unfold State.stepTime
  dsimp only
  split
  · rfl
  · rw [(State.stepBy_rest ..).1]

theorem State.applyGeneral_fiu (r : GeneralReq) (s : State) : (s.applyGeneral r).base.fiu = s.base.fiu := by
  unfold State.applyGeneral
  dsimp only
  split <;> rfl

theorem State.loadTexts_fiu (items : List TextItem) (s : State) : (s.loadTexts items).base.fiu = s.base.fiu := by
  unfold State.loadTexts
  dsimp only
  split <;> rfl

theorem State.applyClock_base (n : Nat) (x : ClockSection) (s : State) : (s.applyClock n x).1.base = s.base := by
  unfold State.applyClock
  split <;> rfl

/-- The owners that write the base keep the override record: those of a line and of the forcing recompute it. -/
theorem owner_fiu_inv {q : Request} (hq : writesBeside q = true) {s : State} (hs : s.base.fiu.Inv) :
    (Request.owner q s).1.base.fiu.Inv := by
  have same : ∀ {u : State}, u.base.fiu = s.base.fiu → u.base.fiu.Inv := fun h => h ▸ hs
  have hg := fun r o h => State.guarded_keeps (I := fun u : State => u.base.fiu.Inv) (refusal := r) (owner := o) hs h
  cases q with
  | configureGeneral r => exact hg _ _ fun _ => same (State.applyGeneral_fiu r s)
  | configureLine n r =>
    refine hg _ _ fun _ => ?_
    rw [(State.configureField_rest ..).1]
    exact Fiu.recompute_inv _
  | configureClockLine n r => exact hg _ _ fun _ => same (congrArg Base.fiu (State.applyClock_base ..))
  | textLoad items => exact hg _ _ fun _ => same (State.loadTexts_fiu items s)
  | timeSet h m sec ms =>
    refine hg _ _ fun _ => same ?_
    split
    · exact State.setFirst_fiu ..
    · exact State.stepTime_fiu ..
  | overrideSet on =>
    cases on with
    | none => exact hs
    | some v =>
      refine (?_ : (s.force v .forced).base.fiu.Inv)
      rw [(State.force_rest ..).1]
      exact Fiu.recompute_inv _
  | status => exact Fiu.clearMarks_inv hs
  | _ => cases hq

/-- R173, R175: every act keeps the override record. -/
theorem fiu_kept : Kept (fun _ => True) fun s => s.base.fiu.Inv := by
  have same : ∀ {s t : State}, t.base.fiu = s.base.fiu → s.base.fiu.Inv → t.base.fiu.Inv := fun h hs => h ▸ hs
  have lockout : ∀ n (s : State), s.base.fiu.Inv → (s.endLockout n).base.fiu.Inv := fun _ _ =>
    State.setLine_inv (fun _ => rfl) fun _ => rfl
  refine Kept.of_beside (fun s t h => same (congrArg Base.fiu h.base)) (fun _ _ hs => hs) (fun _ s _ => s.poweredOn_inv)
    (fun _ _ _ _ _ _ hs => hs) (fun _ _ _ hs => hs) (fun _ _ _ _ _ hq hs => owner_fiu_inv hq hs) ?restart
    (fun s => same s.takeSecond_fiu) (fun s => same s.losePulses_fiu) (fun n v _ => State.edge_inv n v)
    (fun n v _ => State.sample_inv n v) lockout (fun n s => same (congrArg Base.fiu (s.endImpulse_rest n).1))
    (fun _ _ hs => hs) (fun s hs => ?millisecond)
  case restart =>
    intro s hs
    rcases s.frameSent_rest.1 with h | h <;> rw [h]
    · exact hs
    · exact Fiu.recompute_inv _
  case millisecond =>
    exact State.timeDues_keeps (I := fun s => s.base.fiu.Inv) (fun s => same s.takeSecond_fiu) (fun s => same s.losePulses_fiu)
      (fun _ hs => hs) _ hs

/-- Settles O48: every act recomputes the override record or leaves the key lines as they stand. -/
theorem overrideFollowsKeysAndForcing : Obligations.OverrideFollowsKeysAndForcing := fun s t hs hstep =>
  fiu_kept.step s t (fun _ _ => trivial) hs hstep

end Sys2Proof.Machine
end

section
/-!
PROOF. The clock lines through every step (R153, R160): their ranges, the fault at the third miss, and that only a line which is
RUNNING or CATCHUP drives an impulse.
-/

namespace Sys2Proof.Machine

/-! ### Ranges (R153, R154, R155) -/

theorem dialSize_pos (k : ClockKind) : 0 < dialSize k := by cases k <;> decide

/-- R155: the ranges of an accepted section, for a line of kind `k`. -/
def ClockSection.Fits (k : ClockKind) (x : ClockSection) : Prop :=
  100 ≤ x.width ∧ x.width ≤ 1000 ∧ 200 ≤ x.gap ∧ x.gap ≤ 2000 ∧ x.hold ≤ 360
    ∧ (x.position = none → x.kind = k) ∧ ∀ p ∈ x.position, p < dialSize x.kind

/-- R153: the ranges that a line keeps whatever it does: all but its state and its misses. -/
structure ClockLine.Ranges (l : ClockLine) : Prop where
  indicated : l.indicated < dialSize l.kind
  width : 100 ≤ l.width ∧ l.width ≤ 1000
  gap : 200 ≤ l.gap ∧ l.gap ≤ 2000
  hold : l.hold ≤ 360
  sense : ∀ k ∈ l.sense, k < 16
  waiting : ∀ x ∈ l.waiting, x.Fits l.kind

theorem ClockLine.inv_iff (l : ClockLine) :
    l.Inv ↔ l.Ranges ∧ l.miss ≤ 3 ∧ (l.state ≠ .faulted → l.miss ≤ 2) ∧
      (l.isDriving = true → l.state = .running ∨ l.state = .catchup) := by
  constructor
  · rintro ⟨hi, hm, hf, hw, hw', hg, hg', hh, hs, hd, hx⟩
    exact ⟨⟨hi, ⟨hw, hw'⟩, ⟨hg, hg'⟩, hh, hs, hx⟩, hm, hf, hd⟩
  · rintro ⟨⟨hi, ⟨hw, hw'⟩, ⟨hg, hg'⟩, hh, hs, hx⟩, hm, hf, hd⟩
    exact ⟨hi, hm, hf, hw, hw', hg, hg', hh, hs, hd, hx⟩

/-- A line that differs in its state and its impulse alone keeps its ranges. -/
theorem ClockLine.Ranges.of_kept {l m : ClockLine} (h : l.Ranges) (hk : m.kept = l.kept) : m.Ranges := by
  have hi : m.indicated = l.indicated := (congrArg ClockLine.indicated hk :)
  have hki : m.kind = l.kind := (congrArg ClockLine.kind hk :)
  have hw : m.width = l.width := (congrArg ClockLine.width hk :)
  have hg : m.gap = l.gap := (congrArg ClockLine.gap hk :)
  have hh : m.hold = l.hold := (congrArg ClockLine.hold hk :)
  have hs : m.sense = l.sense := (congrArg ClockLine.sense hk :)
  have hx : m.waiting = l.waiting := (congrArg ClockLine.waiting hk :)
  obtain ⟨h1, h2, h3, h4, h5, h6⟩ := h
  exact ⟨hi ▸ hki ▸ h1, hw ▸ h2, hg ▸ h3, hh ▸ h4, hs ▸ h5, hki ▸ hx ▸ h6⟩

theorem ClockLine.kept_miss {l m : ClockLine} (h : m.kept = l.kept) : m.miss = l.miss := (congrArg ClockLine.miss h :)

/-- A line that is not faulted, with its ranges and its misses as before, meets the invariant where it drives rightly. -/
theorem ClockLine.Inv.of_kept {l m : ClockLine} (h : l.Inv) (hk : m.kept = l.kept) (hf : l.state = .faulted → m.state = .faulted)
    (hd : m.isDriving = true → m.state = .running ∨ m.state = .catchup) : m.Inv := by
  obtain ⟨hr, hm, hn, -⟩ := (l.inv_iff).mp h
  have hmiss := ClockLine.kept_miss hk
  exact (m.inv_iff).mpr ⟨hr.of_kept hk, hmiss ▸ hm, fun hs => hmiss ▸ hn fun hl => hs (hf hl), hd⟩

theorem ClockLine.Inv.driving {l : ClockLine} (h : l.Inv) : l.isDriving = true → l.state = .running ∨ l.state = .catchup :=
  ((l.inv_iff).mp h).2.2.2

theorem ClockLine.Inv.miss {l : ClockLine} (h : l.Inv) (hs : l.state ≠ .faulted) : l.miss ≤ 2 := ((l.inv_iff).mp h).2.2.1 hs

theorem ClockLine.Inv.ranges {l : ClockLine} (h : l.Inv) : l.Ranges := ((l.inv_iff).mp h).1

/-! ### Starts and decisions (R158, R159) -/

/-- R159: an impulse starts only on a line that is RUNNING or CATCHUP. -/
theorem ClockLine.start_driving (e : Nat) (l : ClockLine)
    (h : l.isDriving = true → l.state = .running ∨ l.state = .catchup) :
    (l.start e).isDriving = true → (l.start e).state = .running ∨ (l.start e).state = .catchup := by
  unfold ClockLine.start
  split
  · next hs => exact fun _ => hs.2.2
  · exact h

theorem ClockLine.start_state (e : Nat) (l : ClockLine) : (l.start e).state = l.state := by
  unfold ClockLine.start
  split <;> rfl

theorem ClockLine.start_inv (e : Nat) {l : ClockLine} (h : l.Inv) : (l.start e).Inv :=
  h.of_kept (l.start_kept e) (fun hs => (l.start_state e).trans hs) (l.start_driving e h.driving)

theorem decisionState_ne_faulted (k : ClockKind) (hold d : Nat) : decisionState k hold d ≠ .faulted := by
  unfold decisionState
  split
  · decide
  · split <;> decide

/-- R158: a decision on a line that is not driving and has no fault. -/
theorem ClockLine.decided_inv (c : Nat) (f : Bool) {l : ClockLine} (hr : l.Ranges) (hm : l.miss ≤ 2)
    (hd : l.isDriving = false) : (l.decided c f).Inv := by
  refine ((l.decided c f).inv_iff).mpr ⟨hr.of_kept rfl, Nat.le_succ_of_le hm, fun _ => hm, fun h => ?_⟩
  have : (l.decided c f).isDriving = l.isDriving := rfl
  rw [this, hd] at h
  cases h

theorem ClockLine.decidable_iff (l : ClockLine) :
    l.decidable = true ↔ l.state = .running ∨ l.state = .catchup ∨ l.state = .holding := by
  simp [ClockLine.decidable, or_assoc]

theorem ClockLine.miss_of_decidable {l : ClockLine} (h : l.Inv) (hd : l.decidable = true) : l.miss ≤ 2 := by
  refine h.miss fun hf => ?_
  rw [ClockLine.decidable_iff, hf] at hd
  simp at hd

/-! ### Time events (R157, R161 to R165) -/

theorem ClockLine.second_inv (e : Nat) (tb : Timebase) (n : Nat) {l : ClockLine} (h : l.Inv) : (l.second e tb n).1.Inv := by
  unfold ClockLine.second
  split
  · split
    · next hs =>
      exact ClockLine.start_inv e (h.of_kept rfl (fun hf => hf) fun _ => .inl hs)
    · next hs =>
      split
      · exact h.of_kept rfl (fun hf => absurd (hs.symm.trans hf) (by decide)) fun _ => .inl rfl
      · exact h
    · exact h
  · exact h

theorem ClockLine.step_inv (e : Nat) (tb : Timebase) (n : Nat) {l : ClockLine} (h : l.Inv) : (l.step e tb n).1.Inv := by
  unfold ClockLine.step
  split
  · next hdec =>
    split
    · exact h.of_kept rfl (fun hf => hf) h.driving
    · next hdrive =>
      exact ClockLine.start_inv e
        (ClockLine.decided_inv _ _ h.ranges (ClockLine.miss_of_decidable h hdec) (Bool.eq_false_iff.mpr hdrive))
  · exact h

theorem ClockLine.initialStep_inv (e : Nat) (tb : Timebase) (n : Nat) {l : ClockLine} (h : l.Inv) :
    (l.initialStep e tb n).1.Inv := by
  unfold ClockLine.initialStep
  split
  · next hs =>
    have hdrive : l.isDriving = false := Bool.eq_false_iff.mpr fun hd => by
      rcases h.driving hd with h' | h' <;> rw [hs] at h' <;> cases h'
    exact ClockLine.start_inv e (ClockLine.decided_inv _ _ h.ranges (h.miss (by rw [hs]; decide)) hdrive)
  · exact h

/-! ### Sections (R154, R155) -/

theorem ClockLine.store_ranges {x : ClockSection} {l : ClockLine} (h : l.Ranges) (hx : x.Fits l.kind) : (l.store x).Ranges := by
  obtain ⟨hw, hw', hg, hg', hh, hkind, hpos⟩ := hx
  refine ⟨?_, ⟨hw, hw'⟩, ⟨hg, hg'⟩, hh, h.sense, fun _ hy => by cases hy⟩
  simp only [ClockLine.store_indicated, ClockLine.store_kind]
  cases hp : x.position with
  | none => simpa [hkind hp] using h.indicated
  | some p => exact hpos p hp

/-- R155: an accepted section applied to a line that is not driving. -/
theorem ClockLine.apply_inv (n e : Nat) (tb : Timebase) {x : ClockSection} {l : ClockLine} (h : l.Ranges)
    (hx : x.Fits l.kind) (hd : l.isDriving = false) : (l.apply n e tb x).1.Inv := by
  have hstore := ClockLine.store_ranges h hx
  have hdrive : (l.store x).isDriving = false := hd
  have put : ∀ st, ({ l.store x with state := st } : ClockLine).Inv := fun st =>
    (ClockLine.inv_iff _).mpr ⟨hstore.of_kept rfl, Nat.zero_le _, fun _ => Nat.zero_le _, fun h => by
      rw [show ({ l.store x with state := st } : ClockLine).isDriving = (l.store x).isDriving from rfl, hdrive] at h
      cases h⟩
  refine ClockLine.start_inv e ?_
  unfold ClockLine.configured
  dsimp only
  split
  · exact put _
  · split
    · exact ClockLine.decided_inv _ _ hstore (Nat.zero_le _) hdrive
    · exact put _

theorem le_clamp {lo hi v : Nat} (h : lo ≤ hi) : lo ≤ clamp lo hi v ∧ clamp lo hi v ≤ hi := by
  unfold clamp
  omega

theorem badFields_eq_none_iff {cs : List (FieldId × Bool)} : badFields cs = none ↔ ∀ check ∈ cs, check.2 = false := by
  rw [badFields, Option.map_eq_none_iff, firstFailing_eq_none_iff]

theorem outside_eq_false_iff {lo hi : Nat} {v : Option Nat} : outside lo hi v = false ↔ ∀ n ∈ v, lo ≤ n ∧ n ≤ hi := by
  cases v <;> simp [outside]

theorem positionOf_lt {k : ClockKind} {h m s : Nat} (hf : readingFits k h m s = true) : positionOf k h m s < dialSize k := by
  simp only [readingFits, Bool.and_eq_true, decide_eq_true_eq] at hf
  obtain ⟨⟨-, hm⟩, -⟩ := hf
  cases k with
  | minute => simp only [positionOf, dialSize]; omega
  | halfMinute => simp only [positionOf, dialSize]; split <;> omega

/-- R154: a section that is not refused is in its ranges. -/
theorem clockSection_fits {s : State} {n : Nat} {r : ClockReq} (h : clockRefusal s n r = none) :
    (clockSection r).Fits (s.clock n).kind := by
  simp only [clockRefusal, badFields_eq_none_iff, List.forall_mem_cons] at h
  obtain ⟨-, -, -, hind, -, hhold, -⟩ := h
  refine ⟨(le_clamp (by decide)).1, (le_clamp (by decide)).2, (le_clamp (by decide)).1, (le_clamp (by decide)).2, ?_, ?_, ?_⟩
  · rw [outside_eq_false_iff] at hhold
    simp only [clockSection]
    cases hh : r.hold with
    | none => simp
    | some v => exact (hhold v hh).2
  · intro hpos
    cases hi : r.indicated with
    | omitted => simp [hi, badIndicated] at hind
    | unknown => simp [hi, badIndicated] at hind
    | is i =>
      cases i with
      | keep => simpa [hi, badIndicated, clockSection] using hind
      | reading hr m sec => simp [clockSection, hi] at hpos
  · intro p hp
    cases hi : r.indicated with
    | omitted => simp [clockSection, hi] at hp
    | unknown => simp [clockSection, hi] at hp
    | is i =>
      cases i with
      | keep => simp [clockSection, hi] at hp
      | reading hr m sec =>
        simp only [clockSection, hi, Option.mem_def, Option.some.injEq] at hp
        rw [← hp]
        exact positionOf_lt (by simpa [hi, badIndicated] using hind)

/-! ### The end of an impulse (R160) -/

theorem ClockLine.count_ranges (e : Nat) {l : ClockLine} (h : l.Ranges) : (l.count e).Ranges := by
  refine ⟨?_, h.width, h.gap, h.hold, h.sense, h.waiting⟩
  simp only [ClockLine.count_indicated, ClockLine.count_kind]
  split
  · exact Nat.mod_lt _ (dialSize_pos _)
  · exact h.indicated

/-- R160: the judgement of an impulse leaves a line that is not driving, faulted at its third miss. -/
theorem ClockLine.judge_inv (n e : Nat) (tb : Timebase) {l : ClockLine} (h : l.Inv) (hdrive : l.isDriving = true) :
    (l.judge n e tb).1.Inv ∧ (l.judge n e tb).1.isDriving = false := by
  have hst := h.driving hdrive
  have hcount := ClockLine.count_ranges e h.ranges
  have hmiss : (l.count e).miss ≤ 3 := by
    have := h.miss (by rcases hst with hs | hs <;> rw [hs] <;> decide)
    simp only [ClockLine.count_miss]
    split <;> omega
  have put : ∀ (m : ClockLine), m.kept = (l.count e).kept → m.drive = .gap (e + l.gap) →
      (m.state ≠ .faulted → (l.count e).miss ≠ 3) → m.Inv ∧ m.isDriving = false := by
    intro m hk hd hf
    have hd : m.isDriving = false := by rw [ClockLine.isDriving, hd]
    have hm := ClockLine.kept_miss hk
    exact ⟨(m.inv_iff).mpr ⟨hcount.of_kept hk, hm ▸ hmiss, fun hs => by have := hf hs; omega, fun h => by rw [hd] at h; cases h⟩,
      hd⟩
  unfold ClockLine.judge
  dsimp only
  rw [if_pos hst]
  split
  · exact put _ rfl rfl fun hs => absurd rfl hs
  · next h3 =>
    split
    · exact put _ rfl rfl fun _ => h3
    · split
      · exact put _ rfl rfl fun _ => h3
      · exact put _ rfl rfl fun _ => h3

theorem ClockLine.lateDecision_inv (n : Nat) (tb : Timebase) {l : ClockLine} (h : l.Inv) (hd : l.isDriving = false) :
    (l.lateDecision n tb).1.Inv ∧ (l.lateDecision n tb).1.isDriving = false := by
  have hclear : ({ l with decide := false } : ClockLine).Inv := h.of_kept rfl (fun hf => hf) h.driving
  unfold ClockLine.lateDecision
  split
  · split
    · next hdec => exact ⟨ClockLine.decided_inv _ _ hclear.ranges (ClockLine.miss_of_decidable h hdec) hd, hd⟩
    · exact ⟨hclear, hd⟩
  · exact ⟨h, hd⟩

theorem ClockLine.impulseEnds_inv (n e : Nat) (tb : Timebase) {l : ClockLine} (h : l.Inv) :
    (l.impulseEnds n e tb).1.Inv := by
  unfold ClockLine.impulseEnds
  split
  · next hdrive =>
    obtain ⟨hj, hjd⟩ := ClockLine.judge_inv n e tb h hdrive
    obtain ⟨hc, hcd⟩ := ClockLine.lateDecision_inv n tb hj hjd
    dsimp only
    unfold ClockLine.lateSection
    split
    · next x hx => exact ClockLine.apply_inv n e tb hc.ranges (hc.ranges.waiting x hx) hcd
    · exact hc
  · exact h

theorem ClockLine.gapEnds_inv (e : Nat) {l : ClockLine} (h : l.Inv) : (l.gapEnds e).Inv := by
  unfold ClockLine.gapEnds
  split
  · exact ClockLine.start_inv e (h.of_kept rfl (fun hf => hf) fun hd => by cases hd)
  · exact h

/-! ### Sense (R156) -/

theorem ClockLine.sensed_inv {l : ClockLine} (h : l.Inv) : l.sensed.Inv := by
  unfold ClockLine.sensed
  split
  · exact h.of_kept rfl (fun hf => hf) h.driving
  · exact h

theorem ClockLine.setSense_inv {k : Option Nat} (hk : ∀ n ∈ k, n < 16) {l : ClockLine} (h : l.Inv) : (l.setSense k).Inv := by
  unfold ClockLine.setSense
  split
  · exact h
  · obtain ⟨⟨h1, h2, h3, h4, -, h6⟩, hm, hn, hd⟩ := (l.inv_iff).mp h
    exact (ClockLine.inv_iff _).mpr ⟨⟨h1, h2, h3, h4, hk, h6⟩, hm, hn, hd⟩

/-! ### All lines -/

/-- The invariant on the lines of a state. -/
def linesInv (ls : List ClockLine) : Prop := ∀ l ∈ ls, l.Inv

theorem ClockLine.reset_inv : ClockLine.reset.Inv := by simp [ClockLine.Inv, ClockLine.reset, ClockLine.isDriving, dialSize]

theorem linesInv_mapLinesFrom {f : Nat → ClockLine → ClockLine × List ReportBody} (hf : ∀ n l, l.Inv → (f n l).1.Inv) (n : Nat)
    {ls : List ClockLine} (h : linesInv ls) : linesInv (mapLinesFrom f n ls).1 := by
  induction ls generalizing n with
  | nil => exact h
  | cons l ls ih =>
    obtain ⟨hl, hls⟩ := List.forall_mem_cons.mp h
    exact List.forall_mem_cons.mpr ⟨hf n l hl, ih (n + 1) hls⟩

theorem linesInv_modify {f : ClockLine → ClockLine} (hf : ∀ l, l.Inv → (f l).Inv) (n : Nat) {ls : List ClockLine}
    (h : linesInv ls) : linesInv (ls.modify n f) := by
  intro l hl
  obtain ⟨i, hi⟩ := List.mem_iff_getElem?.mp hl
  rw [List.getElem?_modify] at hi
  cases hx : ls[i]? with
  | none => rw [hx] at hi; cases hi
  | some x =>
    have hinv := h x (List.mem_of_getElem? hx)
    rw [hx, Option.map_eq_map, Option.map_some, Option.some.injEq] at hi
    rw [← hi]
    split
    · exact hf x hinv
    · exact hinv

theorem linesInv_set {ls : List ClockLine} (h : linesInv ls) (n : Nat) {l : ClockLine} (hl : l.Inv) : linesInv (ls.set n l) := by
  intro m hm
  rcases List.mem_or_eq_of_mem_set hm with hm | hm
  · exact h m hm
  · exact hm ▸ hl

theorem State.clock_inv {s : State} (h : linesInv s.scd) (n : Nat) : (s.clock n).Inv := by
  rw [State.clock, List.getD_eq_getElem?_getD]
  cases hl : s.scd[n]? with
  | none => exact ClockLine.reset_inv
  | some l => exact h l (List.mem_of_getElem? hl)

theorem State.deliverSecond_lines {s : State} (h : linesInv s.scd) : linesInv s.deliverSecond.scd := by
  have hlines := linesInv_mapLinesFrom (fun n l => ClockLine.second_inv s.base.elapsed s.base.tbs n (l := l)) 0 h
  unfold State.deliverSecond
  dsimp only
  split <;> simpa only [State.mapWork_scd, State.clockEvent_scd, State.mapWork_base] using hlines

theorem State.takeSecond_lines {s : State} (h : linesInv s.scd) : linesInv s.takeSecond.scd := by
  unfold State.takeSecond
  split
  · unfold State.secondEvent
    dsimp only
    split
    · exact State.deliverSecond_lines (s := State.mapWork _ { s with base := s.base.wrap }) h
    · exact State.deliverSecond_lines (s := { s with base := s.base.wrap }) h
  · exact h

theorem State.losePulses_scd (s : State) : s.losePulses.scd = s.scd := by
  unfold State.losePulses
  split <;> rfl

theorem State.stepBy_lines (d : Int) (c : StepCause) {s : State} (h : linesInv s.scd) : linesInv (s.stepBy d c).scd := by
  have h' : linesInv (s.stepChangeover d).scd := by rw [(State.stepChangeover_rest d s).2.2]; exact h
  exact linesInv_mapLinesFrom (fun n l => ClockLine.step_inv _ _ n (l := l)) 0 h'

theorem State.setFirst_lines (hr m sec ms : Nat) {s : State} (h : linesInv s.scd) : linesInv (s.setFirst hr m sec ms).scd :=
  linesInv_mapLinesFrom (fun n l => ClockLine.initialStep_inv _ _ n (l := l)) 0 h

theorem State.syncPulse_lines {s : State} (h : linesInv s.scd) : linesInv s.syncPulse.scd := by
  unfold State.syncPulse
  dsimp only
  split
  · exact h
  · split
    · exact h
    · split
      · exact State.stepBy_lines _ _ h
      · exact h

theorem State.deliverEdge_lines (n : Nat) {s : State} (h : linesInv s.scd) : linesInv (s.deliverEdge n).scd := by
  unfold State.deliverEdge
  dsimp only
  split
  · exact h
  · split
    · rw [(State.dispatchEdge_rest n _ s).2.1]; exact h
    · exact h
  · rw [(State.settleOverride_rest .keys s).2.2.1]; exact h
  · split
    · exact State.syncPulse_lines h
    · exact h
  · exact h
  · exact h
  · split
    · exact linesInv_modify (fun _ => ClockLine.sensed_inv) _ h
    · exact h

theorem State.takeEdge_lines (n : Nat) (v : Level) {s : State} (h : linesInv s.scd) : linesInv (s.takeEdge n v).scd := by
  rw [State.takeEdge_eq]
  dsimp only
  split <;> exact State.deliverEdge_lines n h

theorem State.edge_lines (n : Nat) (v : Level) {s : State} (h : linesInv s.scd) : linesInv (s.edge n v).scd := by
  unfold State.edge
  split
  · exact h
  · exact State.takeEdge_lines n v h

theorem State.sample_lines (n : Nat) (v : Level) {s : State} (h : linesInv s.scd) : linesInv (s.sample n v).scd := by
  unfold State.sample
  dsimp only
  split
  · exact h
  · split
    · exact h
    · split
      · exact State.takeEdge_lines n v h
      · exact h

/-- R169: of the clock lines an accepted section of line `n` changes the sense lines alone. -/
theorem State.configureField_lines {n : Nat} (hn : n < 16) (f : FieldLine → FieldLine) {s : State} (h : linesInv s.scd) :
    linesInv (s.configureField n f).scd := by
  have leave : ∀ (o : Role) {u : State}, linesInv u.scd → linesInv (u.leaveRole o).scd := by
    intro o u hu
    rcases (u.leaveRole_rest o).2.2 with he | ⟨k, -, he⟩ <;> rw [he]
    · exact hu
    · exact linesInv_modify (fun _ => ClockLine.setSense_inv (by simp)) k hu
  have told : ∀ {u : State}, linesInv u.scd → linesInv (u.tellRole n).scd := by
    intro u hu
    rcases (u.tellRole_rest n).2.2 with he | ⟨k, -, he⟩ <;> rw [he]
    · exact hu
    · exact linesInv_modify (fun _ => ClockLine.setSense_inv (by simpa using hn)) k hu
  unfold State.configureField
  dsimp only
  rw [(State.settleOverride_rest ..).2.2.1]
  refine told ?_
  split
  · exact h
  · exact leave _ h

theorem State.applyClock_lines {n : Nat} {r : ClockReq} {s : State} (hok : clockRefusal s n r = none) (h : linesInv s.scd) :
    linesInv (s.applyClock n (clockSection r)).1.scd := by
  have hl := State.clock_inv h n
  have hx := clockSection_fits hok
  unfold State.applyClock
  split
  · refine linesInv_set h n ?_
    obtain ⟨⟨h1, h2, h3, h4, h5, -⟩, hm, hn, hd⟩ := (ClockLine.inv_iff _).mp hl
    exact (ClockLine.inv_iff _).mpr
      ⟨⟨h1, h2, h3, h4, h5, fun y hy => by rw [← Option.some.inj hy]; exact hx⟩, hm, hn, hd⟩
  · next hdrive => exact linesInv_set h n (ClockLine.apply_inv _ _ _ hl.ranges hx (Bool.eq_false_iff.mpr hdrive))

/-- The owners that write the clock lines keep them in their ranges. -/
theorem owner_linesInv {q : Request} (hq : writesBeside q = true) {s : State} (hs : linesInv s.scd) :
    linesInv (Request.owner q s).1.scd := by
  have hg := fun r o h => State.guarded_keeps (I := fun u : State => linesInv u.scd) (refusal := r) (owner := o) hs h
  cases q with
  | configureGeneral r =>
    refine hg _ _ fun _ => ?_
    unfold State.applyGeneral
    dsimp only
    split <;> exact hs
  | configureLine n r =>
    refine hg _ _ fun hok => State.configureField_lines ?_ _ hs
    rw [lineRefusal, firstRefusal_eq_none_iff, lineForm, badFields_eq_none_iff] at hok
    have := hok.1 (.lineNumber, 15 < n) (by simp)
    simp at this
    omega
  | configureClockLine n r => exact hg _ _ fun hok => State.applyClock_lines hok hs
  | textLoad items =>
    refine hg _ _ fun _ => ?_
    unfold State.loadTexts
    dsimp only
    split <;> exact hs
  | timeSet h m sec ms =>
    refine hg _ _ fun _ => ?_
    split
    · exact State.setFirst_lines _ _ _ _ hs
    · unfold State.stepTime
      dsimp only
      split
      · exact hs
      · exact State.stepBy_lines _ _ hs
  | overrideSet on =>
    cases on with
    | none => exact hs
    | some v =>
      refine (?_ : linesInv (s.force v .forced).scd)
      rw [(State.force_rest ..).2.2.1]
      exact hs
  | status => exact hs
  | _ => cases hq

/-- R153, R160: every act keeps the clock lines. -/
theorem lines_kept : Kept (fun _ => True) fun s => linesInv s.scd := by
  have same : ∀ {s t : State}, t.scd = s.scd → linesInv s.scd → linesInv t.scd := fun h hs => h ▸ hs
  have endImpulse : ∀ n (s : State), linesInv s.scd → linesInv (s.endImpulse n).scd := by
    intro n s hs
    rw [(s.endImpulse_rest n).2.2]
    exact linesInv_set hs n (ClockLine.impulseEnds_inv _ _ _ (State.clock_inv hs n))
  exact Kept.of_beside (fun s t h => same h.scd) (fun _ _ hs => hs)
    (fun _ s _ l hl => by rw [List.eq_of_mem_replicate hl]; exact ClockLine.reset_inv)
    (fun _ _ _ _ _ _ hs => hs) (fun _ _ _ hs => hs) (fun _ _ _ _ _ hq hs => owner_linesInv hq hs)
    (fun s => same s.frameSent_rest.2.1) (fun s => State.takeSecond_lines) (fun s => same s.losePulses_scd)
    (fun n v _ => State.edge_lines n v) (fun n v _ => State.sample_lines n v) (fun _ _ hs => hs) endImpulse
    (fun n s hs => linesInv_modify (fun _ => ClockLine.gapEnds_inv _) n hs)
    (fun s hs => State.timeDues_keeps (I := fun s => linesInv s.scd) (fun s => State.takeSecond_lines)
      (fun s => same s.losePulses_scd) (fun _ hs => hs) _ hs)

/-- Settles O43: every operation on a line keeps its invariant, and every act is one of them on some of the lines. -/
theorem clockLinesKeepTheirRanges : Obligations.ClockLinesKeepTheirRanges := fun s t hs hstep =>
  lines_kept.step s t (fun _ _ => trivial) hs hstep

end Sys2Proof.Machine
end

section
/-!
PROOF. The timebase through every step (R1, R2, R13, R14, R16): its ranges, and t never above the high-water mark.
-/

namespace Sys2Proof.Machine

/-! ### The operations on the timebase -/

theorem Timebase.fraction_lt {tb : Timebase} (h : tb.secPos < tb.secLen) : tb.fraction < 1000 := by
  unfold Timebase.fraction
  rw [Nat.div_lt_iff_lt_mul (by omega)]
  omega

theorem Timebase.qualified_iff (tb : Timebase) : tb.qualified = true ↔ tb.state ≠ .unset := by
  simp [Timebase.qualified]

/-- The ranges of the timebase but for the fraction: what a millisecond of the elapsed count leaves before the second event it
may call for. -/
structure Timebase.Bounds (tb : Timebase) : Prop where
  t : -3600 ≤ tb.t ∧ tb.t ≤ tb.tHigh ∧ tb.tHigh ≤ 86399
  secLen : 990 ≤ tb.secLen ∧ tb.secLen ≤ 1010
  slew : -2000 ≤ tb.slew ∧ tb.slew ≤ 2000
  rejected : tb.rejected.length ≤ 2
  c0 : tb.c0 ≤ 1439
  unset : tb.state = .unset → tb.t = 0 ∧ tb.tHigh = 0 ∧ tb.secPos = 0 ∧ tb.slew = 0

theorem Timebase.inv_iff (tb : Timebase) : tb.Inv ↔ tb.Bounds ∧ tb.secPos < tb.secLen := by
  constructor
  · rintro ⟨h1, h2, h3, hp, h4, h5, h6, h7, h8, h9, h10⟩
    exact ⟨⟨⟨h1, h2, h3⟩, ⟨h4, h5⟩, ⟨h6, h7⟩, h8, h9, h10⟩, hp⟩
  · rintro ⟨⟨⟨h1, h2, h3⟩, ⟨h4, h5⟩, ⟨h6, h7⟩, h8, h9, h10⟩, hp⟩
    exact ⟨h1, h2, h3, hp, h4, h5, h6, h7, h8, h9, h10⟩

/-- R13: the slew of a second is at most 10 ms, and the remainder comes nearer to 0. -/
theorem slewSecond_range {r : Int} (h : -2000 ≤ r ∧ r ≤ 2000) :
    (990 ≤ (slewSecond r).1 ∧ (slewSecond r).1 ≤ 1010) ∧ -2000 ≤ (slewSecond r).2 ∧ (slewSecond r).2 ≤ 2000 := by
  unfold slewSecond
  dsimp only
  split
  · exact ⟨by omega, by omega⟩
  · split
    · exact ⟨by omega, by omega⟩
    · exact ⟨by decide, by decide⟩

theorem Timebase.beginSecond_inv {tb : Timebase} (h : tb.Bounds) (hq : tb.state ≠ .unset) : tb.beginSecond.Inv := by
  obtain ⟨hlen, hslew⟩ := slewSecond_range h.slew
  exact (Timebase.inv_iff _).mpr
    ⟨⟨h.t, hlen, hslew, h.rejected, h.c0, fun hu => absurd hu hq⟩, lt_of_lt_of_le (Nat.zero_lt_succ 989) hlen.1⟩

/-- R4, R5: the wrap of the fraction restores the range of the fraction. -/
theorem Timebase.advance_inv {tb : Timebase} (h : tb.Bounds) (hq : tb.state ≠ .unset) : tb.advance.Inv := by
  obtain ⟨ht, hth, hhigh⟩ := h.t
  unfold Timebase.advance
  split
  · have standard : (-3600 : Int) ≤ 0 ∧ (0 : Int) ≤ 0 ∧ (0 : Int) ≤ 86399 := by decide
    exact Timebase.beginSecond_inv ⟨standard, h.secLen, h.slew, h.rejected, h.c0, fun hu => absurd hu hq⟩ hq
  · refine Timebase.beginSecond_inv ⟨⟨?_, ?_, ?_⟩, h.secLen, h.slew, h.rejected, h.c0, fun hu => absurd hu hq⟩ hq
    · dsimp only; omega
    · exact le_max_right _ _
    · dsimp only; omega

theorem wholeSecond : 990 ≤ 1000 ∧ 1000 ≤ 1010 := by decide

theorem noSlew : (-2000 : Int) ≤ 0 ∧ (0 : Int) ≤ 2000 := by decide

/-- R9: a step keeps the ranges when it takes the clock less than a day forward. -/
theorem Timebase.stepped_inv {tb : Timebase} {d : Int} (c : StepCause) (h : tb.Inv) (hq : tb.state ≠ .unset)
    (hd : d ≤ 43199999) : (tb.stepped d c).Inv := by
  obtain ⟨hb, hp⟩ := (tb.inv_iff).mp h
  have hfrac := Timebase.fraction_lt hp
  obtain ⟨ht, hth, hhigh⟩ := hb.t
  have htotal : tb.totalInDay d < 86400000 := by
    unfold Timebase.totalInDay Timebase.passesDay Timebase.total
    split
    · next h => have := of_decide_eq_true h; omega
    · next h => have := of_decide_eq_false (Bool.eq_false_iff.mpr h); omega
  have hlimited : -3600000 ≤ tb.totalLimited d ∧ tb.totalLimited d < 86400000 := by
    unfold Timebase.totalLimited
    omega
  refine (Timebase.inv_iff _).mpr ⟨⟨⟨?_, le_max_right _ _, ?_⟩, wholeSecond, noSlew, ?_, hb.c0, fun hu => absurd hu hq⟩, ?_⟩
  · simp only [Timebase.stepped]; omega
  · simp only [Timebase.stepped]
    refine max_le ?_ (by omega)
    split <;> omega
  · simp only [Timebase.stepped]
    split
    · exact hb.rejected
    · exact Nat.zero_le _
  · simp only [Timebase.stepped]; omega

theorem dayBase_range {c0 x : Nat} (hc : c0 ≤ 1439) (hx : x ≤ 86399) : 0 ≤ dayBase c0 x ∧ dayBase c0 x ≤ 86399 := by
  unfold dayBase
  dsimp only [Config.day]
  split <;> omega

theorem Timebase.setFirst_inv {tb : Timebase} {h m sec ms : Nat} (hi : tb.Inv) (hh : h ≤ 23) (hm : m ≤ 59) (hs : sec ≤ 59)
    (hms : ms ≤ 999) : (tb.setFirst h m sec ms).Inv := by
  obtain ⟨hb, -⟩ := (tb.inv_iff).mp hi
  have ht := dayBase_range (x := 3600 * h + 60 * m + sec) hb.c0 (by omega)
  exact (Timebase.inv_iff _).mpr ⟨⟨⟨le_trans (by decide) ht.1, le_refl _, ht.2⟩, wholeSecond, noSlew, Nat.zero_le _, hb.c0,
    fun hu => by cases hu⟩, Nat.lt_succ_of_le hms⟩

/-- R10: the offset of a pulse is less than a period either way. -/
theorem Timebase.neg_offset_le {tb : Timebase} (h : tb.secPos < tb.secLen) : -tb.offset ≤ 43199999 := by
  have hfrac := Timebase.fraction_lt h
  unfold Timebase.offset Timebase.localPosition periodMillis
  cases tb.period <;> dsimp only <;> split <;> omega

theorem Timebase.accept_inv {tb : Timebase} (e : Nat) {o : Int} (h : tb.Inv) (ho : o.natAbs ≤ 2000) : (tb.accept e o).Inv := by
  obtain ⟨hb, hp⟩ := (tb.inv_iff).mp h
  exact (Timebase.inv_iff _).mpr ⟨⟨hb.t, wholeSecond, by dsimp only [Timebase.accept]; omega, Nat.zero_le _, hb.c0, fun hu => by cases hu⟩,
    Timebase.fraction_lt hp⟩

theorem Timebase.agree_inv {tb : Timebase} (e : Nat) (h : tb.Inv) : (tb.agree e).Inv := by
  obtain ⟨hb, hp⟩ := (tb.inv_iff).mp h
  exact (Timebase.inv_iff _).mpr ⟨⟨hb.t, hb.secLen, hb.slew, Nat.zero_le _, hb.c0, fun hu => by cases hu⟩, hp⟩

theorem pushRejected_length (o : Int) (xs : List Int) : (pushRejected o xs).length ≤ 2 := by
  match xs with
  | [] => exact Nat.le_succ 1
  | [x] => exact le_refl _
  | _ :: y :: _ => exact le_refl _

theorem Timebase.setPeriod_inv {tb : Timebase} (e : Nat) (p : SyncPeriod) (h : tb.Inv) : (tb.setPeriod e p).Inv := by
  unfold Timebase.setPeriod
  split
  · exact h
  · obtain ⟨hb, hp⟩ := (tb.inv_iff).mp h
    exact (Timebase.inv_iff _).mpr ⟨⟨hb.t, hb.secLen, hb.slew, Nat.zero_le _, hb.c0, hb.unset⟩, hp⟩

theorem Timebase.configure_inv {s : State} {r : GeneralReq} (hok : generalRefusal s r = none) (h : s.base.tbs.Inv) :
    (s.base.tbs.configure s.base.elapsed r).Inv := by
  obtain ⟨hb, hp⟩ := (Timebase.inv_iff _).mp h
  refine Timebase.setPeriod_inv _ _ ((Timebase.inv_iff _).mpr ⟨⟨hb.t, hb.secLen, hb.slew, hb.rejected, ?_, hb.unset⟩, hp⟩)
  rw [generalRefusal, firstRefusal_eq_none_iff, generalForm, badFields_eq_none_iff] at hok
  have hc := outside_eq_false_iff.mp (hok.1 (.c0, outside 0 1439 r.c0) (by simp))
  dsimp only [orHeld]
  cases hr : r.c0 with
  | none => exact hb.c0
  | some c => exact (hc c hr).2

theorem timeRefusal_eq_none_iff {h m sec ms : Nat} :
    timeRefusal h m sec ms = none ↔ h ≤ 23 ∧ m ≤ 59 ∧ sec ≤ 59 ∧ ms ≤ 999 := by
  simp [timeRefusal, badFields_eq_none_iff]

theorem Timebase.stepAmount_le (tb : Timebase) (h m sec ms : Nat) : tb.stepAmount h m sec ms ≤ 43199999 := by
  unfold Timebase.stepAmount
  omega

/-! ### The acts -/

theorem State.takeSecond_inv {s : State} (hb : s.base.tbs.Bounds) (hp : s.base.tbs.state = .unset → s.base.tbs.Inv) :
    s.takeSecond.base.tbs.Inv := by
  unfold State.takeSecond
  split
  · next hq =>
    rw [(State.secondEvent_rest s).1]
    exact Timebase.advance_inv hb ((Timebase.qualified_iff _).mp hq)
  · next hq => exact hp (by simpa [Timebase.qualified] using hq)

theorem State.losePulses_inv {s : State} (h : s.base.tbs.Inv) : s.losePulses.base.tbs.Inv := by
  unfold State.losePulses
  split
  · obtain ⟨hb, hp⟩ := (Timebase.inv_iff _).mp h
    exact (Timebase.inv_iff _).mpr ⟨⟨hb.t, hb.secLen, hb.slew, hb.rejected, hb.c0, fun hu => by cases hu⟩, hp⟩
  · exact h

theorem State.syncPulse_inv {s : State} (h : s.base.tbs.Inv) : s.syncPulse.base.tbs.Inv := by
  obtain ⟨hb, hp⟩ := (Timebase.inv_iff _).mp h
  unfold State.syncPulse
  dsimp only
  split
  · exact h
  · next hign =>
    have hq : s.base.tbs.state ≠ .unset := fun hu => hign (by simp [Timebase.ignores, hu])
    split
    · next ho => exact Timebase.accept_inv _ h ho
    · split
      · refine Timebase.agree_inv s.base.elapsed (?_ : (s.stepBy (-s.base.tbs.offset) .sync).base.tbs.Inv)
        rw [(State.stepBy_rest ..).1]
        exact Timebase.stepped_inv _ h hq (Timebase.neg_offset_le hp)
      · exact (Timebase.inv_iff _).mpr
          ⟨⟨hb.t, hb.secLen, hb.slew, pushRejected_length _ _, hb.c0, fun hu => absurd hu hq⟩, hp⟩

theorem State.deliverEdge_tbs_inv (n : Nat) {s : State} (h : s.base.tbs.Inv) : (s.deliverEdge n).base.tbs.Inv := by
  unfold State.deliverEdge
  dsimp only
  split
  · exact h
  · split
    · rcases (State.dispatchEdge_rest n _ s).1 with he | he <;> rw [he] <;> exact h
    · exact h
  · rw [(State.settleOverride_rest ..).1]; exact h
  · split
    · exact State.syncPulse_inv h
    · exact h
  · exact h
  · exact h
  · split <;> exact h

theorem State.takeEdge_tbs_inv (n : Nat) (v : Level) {s : State} (h : s.base.tbs.Inv) : (s.takeEdge n v).base.tbs.Inv := by
  rw [State.takeEdge_eq]
  dsimp only
  split <;> exact State.deliverEdge_tbs_inv n h

theorem State.edge_tbs_inv (n : Nat) (v : Level) {s : State} (h : s.base.tbs.Inv) : (s.edge n v).base.tbs.Inv := by
  unfold State.edge
  split
  · exact h
  · exact State.takeEdge_tbs_inv n v h

theorem State.sample_tbs_inv (n : Nat) (v : Level) {s : State} (h : s.base.tbs.Inv) : (s.sample n v).base.tbs.Inv := by
  unfold State.sample
  dsimp only
  split
  · exact h
  · split
    · exact h
    · split
      · exact State.takeEdge_tbs_inv n v h
      · exact h

/-- R4: a millisecond of the elapsed count, with the second event that it may call for. -/
theorem State.millisecond_inv {s : State} (h : s.base.tbs.Inv) :
    (({ s with base := s.base.millisecond } : State).takeIf (fun s => s.base.tbs.secondDue) State.takeSecond).base.tbs.Inv := by
  obtain ⟨hb, hp⟩ := (Timebase.inv_iff _).mp h
  by_cases hq : s.base.tbs.qualified = true
  · have hs := (Timebase.qualified_iff _).mp hq
    have hms : s.base.millisecond.tbs = { s.base.tbs with secPos := s.base.tbs.secPos + 1 } := by
      simp [Base.millisecond, hq]
    have hbounds : s.base.millisecond.tbs.Bounds := by
      rw [hms]
      exact ⟨hb.t, hb.secLen, hb.slew, hb.rejected, hb.c0, fun hu => absurd hu hs⟩
    unfold State.takeIf
    split
    · exact State.takeSecond_inv hbounds fun hu => absurd (by rw [hms] at hu; exact hu) hs
    · next hdue =>
      refine (Timebase.inv_iff _).mpr ⟨hbounds, ?_⟩
      simp only [hms, Timebase.secondDue, Timebase.qualified] at hdue ⊢
      simp_all
  · have hms : s.base.millisecond.tbs = s.base.tbs := by simp [Base.millisecond, hq]
    have hnot : s.base.millisecond.tbs.secondDue = false := by simp [hms, Timebase.secondDue, hq]
    unfold State.takeIf
    rw [if_neg (Bool.eq_false_iff.mp hnot)]
    exact hms ▸ h

theorem owner_tbs_inv {q : Request} (hq : writesBeside q = true) {s : State} (hs : s.base.tbs.Inv) :
    (Request.owner q s).1.base.tbs.Inv := by
  have hg := fun r o h => State.guarded_keeps (I := fun u : State => u.base.tbs.Inv) (refusal := r) (owner := o) hs h
  cases q with
  | configureGeneral r =>
    refine hg _ _ fun hok => ?_
    unfold State.applyGeneral
    dsimp only
    split <;> exact Timebase.configure_inv hok hs
  | configureLine n r =>
    refine hg _ _ fun _ => ?_
    rw [(State.configureField_rest ..).1]
    exact hs
  | configureClockLine n r => exact hg _ _ fun _ => by rw [State.applyClock_base]; exact hs
  | textLoad items =>
    refine hg _ _ fun _ => ?_
    unfold State.loadTexts
    dsimp only
    split <;> exact hs
  | timeSet h m sec ms =>
    refine hg _ _ fun hok => ?_
    obtain ⟨hh, hm, hsec, hms⟩ := timeRefusal_eq_none_iff.mp hok
    split
    · exact Timebase.setFirst_inv hs hh hm hsec hms
    · next hu =>
      unfold State.stepTime
      dsimp only
      split
      · exact hs
      · rw [(State.stepBy_rest ..).1]
        exact Timebase.stepped_inv _ hs hu (Timebase.stepAmount_le ..)
  | overrideSet on =>
    cases on with
    | none => exact hs
    | some v =>
      refine (?_ : (s.force v .forced).base.tbs.Inv)
      rw [(State.force_rest ..).1]
      exact hs
  | status => exact hs
  | _ => cases hq

theorem tbs_kept : Kept (fun _ => True) fun s => s.base.tbs.Inv := by
  have same : ∀ {s t : State}, t.base.tbs = s.base.tbs → s.base.tbs.Inv → t.base.tbs.Inv := fun h hs => h ▸ hs
  have reset : Timebase.reset.Inv := by simp [Timebase.reset, Timebase.Inv]
  have second : ∀ s : State, s.base.tbs.Inv → s.takeSecond.base.tbs.Inv := fun s hs =>
    State.takeSecond_inv ((Timebase.inv_iff _).mp hs).1 fun _ => hs
  refine Kept.of_beside (fun s t h => same (congrArg Base.tbs h.base)) (fun _ _ hs => hs)
    (fun _ _ _ => reset)
    (fun _ _ _ _ _ _ hs => hs) (fun _ _ _ hs => hs) (fun _ _ _ _ _ hq hs => owner_tbs_inv hq hs) (fun s hs => ?restart)
    second (fun s => State.losePulses_inv) (fun n v _ => State.edge_tbs_inv n v) (fun n v _ => State.sample_tbs_inv n v)
    (fun _ _ hs => hs) (fun n s => same (congrArg Base.tbs (s.endImpulse_rest n).1)) (fun _ _ hs => hs) fun s hs => ?millisecond
  case restart => rcases s.frameSent_rest.1 with h | h <;> rw [h] <;> exact hs
  case millisecond =>
    have due := State.millisecond_inv hs
    unfold State.timeDues
    generalize State.takeIf _ State.takeSecond _ = u at due ⊢
    exact State.takeIf_keeps (I := fun s => s.base.tbs.Inv) (f := State.mapHlu Hlu.timeOut) (fun _ hs => hs) _
      (State.takeIf_keeps (I := fun s => s.base.tbs.Inv) (fun s => State.losePulses_inv) u due)

/-- Settles O7: every operation on the timebase keeps its ranges, and the second event restores the fraction's when it wraps. -/
theorem timebaseRangesKept : Obligations.TimebaseRangesKept := fun s t hs hstep =>
  tbs_kept.step s t (fun _ _ => trivial) hs hstep

end Sys2Proof.Machine
end

section
/-!
PROOF. The texts through every step (R53, R54): well-formed, and written by a TEXT LOAD and at power-on alone.
-/

namespace Sys2Proof.Machine

/-! ### The arrival of frames (R178, R179) -/

theorem Work.restoreFeed_inbound (b : Base) (w : Work) : (w.restoreFeed b).hlu.inbound = w.hlu.inbound := by
  by_cases hd : w.hlu.degraded = true
  · have h := congrArg (fun k : Work => k.hlu.inbound) (restoreFeed_kept b w hd)
    exact h
  · rw [Work.restoreFeed, if_neg hd]

theorem Work.restoreFeed_rx (b : Base) (w : Work) : (w.restoreFeed b).hlu.rx = w.hlu.rx := by
  by_cases hd : w.hlu.degraded = true
  · have h := congrArg (fun k : Work => k.hlu.rx) (restoreFeed_kept b w hd)
    exact h
  · rw [Work.restoreFeed, if_neg hd]

theorem Hlu.arrive_inbound (tag : Byte) (f : Frame) (h : Hlu) :
    ∀ e ∈ (h.arrive tag f).inbound, e ∈ h.inbound ∨ e.frame = f := by
  intro e he
  unfold Hlu.arrive at he
  dsimp only at he
  split at he
  · rcases List.mem_append.mp he with he | he
    · exact .inl he
    · exact .inr (by rw [List.mem_singleton.mp he])
  · split at he <;> exact .inl he

theorem Hlu.arrive_rx (tag : Byte) (f : Frame) (h : Hlu) : (h.arrive tag f).rx = h.rx := by
  unfold Hlu.arrive
  dsimp only
  split
  · rfl
  · split <;> rfl

/-- R179: a frame that arrives brings one place at most, with what it is to be served as. -/
theorem Work.wellFormed_inbound (b : Base) (tag : Byte) (f : Frame) (w : Work) :
    ∀ e ∈ (w.wellFormed b tag f).hlu.inbound, e ∈ w.hlu.inbound ∨ e.frame = f := by
  intro e he
  rw [Work.wellFormed, Work.restoreFeed_inbound] at he
  exact Hlu.arrive_inbound tag f w.hlu e he

theorem Work.received_rx (b : Base) (r : Received) (w : Work) : (w.received b r).hlu.rx = w.hlu.rx := by
  cases r with
  | nothing | badLength | badCheck => rfl
  | frame kind tag payload =>
    exact (Work.restoreFeed_rx ..).trans (Hlu.arrive_rx tag (frameOf kind payload) w.hlu)

theorem completedFrames_frame {e : Nat} {rx : Receiver} {x : Byte} {xs : List Byte} {kind tag : Byte} {payload : List Byte}
    (h : (rx.take e x).2 = .frame kind tag payload) :
    completedFrames e rx (x :: xs) = (kind, payload) :: completedFrames e (rx.take e x).1 xs := by
  rw [completedFrames, show rx.take e x = ((rx.take e x).1, .frame kind tag payload) by rw [← h]]

theorem completedFrames_other {e : Nat} {rx : Receiver} {x : Byte} {xs : List Byte}
    (h : ∀ kind tag payload, (rx.take e x).2 ≠ .frame kind tag payload) :
    completedFrames e rx (x :: xs) = completedFrames e (rx.take e x).1 xs := by
  rw [completedFrames]
  split
  · next hk => exact absurd (congrArg Prod.snd hk) (h _ _ _)
  · next hk => rw [hk]

/-- R178: the places that received bytes bring hold the frames that the bytes complete. -/
theorem hostBytes_inbound (b : Base) (xs : List Byte) (w : Work) :
    ∀ e ∈ (xs.foldl (Work.hostByte b) w).hlu.inbound,
      e ∈ w.hlu.inbound ∨ ∃ f ∈ completedFrames b.elapsed w.hlu.rx xs, e.frame = frameOf f.1 f.2 := by
  induction xs generalizing w with
  | nil => exact fun e he => .inl he
  | cons x xs ih =>
    intro e he
    rw [List.foldl_cons] at he
    have hrx : (w.hostByte b x).hlu.rx = (w.hlu.rx.take b.elapsed x).1 := Work.received_rx ..
    cases hr : (w.hlu.rx.take b.elapsed x).2 with
    | frame kind tag payload =>
      have hcomp := completedFrames_frame (xs := xs) hr
      rw [hcomp]
      rcases ih _ e he with hin | ⟨f, hf, hfe⟩
      · have hbyte : w.hostByte b x =
            ({ w with hlu := { w.hlu with rx := (w.hlu.rx.take b.elapsed x).1 } } : Work).wellFormed b tag
              (frameOf kind payload) := by
          unfold Work.hostByte
          dsimp only
          rw [hr]
          rfl
        rw [hbyte] at hin
        exact (Work.wellFormed_inbound _ _ _ _ e hin).imp_right fun hfe => ⟨_, List.mem_cons_self, hfe⟩
      · exact .inr ⟨f, List.mem_cons_of_mem _ (hrx ▸ hf), hfe⟩
    | nothing | badLength | badCheck =>
      have hcomp := completedFrames_other (xs := xs) (rx := w.hlu.rx) (x := x) (e := b.elapsed) (by simp [hr])
      have hin : (w.hostByte b x).hlu.inbound = w.hlu.inbound := by
        unfold Work.hostByte
        dsimp only
        rw [hr]
        rfl
      rw [hcomp, ← hrx, ← hin]
      exact ih _ e he

/-! ### TEXT LOAD (R55, R56) -/

theorem firstItem_eq_none_iff {bad : TextItem → Bool} {i : Nat} {items : List TextItem} :
    firstItem bad i items = none ↔ ∀ x ∈ items, bad x = false := by
  induction items generalizing i with
  | nil => simp [firstItem]
  | cons x xs ih => cases hx : bad x <;> simp [firstItem, hx, ih]

/-- R54: what an entry may hold. -/
def TextEntry.Fits (e : TextEntry) : Prop :=
  e.text.length ≤ Config.maxText ∧ e.text.all printable = true ∧ ∀ p ∈ e.phrase, p ≤ 4095

/-- R55: the items of a TEXT LOAD that is not refused fit their entries. -/
theorem fits_of_textRefusal {items : List TextItem} (h : textRefusal items = none) :
    ∀ x ∈ items, (⟨x.text, x.phrase⟩ : TextEntry).Fits := by
  intro x hx
  unfold textRefusal at h
  split at h
  · cases h
  · simp only [Option.map_eq_none_iff, Option.or_eq_none_iff, firstItem_eq_none_iff] at h
    obtain ⟨⟨⟨-, hlen⟩, hprint⟩, hphrase⟩ := h
    refine ⟨?_, ?_, fun p hp => (outside_eq_false_iff.mp (hphrase x hx) p hp).2⟩
    · simpa using hlen x hx
    · simpa using hprint x hx

theorem textsInv_putTexts {txs : List TextEntry} {items : List TextItem} (h : textsInv txs)
    (hi : ∀ x ∈ items, (⟨x.text, x.phrase⟩ : TextEntry).Fits) : textsInv (putTexts txs items) := by
  unfold putTexts
  induction items generalizing txs with
  | nil => exact h
  | cons x xs ih =>
    obtain ⟨hx, hxs⟩ := List.forall_mem_cons.mp hi
    refine ih ⟨?_, fun e he => ?_⟩ hxs
    · rw [List.length_set, h.1]
    · exact (List.mem_or_eq_of_mem_set he).elim (h.2 e) fun heq => heq ▸ hx

/-! ### The acts -/

theorem State.takeSecond_txs (s : State) : s.takeSecond.base.txs = s.base.txs := by
  unfold State.takeSecond
  split
  · rw [(State.secondEvent_rest s).1]; rfl
  · rfl

theorem State.losePulses_txs (s : State) : s.losePulses.base.txs = s.base.txs := by
  unfold State.losePulses
  split <;> rfl

theorem State.takeEdge_txs (n : Nat) (v : Level) (s : State) : (s.takeEdge n v).base.txs = s.base.txs := by
  rw [State.takeEdge_eq]
  dsimp only
  split <;> exact (State.deliverEdge_txs ..).1

theorem State.edge_txs (n : Nat) (v : Level) (s : State) : (s.edge n v).base.txs = s.base.txs := by
  unfold State.edge
  split
  · rfl
  · exact State.takeEdge_txs ..

theorem State.sample_txs (n : Nat) (v : Level) (s : State) : (s.sample n v).base.txs = s.base.txs := by
  unfold State.sample
  dsimp only
  split
  · rfl
  · split
    · rfl
    · split
      · exact State.takeEdge_txs ..
      · rfl

theorem State.timeDues_txs (s : State) : s.timeDues.base.txs = s.base.txs :=
  State.timeDues_keeps (I := fun u => u.base.txs = s.base.txs) (fun u h => u.takeSecond_txs.trans h)
    (fun u h => u.losePulses_txs.trans h) (fun _ h => h) s rfl

theorem State.loadTexts_txs (items : List TextItem) (s : State) :
    (s.loadTexts items).base.txs = putTexts s.base.txs items := by
  unfold State.loadTexts
  dsimp only
  split <;> rfl

/-- No owner but that of TEXT LOAD writes the texts. -/
theorem owner_txs {q : Request} (hq : ∀ items, q ≠ .textLoad items) (s : State) :
    (Request.owner q s).1.base.txs = s.base.txs := by
  have hg := fun r o h => State.guarded_keeps (I := fun u : State => u.base.txs = s.base.txs) (s := s) (refusal := r) (owner := o)
    rfl h
  cases hw : writesBeside q with
  | false => rw [(owner_beside hw s).base]
  | true =>
    cases q with
    | configureGeneral r =>
      refine hg _ _ fun _ => ?_
      unfold State.applyGeneral
      dsimp only
      split <;> rfl
    | configureLine n r =>
      refine hg _ _ fun _ => ?_
      rw [(State.configureField_rest ..).1]
      rfl
    | configureClockLine n r => exact hg _ _ fun _ => by rw [State.applyClock_base]
    | textLoad items => exact absurd rfl (hq items)
    | timeSet h m sec ms =>
      refine hg _ _ fun _ => ?_
      split
      · rfl
      · unfold State.stepTime
        dsimp only
        split
        · rfl
        · rw [(State.stepBy_rest ..).1]
    | overrideSet on =>
      cases on with
      | none => rfl
      | some v =>
        refine (?_ : (s.force v .forced).base.txs = _)
        rw [(State.force_rest ..).1]
    | status => rfl
    | _ => cases hw

theorem State.frameSent_txs (s : State) : s.frameSent.base.txs = s.base.txs := by
  rcases s.frameSent_rest.1 with h | h <;> rw [h] <;> rfl

/-- R53, R54: every act keeps the entries well-formed. -/
theorem texts_kept : Kept (fun _ => True) fun s => textsInv s.base.txs := by
  have same : ∀ {s t : State}, t.base.txs = s.base.txs → textsInv s.base.txs → textsInv t.base.txs := fun h hs => h ▸ hs
  have reset : textsInv (List.replicate Config.textEntries ⟨[], none⟩) :=
    ⟨List.length_replicate, fun e he => by rw [List.eq_of_mem_replicate he]; simp⟩
  refine Kept.of_beside (fun s t h => same (congrArg Base.txs h.base)) (fun _ _ hs => hs) (fun _ _ _ => reset)
    (fun _ _ _ _ _ _ hs => hs) (fun _ _ _ hs => hs) (fun _ s q _ _ _ hs => ?serve) (fun s => same s.frameSent_txs)
    (fun s => same s.takeSecond_txs) (fun s => same s.losePulses_txs) (fun n v s => same (s.edge_txs n v))
    (fun n v s => same (s.sample_txs n v)) (fun _ _ hs => hs) (fun n s => same (congrArg Base.txs (s.endImpulse_rest n).1))
    (fun _ _ hs => hs) fun s => same (State.timeDues_txs _)
  case serve =>
    by_cases hq : ∃ items, q = .textLoad items
    · obtain ⟨items, rfl⟩ := hq
      refine State.guarded_keeps (I := fun u => textsInv u.base.txs) hs fun hok => ?_
      rw [State.loadTexts_txs]
      exact textsInv_putTexts hs (fits_of_textRefusal hok)
    · exact same (owner_txs (fun items h => hq ⟨items, h⟩) s) hs

/-- No TEXT LOAD waits to be served. -/
def State.noTextLoadWaits (s : State) : Prop :=
  ∀ e ∈ s.work.hlu.inbound, e.progress = .waiting → ∀ items, e.frame ≠ .request (.textLoad items)

theorem ReqHead.frame_ne_textLoad {h : ReqHead} {q : Request} (hq : ∀ items, q ≠ .textLoad items) :
    ∀ items, ReqHead.frame h q ≠ .request (.textLoad items) := by
  intro items hf
  unfold ReqHead.frame at hf
  split at hf
  · cases hf
  · exact hq items (Frame.request.inj hf)

/-- Where no TEXT LOAD waits, every act but a TEXT LOAD, received bytes and power-on leaves the texts. -/
theorem sameTexts_kept (txs : List TextEntry) :
    Kept (fun c => (∀ h items, c ≠ .textLoad h items) ∧ c ≠ .powerOn ∧ ∀ bs, c ≠ .hostFrame bs)
      fun s => s.base.txs = txs ∧ s.noTextLoadWaits := by
  have view : ∀ (s t : State), t.base.txs = s.base.txs →
      (∀ e ∈ t.work.hlu.inbound, e.progress = .waiting → e ∈ s.work.hlu.inbound) →
      s.base.txs = txs ∧ s.noTextLoadWaits → t.base.txs = txs ∧ t.noTextLoadWaits :=
    fun s t ht hw hs => ⟨ht.trans hs.1, fun e he hp => hs.2 e (hw e he hp) hp⟩
  have viewEq : ∀ (s t : State), t.base.txs = s.base.txs → t.work.hlu.inbound = s.work.hlu.inbound →
      s.base.txs = txs ∧ s.noTextLoadWaits → t.base.txs = txs ∧ t.noTextLoadWaits :=
    fun s t ht hw => view s t ht fun e he _ => hw ▸ he
  refine Kept.of_beside (fun s t h => view s t (congrArg Base.txs h.base) h.waiting) (fun _ _ hs => hs)
    (fun hc => absurd rfl hc.2.1) ?arrives (fun bs hc => absurd rfl (hc.2.2 bs)) ?serve
    (fun s => view _ _ s.frameSent_txs fun e he _ => s.frameSent_waiting e he)
    (fun s => viewEq _ _ s.takeSecond_txs s.takeSecond_inbound) (fun s => viewEq _ _ s.losePulses_txs s.losePulses_inbound)
    (fun n v s => viewEq _ _ (s.edge_txs n v) (s.edge_inbound n v))
    (fun n v s => viewEq _ _ (s.sample_txs n v) (s.sample_inbound n v)) (fun _ _ hs => hs)
    (fun n s => view _ _ (congrArg Base.txs (s.endImpulse_rest n).1) (s.endImpulse_waiting n)) (fun _ _ hs => hs)
    (fun s hs => ?millisecond)
  case arrives =>
    intro c h q hc hreq s hs
    refine ⟨hs.1, fun e he hp => ?_⟩
    rcases Work.wellFormed_inbound _ _ _ _ e he with he | he
    · exact hs.2 e he hp
    · rw [he]
      refine ReqHead.frame_ne_textLoad fun items hq => ?_
      cases c <;> cases hreq <;> first | exact hc.1 _ _ rfl | cases hq
  case serve =>
    intro e s q he hf _ hs
    obtain ⟨hmem, hwait⟩ := nextToServe_some _ _ he
    exact viewEq _ _ (owner_txs (fun items hq => hs.2 e hmem hwait items (hq ▸ hf)) s) (owner_inbound q s) hs
  case millisecond =>
    exact State.timeDues_keeps (I := fun s => s.base.txs = txs ∧ s.noTextLoadWaits)
      (fun s => viewEq _ _ s.takeSecond_txs s.takeSecond_inbound) (fun s => viewEq _ _ s.losePulses_txs s.losePulses_inbound)
      (fun s => viewEq _ _ rfl (Hlu.timeOut_inbound _)) _ hs

theorem State.hostBytes_noTextLoad {s : State} {bytes : List Byte}
    (h : ∀ f ∈ completedFrames s.base.elapsed
        (if s.work.hlu.rx.overdue s.base.elapsed = true then .hunt else s.work.hlu.rx) bytes,
      ∀ items, frameOf f.1 f.2 ≠ .request (.textLoad items)) (hs : s.noTextLoadWaits) :
    (s.mapWork (Work.hostBytes s.base bytes)).noTextLoadWaits := by
  intro e he hp items
  have hstart : ∀ w : Work, w = (if s.work.hlu.rx.overdue s.base.elapsed then { s.work with hlu := s.work.hlu.timeOut } else s.work) →
      w.hlu.inbound = s.work.hlu.inbound ∧
        w.hlu.rx = if s.work.hlu.rx.overdue s.base.elapsed = true then .hunt else s.work.hlu.rx := by
    rintro w rfl
    split
    · refine ⟨Hlu.timeOut_inbound _, ?_⟩
      dsimp only
      unfold Hlu.timeOut
      split
      · assumption
      · rfl
    · exact ⟨rfl, rfl⟩
  obtain ⟨hin, hrx⟩ := hstart _ rfl
  rcases hostBytes_inbound _ _ _ e he with he | ⟨f, hf, hfe⟩
  · exact hs e (hin ▸ he) hp items
  · rw [hfe]
    exact h f (hrx ▸ hf) items

/-- Settles O20: a TEXT LOAD is the only request whose owner writes the texts, and only well-formed entries. -/
theorem textsChangeOnlyByTextLoad : Obligations.TextsChangeOnlyByTextLoad := by
  intro s t hstep
  refine ⟨fun hs => texts_kept.step s t (fun _ _ => trivial) hs hstep, fun htext hpower hbytes hwait => ?_⟩
  have hs : s.base.txs = s.base.txs ∧ s.noTextLoadWaits := ⟨rfl, hwait⟩
  have k := sameTexts_kept s.base.txs
  by_cases hb : ∃ bytes, s.pending.head? = some (.hostFrame bytes)
  · obtain ⟨bytes, hb⟩ := hb
    obtain ⟨cs, hcs⟩ := List.head?_eq_some_iff.mp hb
    rw [Machine.step, hcs] at hstep
    have hbytes := State.hostBytes_noTextLoad (s := { s with pending := cs }) (hbytes bytes hb) hwait
    have hserved := k.pump _ (k.serveWaiting
      (State.mapWork (Work.hostBytes s.base bytes) { s with pending := cs }) ⟨rfl, hbytes⟩)
    rw [← Host.Outcome.next.inj hstep]
    exact hserved.1
  · refine (k.step s t (fun c hc => ⟨fun h items hci => ?_, fun hci => ?_, fun bs hci => ?_⟩) hs hstep).1
    · exact htext h items (hci ▸ hc)
    · exact hpower (hci ▸ hc)
    · exact hb ⟨bs, hci ▸ hc⟩

end Sys2Proof.Machine
end

section
/-!
PROOF. Relations that the work of the blocks respects. A relation that is reflexive, transitive and respected by the primitive
acts of the Board Composer and the Cue Controller is respected by every derivation; one that the primitive acts of the Service
Table and the Notice Rule Engine respect as well is respected by every event. What a derivation or an event leaves as it is
follows by one check per primitive act.
-/

namespace Sys2Proof.Machine

/-! ### Rows and offers -/

/-- The acts of offers: they write neither what a row should show nor what is on the wall. -/
structure OfferMoves (R : Work → Work → Prop) : Prop where
  refl : ∀ w, R w w
  trans : ∀ {w v u}, R w v → R v u → R w u
  offer : ∀ b s a c w, R w (w.offer b s a c).1
  cell : ∀ s a f w, (∀ c : Cell, (f c).onWall = c.onWall ∧ (f c).outstanding = c.outstanding ∧ (f c).desired = c.desired) →
    R w (w.setCell s a f)

/-- The acts on rows. -/
structure RowMoves (R : Work → Work → Prop) : Prop where
  refl : ∀ w, R w w
  trans : ∀ {w v u}, R w v → R v u → R w u
  offer : ∀ b s a c w, R w (w.offer b s a c).1
  cell : ∀ s a f w, (∀ c : Cell, (f c).onWall = c.onWall ∧ (f c).outstanding = c.outstanding) → R w (w.setCell s a f)

/-- The acts on rows and boards. -/
structure WallMoves (R : Work → Work → Prop) : Prop extends RowMoves R where
  board : ∀ n f w, (∀ bd, w.board n = some bd → (f bd).record = bd.record) → R w (w.setBoard n f)

/-- A derivation: rows and offers, the confirmation sets, and selection. -/
structure DeriveMoves (R : Work → Work → Prop) : Prop extends WallMoves R where
  conf : ∀ w, R w w.storeConfirmations
  confirm : ∀ key seq on w, R w (w.mapCuc (Cuc.confirmChange key seq on))
  select : ∀ b w, R w (w.select b)

variable {R : Work → Work → Prop}

theorem OfferMoves.foldl (k : OfferMoves R) {α : Type} {f : Work → α → Work} (h : ∀ w a, R w (f w a)) (l : List α) (w : Work) :
    R w (l.foldl f w) := by
  induction l generalizing w with
  | nil => exact k.refl w
  | cons a l ih => exact k.trans (h w a) (ih _)

theorem OfferMoves.ite (k : OfferMoves R) {c : Prop} [Decidable c] {w u : Work} (h : R w u) : R w (if c then u else w) := by
  split
  · exact h
  · exact k.refl w

theorem OfferMoves.offerDesired (k : OfferMoves R) (b : Base) (rec : BoardRec) (r : Nat) (w : Work) :
    R w (w.offerDesired b rec r) := by
  unfold Work.offerDesired
  dsimp only
  split <;> exact k.trans (k.offer ..) (k.cell _ _ _ _ fun _ => ⟨rfl, rfl, rfl⟩)

theorem OfferMoves.offerRow (k : OfferMoves R) (b : Base) (bd : Board) (w : Work) (r : Nat) : R w (w.offerRow b bd r) := by
  have held : R w (w.setCell bd.record.string (bd.record.address r) fun c => { c with heldBack := true }) :=
    k.cell _ _ _ _ fun _ => ⟨rfl, rfl, rfl⟩
  unfold Work.offerRow
  dsimp only
  split
  · split
    · split
      · exact k.offerDesired ..
      · split
        · split
          · exact held
          · exact k.trans held (k.offer ..)
        · exact held
    · exact k.offerDesired ..
  · exact k.refl w

theorem OfferMoves.guardReleases (k : OfferMoves R) (bd : Board) (w : Work) : R w (w.guardReleases bd) := by
  have row : ∀ w r, R w (Work.guardRow bd w r) := by
    intro w r
    unfold Work.guardRow
    dsimp only
    split
    · split
      · refine k.foldl (fun w q => k.cell _ _ _ _ fun c => ?_) _ _
        split <;> exact ⟨rfl, rfl, rfl⟩
      · exact k.refl w
    · exact k.refl w
  exact k.foldl (fun w _ => k.foldl row _ w) _ w

theorem OfferMoves.offerRows (k : OfferMoves R) (b : Base) (n : Nat) (w : Work) : R w (w.offerRows b n) := by
  unfold Work.offerRows
  split
  · exact k.trans (k.guardReleases ..) (k.foldl (k.offerRow b _) _ _)
  · exact k.refl w

theorem OfferMoves.offersOn (k : OfferMoves R) (b : Base) (s : Nat) (w : Work) : R w (w.offersOn b s) :=
  k.foldl (fun w n => k.ite (k.offerRows b n w)) _ w

theorem OfferMoves.releaseRow (k : OfferMoves R) (bd : Board) (expired returning : Bool) (w : Work) (r : Nat) :
    R w (Work.releaseRow bd expired returning w r) :=
  k.cell _ _ _ _ fun c => by split <;> [skip; split] <;> exact ⟨rfl, rfl, rfl⟩

theorem RowMoves.offers (k : RowMoves R) : OfferMoves R where
  refl := k.refl
  trans := k.trans
  offer := k.offer
  cell s a f w h := k.cell s a f w fun c => ⟨(h c).1, (h c).2.1⟩

theorem RowMoves.foldl (k : RowMoves R) {α : Type} {f : Work → α → Work} (h : ∀ w a, R w (f w a)) (l : List α) (w : Work) :
    R w (l.foldl f w) := k.offers.foldl h l w

theorem RowMoves.ite (k : RowMoves R) {c : Prop} [Decidable c] {w u : Work} (h : R w u) : R w (if c then u else w) := k.offers.ite h

theorem RowMoves.offerRow (k : RowMoves R) (b : Base) (bd : Board) (w : Work) (r : Nat) : R w (w.offerRow b bd r) :=
  k.offers.offerRow b bd w r

theorem RowMoves.guardReleases (k : RowMoves R) (bd : Board) (w : Work) : R w (w.guardReleases bd) := k.offers.guardReleases bd w

theorem RowMoves.offerRows (k : RowMoves R) (b : Base) (n : Nat) (w : Work) : R w (w.offerRows b n) := k.offers.offerRows b n w

theorem RowMoves.offersOn (k : RowMoves R) (b : Base) (s : Nat) (w : Work) : R w (w.offersOn b s) := k.offers.offersOn b s w

theorem RowMoves.offerDesired (k : RowMoves R) (b : Base) (rec : BoardRec) (r : Nat) (w : Work) :
    R w (w.offerDesired b rec r) := k.offers.offerDesired b rec r w

theorem RowMoves.deriveRow (k : RowMoves R) (b : Base) (bd : Board) (only : Option (List Nat)) (w : Work) (r : Nat) :
    R w (Work.deriveRow b bd only w r) := by
  unfold Work.deriveRow
  exact k.ite (k.cell _ _ _ _ fun _ => ⟨rfl, rfl⟩)

theorem RowMoves.releaseRow (k : RowMoves R) (bd : Board) (expired returning : Bool) (w : Work) (r : Nat) :
    R w (Work.releaseRow bd expired returning w r) := k.offers.releaseRow bd expired returning w r

theorem WallMoves.deriveBoard (k : WallMoves R) (b : Base) (only : Option (List Nat)) (expired : Bool) (n : Nat) (w : Work) :
    R w (w.deriveBoard b only expired n) := by
  unfold Work.deriveBoard
  split
  · next bd hbd =>
    have store : R w (w.setBoard n fun _ => if only.isNone = true then bd.refresh b w n else bd) :=
      k.board _ _ _ fun bd' h => by
        cases hbd.symm.trans h
        split <;> rfl
    exact k.trans (k.trans (k.trans store (k.foldl (k.deriveRow b _ only) _ _)) (k.foldl (k.releaseRow _ expired _) _ _))
      (k.offerRows ..)
  · exact k.refl w

/-! ### Derivations -/

theorem DeriveMoves.confirmChanges (k : DeriveMoves R) (b : Base) (evs : List (Key × BitVec 32 × Bool)) (w : Work) :
    R w (w.confirmChanges b evs) := by
  unfold Work.confirmChanges
  split
  · exact k.refl w
  · exact k.trans (k.foldl (fun w _ => k.confirm _ _ _ w) _ _) (k.select ..)

theorem DeriveMoves.refreshConfirmations (k : DeriveMoves R) (b : Base) (extra : List (Key × BitVec 32 × Bool)) (w : Work) :
    R w (w.refreshConfirmations b extra) := k.trans (k.conf w) (k.confirmChanges ..)

theorem DeriveMoves.deriveWith (k : DeriveMoves R) (b : Base) (only : Option (List Nat)) (expired : List Nat)
    (extra : List (Key × BitVec 32 × Bool)) (p : Nat → Bool) (w : Work) : R w (w.deriveWith b only expired extra p) :=
  k.trans (k.foldl (fun w n => k.ite (k.deriveBoard b only _ n w)) _ w) (k.refreshConfirmations ..)

theorem DeriveMoves.derive (k : DeriveMoves R) (b : Base) (p : Nat → Bool) (w : Work) : R w (w.derive b p) := k.deriveWith ..

theorem DeriveMoves.deriveAll (k : DeriveMoves R) (b : Base) (w : Work) : R w (w.deriveAll b) := k.derive ..

theorem DeriveMoves.textChange (k : DeriveMoves R) (b : Base) (changed : List Nat) (w : Work) : R w (w.textChange b changed) :=
  k.deriveWith ..

theorem DeriveMoves.tell (k : DeriveMoves R) (b : Base) (told : Told) (w : Work) : R w (w.tell b told) := by
  unfold Work.tell
  split
  · exact k.refl w
  · exact k.derive ..

theorem DeriveMoves.expirePage (k : DeriveMoves R) (b : Base) (n : Nat) (w : Work) : R w (w.expirePage b n) := by
  have turned : R w (w.setBoard n Board.turnPage) := k.board n _ w fun _ _ => rfl
  unfold Work.expirePage
  exact k.ite (k.trans turned (k.deriveWith ..))

theorem DeriveMoves.answerCompletion (k : DeriveMoves R) (b : Base) (s a : Nat) (w : Work) : R w (w.answerCompletion b s a) := by
  have clean : R w (w.setCell s a fun c => if c.dirty then c else { c with released := false, heldBack := false }) :=
    k.cell _ _ _ _ fun c => by split <;> exact ⟨rfl, rfl⟩
  exact k.ite (k.trans (k.trans clean (k.offersOn ..)) (k.refreshConfirmations ..))

/-- The page timers of a second event, and the derivation after them (R86). -/
theorem DeriveMoves.countPages (k : DeriveMoves R) (b : Base) (ends : List Nat) (w : Work) :
    R w (((List.range 16).foldl (Work.countPage ends) w).deriveWith b none ends [] fun _ => true) := by
  have count : ∀ w n, R w (Work.countPage ends w n) := fun w n => by
    unfold Work.countPage
    exact k.ite (k.board _ _ _ fun bd _ => by split <;> rfl)
  exact k.trans (k.foldl count (List.range 16) w) (k.deriveWith b none ends [] (fun _ => true) _)

/-! ### Edges and removals -/

/-- The acts of an evaluation's edges (R112, R113) and of a removal (R33): the rule table stays as it is, and a request that they
make is a rule's. -/
structure EdgeMoves (R : Work → Work → Prop) : Prop extends DeriveMoves R where
  table : ∀ v w, R w { w with svt := v }
  notices : ∀ n w, n.rules = w.nre.rules → R w { w with nre := n }
  unlist : ∀ key w, R w (Work.unlist key w)
  raise : ∀ r w, R w (w.raise r)
  request : ∀ b h c key w, (∃ r, w.nre.rule h = some r ∧ r.cue = some c) → R w (w.enqueue b c (some key) (.rule h)).1
  ended : ∀ b h c key w, (∃ r, w.nre.rule h = some r ∧ r.cue = some c) → R w (w.withdraw b (CueEntry.hasKey c (some key)))
  removed : ∀ b key w, R w (w.withdraw b fun e => e.key == some key)

theorem EdgeMoves.startWatch (k : EdgeMoves R) (h : Nat) (key : Key) (wt : Watch) (w : Work) : R w (w.startWatch h key wt) := by
  unfold Work.startWatch
  split
  · exact k.notices _ w rfl
  · exact k.raise _ w

theorem Work.startWatch_rule (h : Nat) (key : Key) (wt : Watch) (w : Work) (i : Nat) :
    (w.startWatch h key wt).nre.rule i = w.nre.rule i := by
  unfold Work.startWatch
  split <;> rfl

theorem EdgeMoves.riseEdge (k : EdgeMoves R) (b : Base) (loud : Bool) (key : Key) (w : Work) (h : Nat) :
    R w (w.riseEdge b loud key h) := by
  unfold Work.riseEdge
  split
  · exact k.refl w
  · next r hr =>
    dsimp only
    obtain ⟨v, hv⟩ : ∃ v, v = w.updateService key fun x => { x with held := insertNat h x.held } := ⟨_, rfl⟩
    have held : R w v := hv ▸ k.table _ w
    have hrule : v.nre.rule h = some r := by rw [hv]; exact hr
    rw [← hv]
    have watched : ∀ u : Work, u.nre.rule h = some r → R w u →
        R w (if loud && r.report then
          (if loud then (match r.cue with | some c => (u.enqueue b c (some key) (.rule h)).1 | none => u) else u).raise
            (.ruleHolds h r.priority key b.tbs.t)
          else if loud then (match r.cue with | some c => (u.enqueue b c (some key) (.rule h)).1 | none => u) else u) := by
      intro u hu hw
      have asked : R w (if loud then (match r.cue with | some c => (u.enqueue b c (some key) (.rule h)).1 | none => u) else u) := by
        split
        · split
          · next c hc => exact k.trans hw (k.request b h c key u ⟨r, hu, hc⟩)
          · exact hw
        · exact hw
      split
      · exact k.trans asked (k.raise ..)
      · exact asked
    cases r.watch with
    | some wt =>
      exact watched (v.startWatch h key wt) ((Work.startWatch_rule ..).trans hrule) (k.trans held (k.startWatch h key wt v))
    | none => exact watched v hrule held

theorem EdgeMoves.releaseHead (k : EdgeMoves R) (b : Base) (key : Key) (h : Nat) (w : Work) : R w (w.releaseHead b key h) := by
  have freed : R w (w.mapNre (Nre.freeSlots fun s => s.head == h && s.key == key)) := k.notices _ w rfl
  unfold Work.releaseHead
  dsimp only
  split
  · next c hc =>
    obtain ⟨r, hr, hcue⟩ := Option.bind_eq_some_iff.mp hc
    exact k.trans freed (k.ended b h c key _ ⟨r, hr, hcue⟩)
  · exact freed

theorem EdgeMoves.fallEdge (k : EdgeMoves R) (b : Base) (key : Key) (w : Work) (h : Nat) : R w (w.fallEdge b key h) :=
  k.trans (k.table _ w) (k.releaseHead ..)

theorem EdgeMoves.evaluate (k : EdgeMoves R) (b : Base) (group : Rule → Bool) (loud : Bool) (a c : Int) (key : Key) (w : Work) :
    R w (w.evaluate b group loud a c key) := by
  unfold Work.evaluate
  split
  · exact k.refl w
  · exact k.trans (k.foldl (k.fallEdge b key) _ _) (k.foldl (k.riseEdge b loud key) _ _)

theorem EdgeMoves.freeRecord (k : EdgeMoves R) (b : Base) (w : Work) (key : Key) : R w (w.freeRecord b key) := by
  have freed : ∀ v, R v (v.mapNre (Nre.freeSlots fun s => s.key == key)) := fun v => k.notices _ v rfl
  have released : ∀ (hs : List Nat) v, R v (hs.foldl (fun w h => w.releaseHead b key h) v) := fun hs v =>
    k.foldl (fun w h => k.releaseHead b key h w) hs v
  have gone : ∀ (hs : List Nat) v, R v (((hs.foldl (fun w h => w.releaseHead b key h) v).mapNre
      (Nre.freeSlots fun s => s.key == key)).withdraw b (fun e => e.key == some key) |>.unlist key) := fun hs v =>
    k.trans (k.trans (k.trans (released hs v) (freed _)) (k.removed b key _)) (k.unlist key _)
  unfold Work.freeRecord
  split
  · exact k.refl w
  · exact k.trans (k.trans (k.table _ w) (gone _ _)) (k.deriveWith ..)

/-! ### Events -/

/-- What a change of records leaves to the watch slots: keys and held sets, in the order of the records. -/
def Svt.heldView (v : Svt) : List (Key × List Nat) := v.services.map fun x => (x.key, x.held)

/-- Slots that are those of `old`, each freed or with another mode. -/
def SlotsFrom (old new : List (Option Slot)) : Prop :=
  new.length = old.length ∧ ∀ (i : Nat) (x : Slot), new[i]? = some (some x) →
    ∃ y, old[i]? = some (some y) ∧ y.head = x.head ∧ y.key = x.key

/-- The acts of an event at the Service Table and the Notice Rule Engine: what it writes to the records leaves keys and held
sets, and what it writes to the slots binds none, but for evaluations and removals. -/
structure EventMoves (R : Work → Work → Prop) : Prop extends DeriveMoves R where
  records : ∀ v w, ((w.svt.services.map Service.key).Nodup → v.heldView = w.svt.heldView) → R w { w with svt := v }
  slots : ∀ n w, n.rules = w.nre.rules → SlotsFrom w.nre.slots n.slots → R w { w with nre := n }
  raise : ∀ r w, R w (w.raise r)
  evaluate : ∀ b group loud a c key w, R w (w.evaluate b group loud a c key)
  freeRecord : ∀ b w key, R w (Work.freeRecord b w key)

theorem EdgeMoves.events (k : EdgeMoves R) : EventMoves R :=
  { k with
    records := fun v w _ => k.table v w
    slots := fun n w h _ => k.notices n w h
    evaluate := k.evaluate
    freeRecord := k.freeRecord }

theorem slotsFrom_refl (l : List (Option Slot)) : SlotsFrom l l := ⟨rfl, fun _ x h => ⟨x, h, rfl, rfl⟩⟩

theorem slotsFrom_trans {l m n : List (Option Slot)} (h : SlotsFrom l m) (k : SlotsFrom m n) : SlotsFrom l n := by
  refine ⟨k.1.trans h.1, fun i x hx => ?_⟩
  obtain ⟨y, hy, hyh, hyk⟩ := k.2 i x hx
  obtain ⟨z, hz, hzh, hzk⟩ := h.2 i y hy
  exact ⟨z, hz, hzh.trans hyh, hzk.trans hyk⟩

theorem slotsFrom_map {f : Slot → Slot} (hf : ∀ x, (f x).head = x.head ∧ (f x).key = x.key) (l : List (Option Slot)) :
    SlotsFrom l (l.map (Option.map f)) := by
  refine ⟨List.length_map .., fun i x hx => ?_⟩
  rw [List.getElem?_map] at hx
  obtain ⟨o, ho, hox⟩ := Option.map_eq_some_iff.mp hx
  obtain ⟨y, rfl, rfl⟩ := Option.map_eq_some_iff.mp hox
  exact ⟨y, ho, (hf y).1.symm, (hf y).2.symm⟩

theorem slotsFrom_free (p : Slot → Bool) (l : List (Option Slot)) :
    SlotsFrom l (l.map fun s => match s with | some x => if p x then none else some x | none => none) := by
  refine ⟨List.length_map .., fun i x hx => ?_⟩
  rw [List.getElem?_map] at hx
  obtain ⟨o, ho, hox⟩ := Option.map_eq_some_iff.mp hx
  split at hox
  · next y =>
    split at hox
    · cases hox
    · cases hox
      exact ⟨x, ho, rfl, rfl⟩
  · cases hox

theorem slotsFrom_set_none (i : Nat) (l : List (Option Slot)) : SlotsFrom l (l.set i none) := by
  refine ⟨List.length_set, fun j x hx => ?_⟩
  rw [List.getElem?_set] at hx
  split at hx
  · split at hx <;> cases hx
  · exact ⟨x, hx, rfl, rfl⟩

theorem slotsFrom_set_mode {i : Nat} {l : List (Option Slot)} {x y : Slot} (hx : l.getD i none = some x) (hh : y.head = x.head)
    (hk : y.key = x.key) : SlotsFrom l (l.set i (some y)) := by
  refine ⟨List.length_set, fun j z hz => ?_⟩
  rw [List.getElem?_set] at hz
  split at hz
  · next hij =>
    subst hij
    split at hz
    · cases hz
      refine ⟨x, ?_, hh.symm, hk.symm⟩
      rw [List.getD_eq_getElem?_getD] at hx
      next hlt => rw [List.getElem?_eq_getElem hlt] at hx ⊢; exact congrArg some hx
    · cases hz
  · exact ⟨z, hz, rfl, rfl⟩

/-- A change of one record that leaves its key and its held set. -/
theorem Svt.heldView_update {key : Key} {f : Service → Service} {v : Svt}
    (hf : ∀ x ∈ v.services, x.key = key → (f x).key = x.key ∧ (f x).held = x.held) : (v.update key f).heldView = v.heldView := by
  unfold Svt.heldView Svt.update
  rw [List.map_map]
  refine List.map_congr_left fun x hx => ?_
  simp only [Function.comp]
  split
  · next hk =>
    obtain ⟨hkey, hheld⟩ := hf x hx (beq_iff_eq.mp hk)
    rw [hkey, hheld]
  · rfl

theorem Svt.heldView_map {f : Service → Service} {v : Svt} (hf : ∀ x, (f x).key = x.key ∧ (f x).held = x.held) :
    ({ v with services := v.services.map f } : Svt).heldView = v.heldView := by
  unfold Svt.heldView
  rw [List.map_map]
  exact List.map_congr_left fun x _ => by simp only [Function.comp, (hf x).1, (hf x).2]

theorem Svt.find_mem {v : Svt} {key : Key} {x : Service} (h : v.find key = some x) : x ∈ v.services ∧ x.key = key :=
  ⟨List.mem_of_find?_eq_some h, by simpa using List.find?_some h⟩

/-- With distinct keys the record that is found is the only one of its key. -/
theorem Svt.eq_of_find {v : Svt} (hv : (v.services.map Service.key).Nodup) {key : Key} {x y : Service} (h : v.find key = some x)
    (hy : y ∈ v.services) (hk : y.key = key) : y = x := by
  obtain ⟨hx, hxk⟩ := Svt.find_mem h
  exact List.inj_on_of_nodup_map hv hy hx (hk.trans hxk.symm)

theorem EventMoves.updateService (k : EventMoves R) (key : Key) {f : Service → Service}
    (hf : ∀ x, (f x).key = x.key ∧ (f x).held = x.held) (w : Work) : R w (w.updateService key f) :=
  k.records _ w fun _ => Svt.heldView_update fun x _ _ => hf x

/-- The found record replaced by one with its key and held set. -/
theorem EventMoves.replaceService (k : EventMoves R) {key : Key} {x y : Service} {w : Work} (hx : w.svt.find key = some x)
    (hy : y.key = x.key ∧ y.held = x.held) : R w (w.updateService key fun _ => y) :=
  k.records _ w fun hnodup => Svt.heldView_update fun z hz hzk => by
    rw [Svt.eq_of_find hnodup hx hz hzk]
    exact hy

theorem EventMoves.mapServices (k : EventMoves R) {f : Service → Service} (hf : ∀ x, (f x).key = x.key ∧ (f x).held = x.held)
    (w : Work) : R w { w with svt := { w.svt with services := w.svt.services.map f } } :=
  k.records _ w fun _ => Svt.heldView_map hf

theorem EventMoves.mapSlots (k : EventMoves R) {f : Slot → Slot} (hf : ∀ x, (f x).head = x.head ∧ (f x).key = x.key)
    (w : Work) : R w (w.mapNre (Nre.mapSlots f)) :=
  k.slots _ w rfl (slotsFrom_map hf _)

theorem EventMoves.evaluateTell (k : EventMoves R) (b : Base) (group : Rule → Bool) (loud : Bool) (a c : Int) (w : Work)
    (key : Key) : R w (w.evaluateTell b group loud a c key) := k.trans (k.evaluate ..) (k.tell ..)

theorem EventMoves.boardChange (k : EventMoves R) (b : Base) (key : Key) (p : Bool) (w : Work) : R w (w.boardChange b key p) := by
  have flash : ∀ v, R w v → R w (if presentationOf b = .normal then
      v.derive b fun n => v.lists key n ||
        (match v.board n, v.svt.find key with
          | some bd, some x => isEligible v.svt b.tbs.t bd.record x
          | _, _ => false) else v) := fun v hv => k.trans hv (k.ite (k.derive ..))
  exact flash _ (k.ite (k.updateService key (f := fun x => { x with flash := w.bcp.flashTime }) (fun _ => ⟨rfl, rfl⟩) w))

theorem EventMoves.flagChange (k : EventMoves R) (b : Base) (key : Key) (w : Work) : R w (w.flagChange b key) :=
  k.trans (k.boardChange ..) (k.evaluateTell ..)

theorem EventMoves.expireSlot (k : EventMoves R) (b : Base) (i : Nat) (w : Work) : R w (w.expireSlot b i) := by
  unfold Work.expireSlot
  split
  · next h key period _ _ _ =>
    dsimp only
    have done : ∀ v, R w v → R w ((v.raise (.watchExpired h key period)).mapNre fun n => { n with slots := n.slots.set i none }) :=
      fun v hv => k.trans hv (k.trans (k.raise _ v) (k.slots _ (v.raise _) rfl (slotsFrom_set_none ..)))
    have marked := done _ (k.updateService key (f := fun x => { x with stale := true }) (fun _ => ⟨rfl, rfl⟩) w)
    split
    · exact k.trans marked (k.flagChange ..)
    · exact marked
  · exact k.refl w

theorem EventMoves.reachSlot (k : EventMoves R) (b : Base) (i : Nat) (w : Work) : R w (w.reachSlot b i) := by
  unfold Work.reachSlot
  split
  · next h key th n f hslot =>
    dsimp only
    have done : ∀ v, v.nre = w.nre → R w v → R w ((v.raise (.watchCount h key th)).mapNre fun n =>
        { n with slots := n.slots.set i (some ⟨h, key, .count th 0, f⟩) }) := fun v hn hv =>
      k.trans hv (k.trans (k.raise _ v) (k.slots _ (v.raise _) rfl
        (slotsFrom_set_mode (x := ⟨h, key, .count th n, f⟩) (l := v.nre.slots)
          ((congrArg (fun n : Nre => n.slots.getD i none) hn).trans hslot) rfl rfl)))
    have marked := done (w.updateService key fun x => { x with unsettled := true }) rfl
      (k.updateService key (f := fun x => { x with unsettled := true }) (fun _ => ⟨rfl, rfl⟩) w)
    split
    · exact k.trans marked (k.flagChange ..)
    · exact marked
  · exact k.refl w

theorem restartSlot_same (x : Slot) : (restartSlot x).head = x.head ∧ (restartSlot x).key = x.key := by
  unfold restartSlot
  split <;> exact ⟨rfl, rfl⟩

theorem advanceSlot_same (x : Slot) : (advanceSlot x).head = x.head ∧ (advanceSlot x).key = x.key := by
  unfold advanceSlot
  split <;> exact ⟨rfl, rfl⟩

theorem lowerSlot_same (x : Slot) : (lowerSlot x).head = x.head ∧ (lowerSlot x).key = x.key := by
  unfold lowerSlot
  split <;> exact ⟨rfl, rfl⟩

theorem EventMoves.mapSlotsOf (k : EventMoves R) (key : Key) {f : Slot → Slot}
    (hf : ∀ x, (f x).head = x.head ∧ (f x).key = x.key) (w : Work) : R w (w.mapSlotsOf key f) :=
  k.mapSlots (f := fun s => if s.key == key then f s else s) (fun x => by
    split
    · exact hf x
    · exact ⟨rfl, rfl⟩) w

theorem EventMoves.applyMarks (k : EventMoves R) (b : Base) (key : Key) (ms : List Mark) (w : Work) : R w (w.applyMarks b key ms) := by
  have advanced : ∀ v, R w v → R w (if ms.contains .platformChange then
      (List.range Config.slotCount).foldl (fun w i =>
        if slotReached (w.nre.slots.getD i none) then w.reachSlot b i else w) (v.mapSlotsOf key advanceSlot)
      else v) := fun v hv =>
    k.trans hv (k.ite (k.trans (k.mapSlotsOf key advanceSlot_same v) (k.foldl (fun w i => k.ite (k.reachSlot b i w)) _ _)))
  exact advanced _ (k.ite (k.mapSlotsOf key restartSlot_same w))

theorem EventMoves.recordChange (k : EventMoves R) (b : Base) (key : Key) (ms : List Mark) (w : Work) :
    R w (w.recordChange b key ms) := k.trans (k.trans (k.boardChange ..) (k.evaluateTell ..)) (k.applyMarks ..)

theorem EventMoves.ruleTime (k : EventMoves R) (t : Int) (w : Work) : R w (w.mapNre fun n => { n with ruleTime := t }) :=
  k.slots _ w rfl (slotsFrom_refl _)

theorem EventMoves.noticeSecond (k : EventMoves R) (b : Base) (w : Work) : R w (w.noticeSecond b) := by
  have timed : ∀ w, R w (w.evaluateTimed b) := fun w => k.foldl (fun w _ => k.evaluateTell ..) _ w
  have counted : R w (w.mapNre fun n => ({ n with ruleTime := b.tbs.tHigh } : Nre).mapSlots fun s => { s with fresh := false }) :=
    k.slots _ w rfl (slotsFrom_map (f := fun s => { s with fresh := false }) (fun _ => ⟨rfl, rfl⟩) _)
  exact k.trans (k.trans (k.trans counted (timed _)) (k.mapSlots lowerSlot_same _))
    (k.foldl (fun w i => k.ite (k.expireSlot b i w)) _ _)

theorem EventMoves.noticeStep (k : EventMoves R) (b : Base) (w : Work) : R w (w.noticeStep b) :=
  k.trans (k.foldl (k.evaluateTell b _ _ _ _) _ _) (k.ruleTime ..)

theorem Service.changePlatform_same (p : Designator) (t : Int) (x : Service) :
    (x.changePlatform p t).1.key = x.key ∧ (x.changePlatform p t).1.held = x.held := by
  unfold Service.changePlatform
  split <;> exact ⟨rfl, rfl⟩

theorem EventMoves.applyStagedAll (k : EventMoves R) (b : Base) (w : Work) : R w (w.applyStagedAll b) := by
  refine k.foldl (fun w key => ?_) _ w
  unfold Work.applyStaged
  split
  · next hx =>
    split
    · exact k.ite (k.trans (k.replaceService hx (Service.changePlatform_same ..)) (k.recordChange ..))
    · exact k.refl w
  · exact k.refl w

theorem EventMoves.endTimer (k : EventMoves R) (b : Base) (w : Work) (key : Key) : R w (w.endTimer b key) :=
  by
  unfold Work.endTimer
  exact k.trans (k.updateService key (f := fun x => { x with timer := none, status := .departed }) (fun _ => ⟨rfl, rfl⟩) w)
    (k.recordChange ..)

theorem EventMoves.serviceSecond (k : EventMoves R) (b : Base) (w : Work) : R w (w.serviceSecond b) :=
  k.trans (k.applyStagedAll b w) (k.trans (k.mapServices (f := Service.countTimer) (fun _ => ⟨rfl, rfl⟩) _)
    (k.foldl (fun w key => k.ite (k.endTimer b w key)) _ _))

theorem EventMoves.age (k : EventMoves R) (b : Base) (w : Work) : R w (w.age b) := k.foldl (k.freeRecord b) _ w

theorem EventMoves.serviceStep (k : EventMoves R) (b : Base) (w : Work) : R w (w.serviceStep b) :=
  k.trans (k.applyStagedAll b w) (k.age b _)

theorem EventMoves.serviceChangeover (k : EventMoves R) (b : Base) (w : Work) : R w (w.serviceChangeover b) :=
  k.trans (k.mapServices (f := Service.rebased) (fun _ => ⟨rfl, rfl⟩) w) (k.foldl (fun _ _ => k.recordChange ..) _ _)

theorem EventMoves.boardSecond (k : EventMoves R) (b : Base) (w : Work) : R w (w.boardSecond b) := by
  have lowered : R w w.lowerFlashes := k.mapServices (f := fun x => { x with flash := x.flash - 1 }) (fun _ => ⟨rfl, rfl⟩) w
  unfold Work.boardSecond
  exact k.trans lowered (k.countPages ..)

theorem EventMoves.endFlash (k : EventMoves R) (b : Base) (key : Key) (w : Work) : R w (w.endFlash b key) := by
  unfold Work.endFlash
  split
  · exact k.ite (k.trans (k.updateService key (f := fun x => { x with flash := 0 }) (fun _ => ⟨rfl, rfl⟩) w) (k.derive ..))
  · exact k.refl w

theorem EventMoves.dispatch (k : EventMoves R) (b : Base) (line p : Nat) (w : Work) : R w (w.dispatch b line p).1 := by
  unfold Work.dispatch
  split
  · exact k.trans (k.trans (k.updateService _ (f := fun y =>
      { y with actual := some b.tbs.t, status := .departing, timer := some w.svt.departing }) (fun _ => ⟨rfl, rfl⟩) w)
      (k.recordChange ..)) (k.raise ..)
  · exact k.raise ..

theorem Service.putUpdateAll_same (c0 : Nat) (t : Int) (r : PutReq) (x : Service) :
    (x.putUpdateAll c0 t r).1.key = x.key ∧ (x.putUpdateAll c0 t r).1.held = x.held := by
  have platform : ∀ y : Service, (y.putPlatform c0 t r).1.key = y.key ∧ (y.putPlatform c0 t r).1.held = y.held := by
    intro y
    unfold Service.putPlatform Service.withdrawPlatform
    split
    · split
      · split
        · exact ⟨rfl, rfl⟩
        · exact Service.changePlatform_same ..
      · exact Service.changePlatform_same ..
    · split <;> exact ⟨rfl, rfl⟩
    · exact ⟨rfl, rfl⟩
  have status : ∀ y : Service, (y.putCarriedStatus r).1.key = y.key ∧ (y.putCarriedStatus r).1.held = y.held := by
    intro y
    unfold Service.putCarriedStatus Service.putStatus
    split
    · split <;> exact ⟨rfl, rfl⟩
    · exact ⟨rfl, rfl⟩
  exact ⟨(status _).1.trans (platform (x.putFields c0 r)).1, (status _).2.trans (platform (x.putFields c0 r)).2⟩

theorem EventMoves.updateByPut (k : EventMoves R) (b : Base) (r : PutReq) {x : Service} {w : Work}
    (hx : w.svt.find r.key = some x) : R w (w.updateByPut b r x) :=
  k.trans (k.replaceService hx (Service.putUpdateAll_same ..)) (k.recordChange ..)

end Sys2Proof.Machine
end

section
/-!
PROOF. The queues through every step (R94, R97, R133, R177, R179, R182): each act keeps their bounds, the order of the cue queue,
and one frame for each address in a string's queue.
-/

namespace Sys2Proof.Machine

/-! ### Ordered lists -/

theorem insertBy_perm {α : Type} (before : α → α → Bool) (a : α) (l : List α) : (insertBy before a l).Perm (a :: l) := by
  induction l with
  | nil => exact .refl _
  | cons x xs ih =>
    unfold insertBy
    split
    · exact .refl _
    · exact (ih.cons x).trans (.swap ..)

theorem sortBy_perm {α : Type} (before : α → α → Bool) (l : List α) : (sortBy before l).Perm l := by
  induction l with
  | nil => exact .refl _
  | cons x xs ih => exact (insertBy_perm ..).trans (ih.cons x)

/-! ### The cue queue (R133) -/

/-- R133: at most 32 entries, in queue order. -/
def Cuc.Bounded (c : Cuc) : Prop := c.queue.length ≤ Config.maxCues ∧ c.queue.Pairwise cueOrder

/-- A change of an entry that leaves its place in the order. -/
def KeepsPlace (f : CueEntry → CueEntry) : Prop := ∀ e, (f e).priority = e.priority ∧ (f e).seq = e.seq

theorem cueOrder_congr {x y x' y' : CueEntry} (hx : x'.priority = x.priority ∧ x'.seq = x.seq)
    (hy : y'.priority = y.priority ∧ y'.seq = y.seq) (h : cueOrder x y) : cueOrder x' y' := by
  unfold cueOrder at *
  rw [hx.1, hx.2, hy.1, hy.2]
  exact h

theorem Cuc.bounded_map {f : CueEntry → CueEntry} (hf : KeepsPlace f) {c d : Cuc} (hd : d.queue = c.queue.map f)
    (h : c.Bounded) : d.Bounded := by
  unfold Cuc.Bounded
  rw [hd]
  exact ⟨by rw [List.length_map]; exact h.1,
    List.pairwise_map.mpr (h.2.imp fun {x y} => cueOrder_congr (hf x) (hf y))⟩

theorem Cuc.bounded_filter {p : CueEntry → Bool} {c d : Cuc} (hd : d.queue = c.queue.filter p) (h : c.Bounded) : d.Bounded := by
  unfold Cuc.Bounded
  rw [hd]
  exact ⟨(List.length_filter_le ..).trans h.1, h.2.filter p⟩

theorem Cuc.bounded_same {c d : Cuc} (hd : d.queue = c.queue) (h : c.Bounded) : d.Bounded := by
  unfold Cuc.Bounded
  rw [hd]
  exact h

theorem keepsPlace_ite {p : CueEntry → Prop} [DecidablePred p] {f g : CueEntry → CueEntry} (hf : KeepsPlace f)
    (hg : KeepsPlace g) : KeepsPlace fun e => if p e then f e else g e := fun e => by
  dsimp only
  split
  · exact hf e
  · exact hg e

theorem keepsPlace_id : KeepsPlace id := fun _ => ⟨rfl, rfl⟩

theorem CueEntry.order_of_before {x y : CueEntry} (h : x.before y = true) : cueOrder x y := by
  simp only [CueEntry.before, Bool.or_eq_true, Bool.and_eq_true, decide_eq_true_eq, beq_iff_eq] at h
  unfold cueOrder
  omega

theorem CueEntry.order_of_not_before {x y : CueEntry} (h : ¬ x.before y = true) : cueOrder y x := by
  simp only [CueEntry.before, Bool.or_eq_true, Bool.and_eq_true, decide_eq_true_eq, beq_iff_eq] at h
  unfold cueOrder
  omega

theorem cueOrder_trans {x y z : CueEntry} (h : cueOrder x y) (k : cueOrder y z) : cueOrder x z := by
  unfold cueOrder at *
  omega

/-! ### Strings (R92, R94) -/

theorem WallString.inv_start {e : Nat} {s : WallString} (h : s.Inv) : (s.start e).Inv := by
  unfold WallString.start
  split
  · split
    · exact h
    · next f q hq =>
      obtain ⟨hlen, hnodup, -⟩ := h
      rw [hq] at hlen hnodup
      exact ⟨Nat.le_of_succ_le hlen, (List.nodup_cons.mp hnodup).2, by simp⟩
  · exact h

theorem replaceFrame_addresses (a : Nat) (c : RowContent) (q : List WallFrame) :
    (replaceFrame a c q).map WallFrame.address = q.map WallFrame.address := by
  rw [replaceFrame, List.map_map]
  refine List.map_congr_left fun f _ => ?_
  simp only [Function.comp]
  split
  · next h => exact (beq_iff_eq.mp h).symm
  · rfl

theorem WallString.inv_offer {e a : Nat} {c : RowContent} {s : WallString} (h : s.Inv) : (s.offer e a c).1.Inv := by
  obtain ⟨hlen, hnodup, hline⟩ := h
  unfold WallString.offer
  split
  · exact ⟨hlen, hnodup, hline⟩
  · split
    · refine WallString.inv_start ⟨?_, ?_, hline⟩
      · rw [replaceFrame, List.length_map]
        exact hlen
      · rw [replaceFrame_addresses]
        exact hnodup
    · next hany =>
      split
      · next hroom =>
        refine WallString.inv_start ⟨?_, ?_, hline⟩
        · rw [List.length_append]
          exact hroom
        · rw [List.map_append, List.nodup_append]
          refine ⟨hnodup, List.nodup_singleton _, fun x hx y hy hxy => hany ?_⟩
          obtain ⟨f, hf, rfl⟩ := List.mem_map.mp hx
          rw [List.map_singleton, List.mem_singleton] at hy
          exact List.any_eq_true.mpr ⟨f, hf, beq_iff_eq.mpr (hxy.trans hy)⟩
      · exact WallString.inv_start ⟨hlen, hnodup, hline⟩

theorem WallString.inv_frameSent {e : Nat} {s : WallString} (h : s.Inv) : (s.frameSent e).Inv := by
  unfold WallString.frameSent
  split
  · next hs =>
    obtain ⟨hlen, hnodup, hline⟩ := h
    rw [hs] at hline
    exact ⟨hlen, hnodup, by simpa using hline⟩
  · exact h

theorem WallString.inv_finishFrame {r : FrameResult} {f : WallFrame} {s : WallString} (h : s.Inv) : (s.finishFrame r f).Inv := by
  unfold WallString.finishFrame WallString.countResult
  split <;> exact ⟨h.1, h.2.1, by simp⟩

/-- A string without its queue. -/
theorem WallString.inv_empty {s t : WallString} (hq : t.queue = []) (ha : t.activity = s.activity) (hf : t.inFlight = s.inFlight)
    (h : s.Inv) : t.Inv := by
  unfold WallString.Inv
  rw [hq, ha, hf]
  exact ⟨Nat.zero_le _, List.nodup_nil, h.2.2⟩

/-! ### The work of the blocks -/

/-- Bounds that hold before hold after. -/
structure Work.KeepsBounds (w u : Work) : Prop where
  keeps : w.bounds → u.bounds

theorem keepsBounds_refl (w : Work) : w.KeepsBounds w := ⟨id⟩

theorem keepsBounds_trans {w v u : Work} (h : w.KeepsBounds v) (k : v.KeepsBounds u) : w.KeepsBounds u := ⟨k.keeps ∘ h.keeps⟩

theorem Work.KeepsBounds.after {w v u : Work} (k : v.KeepsBounds u) (h : w.KeepsBounds v) : w.KeepsBounds u :=
  keepsBounds_trans h k

/-- Bounds by the parts: strings, cue queue, and the queues of the link. -/
theorem keepsBounds_of_parts {w u : Work} (hw : (∀ s ∈ w.wsc, s.Inv) → ∀ s ∈ u.wsc, s.Inv) (hc : w.cuc.Bounded → u.cuc.Bounded)
    (hi : u.hlu.inbound.length ≤ w.hlu.inbound.length) (hb : u.hlu.busy.length ≤ w.hlu.busy.length)
    (hr : w.hlu.reports.length ≤ Config.maxReports → u.hlu.reports.length ≤ Config.maxReports) : w.KeepsBounds u :=
  ⟨fun ⟨h1, h2, h3, h4, h5, h6⟩ =>
    ⟨hw h1, (hc ⟨h2, h3⟩).1, (hc ⟨h2, h3⟩).2, hi.trans h4, hb.trans h5, hr h6⟩⟩

theorem keepsBounds_of_cues {w u : Work} (hs : u.wsc = w.wsc) (hl : u.hlu = w.hlu) (hc : w.cuc.Bounded → u.cuc.Bounded) :
    w.KeepsBounds u :=
  keepsBounds_of_parts (by rw [hs]; exact id) hc (by rw [hl]) (by rw [hl]) (by rw [hl]; exact id)

theorem keepsBounds_same {w u : Work} (hs : u.wsc = w.wsc) (hl : u.hlu = w.hlu) (hc : u.cuc = w.cuc) : w.KeepsBounds u :=
  keepsBounds_of_cues hs hl (by rw [hc]; exact id)

theorem keepsBounds_raise (r : ReportBody) (w : Work) : w.KeepsBounds (w.raise r) := by
  refine keepsBounds_of_parts id id (by rw [Work.raise, Hlu.raise]; split <;> [split; skip] <;> exact le_refl _)
    (by rw [Work.raise, Hlu.raise]; split <;> [split; skip] <;> exact le_refl _) fun h => ?_
  rw [Work.raise, Hlu.raise]
  split
  · split
    · next hroom => exact (List.length_append (bs := [_])).trans_le hroom
    · exact h
  · exact h

theorem keepsBounds_foldl {α : Type} {f : Work → α → Work} (h : ∀ w a, Work.KeepsBounds w (f w a)) (l : List α) (w : Work) :
    w.KeepsBounds (l.foldl f w) := by
  induction l generalizing w with
  | nil => exact keepsBounds_refl w
  | cons a l ih => exact keepsBounds_trans (h w a) (ih _)

/-- A change of one string that keeps its invariant. -/
theorem inv_modify {n : Nat} {f : WallString → WallString} {w : Work} (h : (w.string n).Inv → (f (w.string n)).Inv)
    (hw : ∀ s ∈ w.wsc, s.Inv) : ∀ s ∈ (w.setString n f).wsc, s.Inv := by
  intro s hs
  obtain ⟨i, hi⟩ := List.mem_iff_getElem?.mp hs
  rw [Work.setString, List.getElem?_modify] at hi
  obtain ⟨u, hu, hus⟩ := Option.map_eq_some_iff.mp hi
  split at hus
  · next hn =>
    subst hn hus
    have hstr : w.string n = u := by rw [Work.string, List.getD_eq_getElem?_getD, hu]; rfl
    exact hstr ▸ h (hstr ▸ hw u (List.mem_of_getElem? hu))
  · exact hus ▸ hw u (List.mem_of_getElem? hu)

theorem keepsBounds_string {n : Nat} {f : WallString → WallString} {w : Work}
    (h : (w.string n).Inv → (f (w.string n)).Inv) : w.KeepsBounds (w.setString n f) :=
  keepsBounds_of_parts (inv_modify h) id (le_refl _) (le_refl _) id

theorem keepsBounds_map {f : CueEntry → CueEntry} (hf : KeepsPlace f) {g : Cuc → Cuc} {w : Work}
    (hg : (g w.cuc).queue = w.cuc.queue.map f) : w.KeepsBounds (w.mapCuc g) :=
  keepsBounds_of_cues rfl rfl (Cuc.bounded_map hf hg)

theorem keepsBounds_cueSame {g : Cuc → Cuc} {w : Work} (hg : (g w.cuc).queue = w.cuc.queue) : w.KeepsBounds (w.mapCuc g) :=
  keepsBounds_of_cues rfl rfl (Cuc.bounded_same hg)

theorem keepsPlace_update {seq : BitVec 32} {f : CueEntry → CueEntry} (hf : KeepsPlace f) :
    KeepsPlace fun e => if e.seq == seq then f e else e := keepsPlace_ite hf keepsPlace_id

theorem keepsBounds_dropEntry (e : CueEntry) (r : DropReason) (w : Work) : w.KeepsBounds (w.dropEntry e r) :=
  keepsBounds_trans (keepsBounds_of_cues (u := w.mapCuc (Cuc.free e.seq)) rfl rfl (Cuc.bounded_filter rfl)) (keepsBounds_raise ..)

theorem keepsBounds_dropWaiting (p : CueEntry → Bool) (r : DropReason) (w : Work) : w.KeepsBounds (w.dropWaiting p r) :=
  keepsBounds_foldl (fun w e => keepsBounds_dropEntry e r w) _ w

theorem keepsBounds_takeEntry (b : Base) (e : CueEntry) (w : Work) : w.KeepsBounds (w.takeEntry b e) := by
  unfold Work.takeEntry
  split
  · exact keepsBounds_dropEntry ..
  · split
    · exact keepsBounds_map (keepsPlace_update (f := fun e => { e with state := .held }) fun _ => ⟨rfl, rfl⟩) rfl
    · split
      · exact keepsBounds_dropEntry ..
      · exact keepsBounds_map (keepsPlace_update (f := fun x => { x with
          state := .sending, resolved := some ((w.entryService x).bind Service.current) }) fun _ => ⟨rfl, rfl⟩) rfl

theorem keepsBounds_select (b : Base) (w : Work) : w.KeepsBounds (w.select b) := by
  have many : ∀ es w, Work.KeepsBounds w (Work.selectFrom b es w) := by
    intro es
    induction es with
    | nil => exact keepsBounds_refl
    | cons e es ih =>
      intro w
      unfold Work.selectFrom
      split
      · exact keepsBounds_trans (keepsBounds_takeEntry ..) (ih _)
      · exact keepsBounds_refl w
  unfold Work.select
  split
  · exact many ..
  · exact keepsBounds_refl w

theorem keepsBounds_enqueueNew (b : Base) (n : Nat) (key : Option Key) (src : CueSource) (tm : Template) (x : Option Service)
    (w : Work) (h : w.cuc.queue.length < Config.maxCues) : w.KeepsBounds (w.enqueueNew b n key src tm x) := by
  refine keepsBounds_of_cues rfl rfl fun ⟨_, hp⟩ => ⟨?_, ?_⟩
  · exact (insertBy_perm ..).length_eq.trans_le h
  · exact pairwise_insertBy (before := CueEntry.before) (r := cueOrder) (fun _ _ _ => cueOrder_trans) (fun _ _ => CueEntry.order_of_before)
      (fun _ _ => CueEntry.order_of_not_before) _ hp

/-- R134: a request leaves the queue within its bound: at a full queue an entry goes first. -/
theorem keepsBounds_enqueue (b : Base) (n : Nat) (key : Option Key) (src : CueSource) (w : Work) :
    w.KeepsBounds (w.enqueue b n key src).1 := by
  have refused := fun r => keepsBounds_trans (keepsBounds_raise (refusal n key src r) w) (keepsBounds_select b _)
  unfold Work.enqueue
  dsimp only
  split
  · exact refused _
  · split
    · exact refused _
    · next tm _ =>
      split
      · exact keepsBounds_trans (keepsBounds_map
          (keepsPlace_update (f := mergeEntry b.tbs.t (key.bind w.svt.find)) fun _ => ⟨rfl, rfl⟩) rfl) (keepsBounds_select ..)
      · split
        · exact refused _
        · split
          · next hroom => exact keepsBounds_trans (keepsBounds_enqueueNew _ _ _ _ _ _ _ hroom) (keepsBounds_select ..)
          · split
            · next e he =>
              by_cases hp : e.priority < (if src = .override then 8 else tm.priority)
              · rw [if_pos hp]
                have hmem : e ∈ w.cuc.queue := (List.mem_filter.mp (List.mem_of_getLast? he)).1
                have hlt : (w.dropEntry e .displaced).cuc.queue.length < w.cuc.queue.length :=
                  List.length_filter_lt_length_iff_exists.mpr ⟨e, hmem, by simp⟩
                refine ⟨fun hw => (keepsBounds_trans (keepsBounds_trans (keepsBounds_dropEntry e .displaced w)
                  (keepsBounds_enqueueNew _ _ _ _ _ _ _ ?_)) (keepsBounds_select ..)).keeps hw⟩
                exact hlt.trans_le hw.2.1
              · rw [if_neg hp]
                exact refused _
            · exact refused _

theorem keepsBounds_withdraw (b : Base) (p : CueEntry → Bool) (w : Work) : w.KeepsBounds (w.withdraw b p) :=
  keepsBounds_trans (keepsBounds_of_cues (u := w.mapCuc fun c =>
    { c with queue := c.queue.filter fun e => !(e.isWaiting && e.template.withdrawOnClear && p e) }) rfl rfl
    (Cuc.bounded_filter rfl)) (keepsBounds_select ..)

theorem keepsBounds_offer (b : Base) (s a : Nat) (c : RowContent) (w : Work) : w.KeepsBounds (w.offer b s a c).1 := by
  have offered : w.KeepsBounds (w.setString s fun _ => ((w.string s).offer b.elapsed a c).1) :=
    keepsBounds_string WallString.inv_offer
  unfold Work.offer
  dsimp only
  split
  · exact keepsBounds_trans offered (keepsBounds_same rfl rfl rfl)
  · exact keepsBounds_trans offered (keepsBounds_same rfl rfl rfl)
  · exact offered

/-- Every event keeps the bounds. -/
theorem boundsEdges : EdgeMoves Work.KeepsBounds where
  refl := keepsBounds_refl
  trans := keepsBounds_trans
  offer := keepsBounds_offer
  cell _ _ _ _ _ := keepsBounds_same rfl rfl rfl
  board _ _ _ _ := keepsBounds_same rfl rfl rfl
  conf _ := keepsBounds_same rfl rfl rfl
  confirm key seq on w := by
    refine keepsBounds_map (keepsPlace_ite (f := fun e => if on then
      (if e.state == .queued && e.template.needsShown then { e with state := .held } else e)
      else if e.state == .held then { e with state := .queued } else e) (fun e => ?_) keepsPlace_id) rfl
    dsimp only
    split <;> split <;> exact ⟨rfl, rfl⟩
  select := keepsBounds_select
  table _ _ := keepsBounds_same rfl rfl rfl
  notices _ _ _ := keepsBounds_same rfl rfl rfl
  unlist _ _ := keepsBounds_same rfl rfl rfl
  raise := keepsBounds_raise
  request b h c key w _ := keepsBounds_enqueue ..
  ended b h c key w _ := keepsBounds_withdraw ..
  removed b key w := keepsBounds_withdraw ..

theorem boundsKept : EventMoves Work.KeepsBounds := boundsEdges.events

end Sys2Proof.Machine
end

section
/-!
PROOF. Relations that the acts of the part respect. A relation of the work that is respected by the primitive acts of every block,
each with what it keeps of the queues' bounds, is respected by every act, block by block.
-/

namespace Sys2Proof.Machine

/-- The queues of the link in their bounds (R177, R179, R182). -/
def Hlu.Bounded (h : Hlu) : Prop :=
  h.inbound.length ≤ Config.maxInbound ∧ h.busy.length ≤ Config.maxBusy ∧ h.reports.length ≤ Config.maxReports

/-- The primitive acts of every block. Cues, strings and the link's queues are changed within their bounds; keys and held sets,
and the watch slots, by events, rule loads, creations and RESTART alone. -/
structure WorkMoves (R : Work → Work → Prop) : Prop extends EventMoves R where
  cues : ∀ {f : Cuc → Cuc} {w}, (w.cuc.Bounded → (f w.cuc).Bounded) → R w (w.mapCuc f)
  strings : ∀ {v w}, ((∀ s ∈ w.wsc, WallString.Inv s) → ∀ s ∈ v, WallString.Inv s) → R w { w with wsc := v }
  rows : ∀ c w, R w { w with bcp := c }
  link : ∀ {h w}, (w.hlu.Bounded → h.Bounded) → R w { w with hlu := h }
  enqueue : ∀ b n key src w, R w (w.enqueue b n key src).1
  loadRule : ∀ b n r w, R w (w.loadRule b n r)
  putNew : ∀ {b r w u}, w.svt.find r.key = none → w.putNew b r = some u → R w u
  cleared : ∀ w, R w (Work.clearNotices { w with svt := { w.svt with services := [] } })

variable {R : Work → Work → Prop}

theorem WorkMoves.after (k : WorkMoves R) {w v u : Work} (h : R v u) (h' : R w v) : R w u := k.trans h' h

theorem WorkMoves.cueMap (k : WorkMoves R) {f : CueEntry → CueEntry} (hf : KeepsPlace f) {g : Cuc → Cuc} {w : Work}
    (hg : (g w.cuc).queue = w.cuc.queue.map f) : R w (w.mapCuc g) := k.cues (Cuc.bounded_map hf hg)

theorem WorkMoves.cueFilter (k : WorkMoves R) {p : CueEntry → Bool} {g : Cuc → Cuc} {w : Work}
    (hg : (g w.cuc).queue = w.cuc.queue.filter p) : R w (w.mapCuc g) := k.cues (Cuc.bounded_filter hg)

theorem WorkMoves.cueSame (k : WorkMoves R) {g : Cuc → Cuc} {w : Work} (hg : (g w.cuc).queue = w.cuc.queue) :
    R w (w.mapCuc g) := k.cues (Cuc.bounded_same hg)

theorem WorkMoves.string (k : WorkMoves R) {n : Nat} {f : WallString → WallString} {w : Work}
    (h : (w.string n).Inv → (f (w.string n)).Inv) : R w (w.setString n f) := k.strings fun hw => inv_modify h hw

theorem WorkMoves.dropWaiting (k : WorkMoves R) (p : CueEntry → Bool) (r : DropReason) (w : Work) : R w (w.dropWaiting p r) := by
  have drop : ∀ (w : Work) e, R w (w.dropEntry e r) := fun w e => by
    unfold Work.dropEntry
    exact k.after (k.raise ..) (k.cueFilter rfl)
  exact k.foldl drop _ w

/-! ### The cue link (R144 to R151) -/

theorem WorkMoves.endEntry (k : WorkMoves R) (r : CueEntry → ReportBody) (next : LinkState) (w : Work) : R w (w.endEntry r next) := by
  unfold Work.endEntry
  split
  · next e _ =>
    exact k.trans (k.cueFilter (g := Cuc.free e.seq) rfl)
      (k.trans (k.raise ..) (k.cueSame rfl))
  · exact k.cueSame rfl

theorem WorkMoves.cueSent (k : WorkMoves R) (b : Base) (w : Work) : R w (w.cueSent b) := by
  unfold Work.cueSent
  split
  · split
    · exact k.trans (k.trans (k.endEntry ..) (k.cueSame rfl)) (k.select ..)
    · refine k.trans (k.cueMap (f := fun e => if e.state == CueState.sending then
        { e with state := .awaitAccept } else e) (fun e => ?_) rfl) (k.select ..)
      dsimp only
      split <;> exact ⟨rfl, rfl⟩
  · exact k.refl w

theorem WorkMoves.acceptEnd (k : WorkMoves R) (b : Base) (w : Work) : R w (w.acceptEnd b) := by
  unfold Work.acceptEnd
  split
  · exact k.trans (k.endEntry ..) (k.select ..)
  · exact k.refl w

theorem WorkMoves.playEnd (k : WorkMoves R) (b : Base) (w : Work) : R w (w.playEnd b) := by
  unfold Work.playEnd
  split
  · exact k.trans (k.endEntry ..) (k.select ..)
  · exact k.refl w

theorem WorkMoves.resumeDelayEnds (k : WorkMoves R) (b : Base) (w : Work) : R w (w.resumeDelayEnds b) := by
  unfold Work.resumeDelayEnds
  split
  · exact k.refl w
  · exact k.trans (k.cueSame rfl) (k.select ..)

theorem WorkMoves.busyChange (k : WorkMoves R) (b : Base) (level : Bool) (w : Work) : R w (w.busyChange b level) := by
  unfold Work.busyChange
  split
  · exact k.refl w
  · dsimp only
    refine k.trans (k.cueSame (g := fun c => { c with busy := level }) rfl)
      (k.trans ?_ (k.select ..))
    split
    · refine k.cueMap (f := fun e => if e.state == CueState.awaitAccept then { e with state := .playing } else e)
        (fun e => ?_) rfl
      dsimp only
      split <;> exact ⟨rfl, rfl⟩
    · exact k.endEntry ..
    · exact k.cueSame rfl
    · exact k.cueSame rfl
    · exact k.refl _

theorem WorkMoves.paChange (k : WorkMoves R) (b : Base) (level : Bool) (w : Work) : R w (w.paChange b level) := by
  unfold Work.paChange
  split
  · exact k.refl w
  · exact k.trans (k.cueSame rfl) (k.select ..)

theorem WorkMoves.cueOverrideEntry (k : WorkMoves R) (b : Base) (w : Work) : R w (w.cueOverrideEntry b) := by
  unfold Work.cueOverrideEntry
  dsimp only
  split
  · exact k.trans (k.dropWaiting ..) (k.enqueue ..)
  · exact k.trans (k.dropWaiting ..) (k.select ..)

theorem WorkMoves.cueOverrideExit (k : WorkMoves R) (b : Base) (w : Work) : R w (w.cueOverrideExit b) :=
  k.trans (k.dropWaiting ..) (k.select ..)

theorem keepsPlace_unobserved : KeepsPlace fun e => if e.state == .sending then { e with unobserved := true } else e := fun e => by
  dsimp only
  split <;> exact ⟨rfl, rfl⟩

theorem WorkMoves.disableLink (k : WorkMoves R) (w : Work) : R w w.disableLink := by
  unfold Work.disableLink
  split
  · exact k.refl w
  · exact k.cueSame rfl
  · exact k.cueSame rfl
  · exact k.cueMap keepsPlace_unobserved rfl
  · exact k.endEntry ..
  · exact k.endEntry ..

theorem WorkMoves.restartCues (k : WorkMoves R) (w : Work) : R w w.restartCues := by
  unfold Work.restartCues
  dsimp only
  refine k.trans (k.cueFilter (p := fun e => !e.isWaiting)
    (g := fun c => { c with queue := c.queue.filter fun e => !e.isWaiting }) rfl) ?_
  split
  · exact k.cueMap keepsPlace_unobserved rfl
  · exact k.endEntry ..
  · exact k.endEntry ..
  · exact k.refl _

theorem WorkMoves.putCueLink (k : WorkMoves R) (b : Base) (r : CueLinkReq) (w : Work) : R w (w.putCueLink b r) := by
  have stored : R w (w.mapCuc fun c => { c with cfg := c.cfg.put r }) := k.cueSame rfl
  unfold Work.putCueLink
  dsimp only
  split
  · exact k.trans stored (k.trans (k.cueSame rfl) (k.select ..))
  · split
    · exact k.trans stored (k.disableLink _)
    · exact stored

/-! ### The wall (R97 to R106) -/

theorem WorkMoves.setCell (k : WorkMoves R) (s a : Nat) (f : Cell → Cell) (w : Work) : R w (w.setCell s a f) := k.rows _ w

theorem WorkMoves.forgetRows (k : WorkMoves R) (rec : BoardRec) (w : Work) : R w (w.forgetRows rec) :=
  k.foldl (fun _ _ => k.setCell ..) _ w

theorem WorkMoves.drainCheck (k : WorkMoves R) (b : Base) (w : Work) : R w (w.drainCheck b) := by
  unfold Work.drainCheck
  split
  · unfold Work.recomposeBoards
    dsimp only
    refine k.trans (k.trans (k.rows { w.bcp with recompose := false } w) (k.foldl (fun w n => ?_) _ _)) (k.deriveAll ..)
    split
    · split
      · exact k.forgetRows ..
      · exact k.refl w
    · exact k.refl w
  · exact k.refl w

theorem WorkMoves.complete (k : WorkMoves R) (b : Base) (s : Nat) (r : FrameResult) (w : Work) : R w (w.complete b s r) := by
  unfold Work.complete
  split
  · exact k.refl w
  · next f q _ =>
    dsimp only
    have finished : ∀ rs, R w ((w.setString s (WallString.finishFrame r f)).raiseAll rs) := fun rs =>
      k.trans (k.string fun h => WallString.inv_finishFrame h)
        (k.foldl (fun w r => k.raise r w) _ _)
    have drained : ∀ v : Work, R v (v.endDrain b s) := fun v => by
      unfold Work.endDrain
      split
      · exact k.trans (k.string id) (k.drainCheck ..)
      · exact k.refl v
    have started : ∀ v : Work, R v ((v.recordCompletion s f.address f.content).setString s (WallString.start b.elapsed)) :=
      fun v => k.trans (k.rows _ v)
        (k.string WallString.inv_start)
    refine k.trans (k.trans (finished (healthReport s f q r (w.string s))) (k.trans (drained _) (started _))) ?_
    unfold Work.answerAfter
    split
    · exact k.trans (k.trans (k.string id) (k.answerCompletion ..)) (k.string id)
    · exact k.answerCompletion ..

theorem WorkMoves.moduleReply (k : WorkMoves R) (b : Base) (n : Nat) (r : ModReply) (w : Work) : R w (w.moduleReply b n r) := by
  unfold Work.moduleReply
  split
  · exact k.complete ..
  · split
    · exact k.string id
    · exact k.refl w

theorem WorkMoves.replyTimeout (k : WorkMoves R) (b : Base) (n : Nat) (w : Work) : R w (w.replyTimeout b n) := by
  unfold Work.replyTimeout
  split
  · exact k.complete ..
  · exact k.refl w

theorem WorkMoves.dropDiscarded (k : WorkMoves R) (s : Nat) (fs : List WallFrame) (w : Work) : R w (w.dropDiscarded s fs) :=
  k.foldl (fun _ _ => k.setCell ..) fs w

theorem WorkMoves.putString (k : WorkMoves R) (b : Base) (n : Nat) (on : Bool) (rate : WallRate) (w : Work) :
    R w (w.putString b n on rate) := by
  have stored : R w (w.setString n fun t => { t with rate := rate }) := k.string id
  unfold Work.putString
  dsimp only
  split
  · refine k.trans stored ?_
    unfold Work.enableString
    dsimp only
    refine k.trans (k.trans (k.string id) (k.foldl (fun v m => ?_) _ _))
      (k.derive ..)
    split
    · unfold Work.bringOnline
      split
      · exact k.trans (k.forgetRows _ v) (k.rows _ _)
      · exact k.refl v
    · exact k.refl v
  · exact k.trans (k.trans stored (k.string (WallString.inv_empty rfl rfl rfl)))
      (k.trans (k.dropDiscarded ..) (k.refreshConfirmations ..))
  · exact stored

theorem WorkMoves.putBoard (k : WorkMoves R) (b : Base) (n : Nat) (rec : BoardRec) (w : Work) : R w (w.putBoard b n rec) := by
  have blanked : R w (match w.board n with
      | some old => if w.online n && !rec.enabled then w.blankRows b old.record else w
      | none => w) := by
    split
    · split
      · exact k.foldl (fun w r => k.offer ..) _ w
      · exact k.refl w
    · exact k.refl w
  have claimed : ∀ v : Work, R v (v.claimRows rec) := fun v =>
    k.foldl (fun _ _ => k.setCell ..) _ v
  have stored : ∀ (v : Work) c, R v { v with bcp := c } := fun v c => k.rows c v
  unfold Work.putBoard
  dsimp only
  exact k.after (k.derive b _ _) (k.after (claimed _) (k.after (stored _ _) blanked))

/-! ### The feed -/

/-- The count and the state of the feed. -/
theorem WorkMoves.feed (k : WorkMoves R) {w : Work} {h : Hlu} (hi : h.inbound = w.hlu.inbound) (hb : h.busy = w.hlu.busy)
    (hr : h.reports = w.hlu.reports) : R w { w with hlu := h } :=
  k.link fun hw => by
    unfold Hlu.Bounded
    rw [hi, hb, hr]
    exact hw

theorem WorkMoves.loseFeed (k : WorkMoves R) (b : Base) (w : Work) : R w (w.loseFeed b) := by
  unfold Work.loseFeed
  exact k.after (k.deriveAll b _) (k.after (k.raise _ _) (k.feed rfl rfl rfl))

theorem WorkMoves.restoreFeed (k : WorkMoves R) (b : Base) (w : Work) : R w (w.restoreFeed b) := by
  unfold Work.restoreFeed
  exact k.ite (k.after (k.deriveAll b _) (k.after (k.raise _ _) (k.feed rfl rfl rfl)))

theorem WorkMoves.feedSecond (k : WorkMoves R) (b : Base) (w : Work) : R w (w.feedSecond b) := by
  have counted : R w { w with hlu := { w.hlu with feedCount := w.hlu.feedCount + 1 } } := k.feed rfl rfl rfl
  unfold Work.feedSecond
  dsimp only
  split
  · split
    · exact k.after (k.loseFeed b _) counted
    · exact counted
  · exact k.refl w

theorem WorkMoves.feedEnds (k : WorkMoves R) (b : Base) (w : Work) : R w (w.feedEnds b) := by
  unfold Work.feedEnds
  split
  · exact k.after (k.loseFeed b _) (k.feed rfl rfl rfl)
  · exact k.refl w

/-! ### Time -/

theorem WorkMoves.changeover (k : WorkMoves R) (b : Base) (fromStep : Bool) (w : Work) : R w (w.changeover b fromStep) := by
  have shifted : ∀ v : Work, R v v.cueChangeover := fun v =>
    k.cueMap (f := fun e => { e with latest := e.latest - Config.day }) (fun _ => ⟨rfl, rfl⟩) rfl
  have noticed : R w w.noticeChangeover := k.slots _ w rfl (slotsFrom_refl _)
  unfold Work.changeover
  exact k.after (k.raise _ _) (k.after (k.serviceChangeover b _) (k.after (shifted _) noticed))

theorem WorkMoves.expireCues (k : WorkMoves R) (b : Base) (w : Work) : R w (w.expireCues b) := k.dropWaiting ..

theorem WorkMoves.cueSecond (k : WorkMoves R) (b : Base) (w : Work) : R w (w.cueSecond b) := by
  unfold Work.cueSecond
  exact k.after (k.select b _) (k.after (k.cueSame rfl) (k.expireCues b w))

theorem WorkMoves.secondBlocks (k : WorkMoves R) (b : Base) (w : Work) : R w (w.secondBlocks b) := by
  unfold Work.secondBlocks
  exact k.after (k.cueSecond b _) (k.after (k.noticeSecond b _) (k.after (k.boardSecond b _)
    (k.serviceSecond b w)))

theorem WorkMoves.stepBlocks (k : WorkMoves R) (b : Base) (w : Work) : R w (w.stepBlocks b) := by
  unfold Work.stepBlocks Work.cueStep
  exact k.after (k.select b _) (k.after (k.expireCues b _) (k.after (k.noticeStep b _)
    (k.after (k.deriveAll b _) (k.serviceStep b w))))

theorem WorkMoves.raiseAll (k : WorkMoves R) (rs : List ReportBody) (w : Work) : R w (w.raiseAll rs) :=
  k.foldl (fun w r => k.raise r w) rs w

theorem WorkMoves.clockEvent (k : WorkMoves R) (f : Nat → ClockLine → ClockLine × List ReportBody) (s : State) :
    R s.work (s.clockEvent f).work := k.raiseAll ..

/-- What an event of the timebase does to the blocks. -/
theorem mapWork_moves {f : Work → Work} (h : ∀ w, R w (f w)) (s : State) :
    R s.work (s.mapWork f).work := h s.work

theorem WorkMoves.secondEvent (k : WorkMoves R) (s : State) : R s.work s.secondEvent.work := by
  have deliver : ∀ u : State, R u.work u.deliverSecond.work := by
    intro u
    unfold State.deliverSecond
    dsimp only
    generalize hv : (u.mapWork (Work.secondBlocks u.base)).clockEvent _ = v
    have moved : R u.work v.work := by
      rw [← hv]
      exact k.after (k.clockEvent _ _) (mapWork_moves (k.secondBlocks u.base) u)
    have fed : R u.work (v.mapWork (Work.feedSecond v.base)).work :=
      k.after (mapWork_moves (k.feedSecond v.base) v) moved
    split
    · exact k.after (mapWork_moves (k.age _) _) fed
    · exact fed
  unfold State.secondEvent
  dsimp only
  split
  · exact k.after (deliver _) (k.changeover ..)
  · exact deliver { s with base := s.base.wrap }

theorem WorkMoves.stepBy (k : WorkMoves R) (d : Int) (c : StepCause) (s : State) : R s.work (s.stepBy d c).work := by
  have passed : R s.work (s.stepChangeover d).work := by
    unfold State.stepChangeover
    split
    · exact k.changeover ..
    · exact k.refl _
  unfold State.stepBy
  dsimp only
  exact k.after (mapWork_moves (k.raise _) _) (k.after (k.clockEvent _ _)
    (k.after (mapWork_moves (k.stepBlocks _) _) passed))

theorem WorkMoves.setFirst (k : WorkMoves R) (h m sec ms : Nat) (s : State) : R s.work (s.setFirst h m sec ms).work := by
  unfold State.setFirst
  dsimp only
  exact k.after (mapWork_moves (k.raise _) _) (k.after (k.clockEvent _ _)
    (mapWork_moves (k.stepBlocks _) (s.mapTbs (Timebase.setFirst h m sec ms))))

end Sys2Proof.Machine
end

section
/-!
PROOF. Relations that the acts of the part respect: field inputs, the link, and the owners of the requests.
-/

namespace Sys2Proof.Machine

variable {R : Work → Work → Prop}

/-! ### Field inputs -/

theorem WorkMoves.settleOverride (k : WorkMoves R) (c : OverrideCause) (s : State) : R s.work (s.settleOverride c).work := by
  have entered : ∀ b r w, R w ((Work.raise r w).overrideEntry b) := fun b r w => by
    unfold Work.overrideEntry
    exact k.after (k.cueOverrideEntry b _) (k.after (k.deriveAll b _) (k.raise r w))
  have exited : ∀ b r w, R w ((Work.raise r w).overrideExit b) := fun b r w => by
    unfold Work.overrideExit
    exact k.after (k.cueOverrideExit b _) (k.after (k.deriveAll b _) (k.raise r w))
  unfold State.settleOverride State.followOverride
  dsimp only
  split
  · exact mapWork_moves (entered _ _) (s.mapFiu Fiu.recompute)
  · split
    · exact mapWork_moves (exited _ _) (s.mapFiu Fiu.recompute)
    · exact k.refl _

theorem WorkMoves.dispatchEdge (k : WorkMoves R) (n p : Nat) (s : State) : R s.work (s.dispatchEdge n p).work := by
  unfold State.dispatchEdge
  split
  · exact k.raise ..
  · dsimp only
    split
    · exact k.dispatch ..
    · exact k.dispatch ..

theorem WorkMoves.syncPulse (k : WorkMoves R) (s : State) : R s.work s.syncPulse.work := by
  unfold State.syncPulse
  dsimp only
  split
  · exact k.refl _
  · split
    · exact k.raiseAll ..
    · split
      · exact k.after (mapWork_moves (k.raiseAll _) _) (k.stepBy ..)
      · exact k.raise ..

theorem WorkMoves.deliverEdge (k : WorkMoves R) (n : Nat) (s : State) : R s.work (s.deliverEdge n).work := by
  unfold State.deliverEdge
  dsimp only
  split
  · exact k.refl _
  · split
    · exact k.dispatchEdge ..
    · exact k.refl _
  · exact k.settleOverride ..
  · split
    · exact k.syncPulse s
    · exact k.refl _
  · exact k.paChange ..
  · exact k.busyChange ..
  · split <;> exact k.refl _

theorem WorkMoves.takeEdge (k : WorkMoves R) (n : Nat) (v : Level) (s : State) : R s.work (s.takeEdge n v).work := by
  rw [State.takeEdge_eq]
  dsimp only
  split
  · exact k.after (k.deliverEdge n _) (k.raise ..)
  · exact k.deliverEdge n (s.setLine n fun l => { l with filtered := v, disagree := 0, mark := true })

theorem WorkMoves.edge (k : WorkMoves R) (n : Nat) (v : Level) (s : State) : R s.work (s.edge n v).work := by
  unfold State.edge
  split
  · exact k.refl _
  · exact k.takeEdge n v (s.setLine n fun l => { l with raw := v })

theorem WorkMoves.sample (k : WorkMoves R) (n : Nat) (v : Level) (s : State) : R s.work (s.sample n v).work := by
  unfold State.sample
  dsimp only
  split
  · exact k.refl _
  · split
    · exact k.refl _
    · split
      · exact k.takeEdge n v (s.setLine n fun l => { l with raw := v })
      · exact k.refl _

theorem WorkMoves.configureField (k : WorkMoves R) (n : Nat) (f : FieldLine → FieldLine) (s : State) :
    R s.work (s.configureField n f).work := by
  have told : ∀ u : State, R u.work (u.tellRole n).work := by
    intro u
    unfold State.tellRole
    split
    · exact k.paChange ..
    · exact k.busyChange ..
    · exact k.refl _
    · exact k.refl _
  have left : ∀ (r : Role) (u : State), R u.work (u.leaveRole r).work := by
    intro r u
    unfold State.leaveRole
    split
    · exact k.paChange ..
    · exact k.busyChange ..
    · exact k.refl _
    · exact k.refl _
  unfold State.configureField
  dsimp only
  split
  · exact k.after (k.settleOverride _ _) (told (s.setLine n f))
  · exact k.after (k.settleOverride _ _) (k.after (told _) (left _ (s.setLine n f)))

/-! ### The link (R178 to R182, R187) -/

theorem WorkMoves.wellFormed (k : WorkMoves R) (b : Base) (tag : Byte) (f : Frame) (w : Work) : R w (w.wellFormed b tag f) := by
  have arrived : R w { w with hlu := { w.hlu.arrive tag f with feedCount := 0 } } := by
    refine k.link fun ⟨h4, h5, h6⟩ => ?_
    unfold Hlu.arrive
    dsimp only
    split
    · next hroom => exact ⟨(List.length_append (bs := [_])).trans_le hroom, h5, h6⟩
    · split
      · next hroom => exact ⟨h4, (List.length_append (bs := [_])).trans_le hroom, h6⟩
      · exact ⟨h4, h5, h6⟩
  unfold Work.wellFormed
  exact k.after (k.restoreFeed b _) arrived

theorem WorkMoves.timeOut (k : WorkMoves R) (w : Work) : R w { w with hlu := w.hlu.timeOut } := by
  refine k.feed ?_ ?_ ?_ <;> (unfold Hlu.timeOut; split <;> rfl)

theorem WorkMoves.hostBytes (k : WorkMoves R) (b : Base) (xs : List Byte) (w : Work) : R w (w.hostBytes b xs) := by
  have byte : ∀ (w : Work) x, R w (w.hostByte b x) := by
    intro w x
    have taken : R w { w with hlu := { w.hlu with rx := (w.hlu.rx.take b.elapsed x).1 } } :=
      k.feed rfl rfl rfl
    unfold Work.hostByte Work.received
    dsimp only
    split
    · exact taken
    · exact k.feed rfl rfl rfl
    · exact k.feed rfl rfl rfl
    · exact k.after (k.wellFormed b _ _ _) taken
  unfold Work.hostBytes
  split
  · exact k.after (k.foldl byte xs _) (k.timeOut w)
  · exact k.foldl byte xs w

theorem WorkMoves.freePlace (k : WorkMoves R) (x : Sending) (w : Work) : R w { w with hlu := w.hlu.freePlace x } := by
  refine k.link fun ⟨h4, h5, h6⟩ => ?_
  cases x with
  | reply a => exact ⟨(List.length_filter_le ..).trans h4, h5, h6⟩
  | busy a => exact ⟨h4, (List.length_filter_le ..).trans h5, h6⟩
  | report => exact ⟨h4, h5, List.length_tail.trans_le ((Nat.sub_le ..).trans h6)⟩

theorem WorkMoves.inbound (k : WorkMoves R) {w : Work} (f : Inbound → Inbound) :
    R w { w with hlu := { w.hlu with inbound := w.hlu.inbound.map f } } :=
  k.link fun ⟨h4, h5, h6⟩ => ⟨(List.length_map ..).trans_le h4, h5, h6⟩

theorem WorkMoves.restartEffect (k : WorkMoves R) (s : State) : R s.work s.restartEffect.work := by
  have cleared : ∀ w : Work, R w w.clearTables := fun w => by
    unfold Work.clearTables
    exact k.after (k.restartCues _) (k.cleared w)
  have overridden : ∀ b was (w : Work), R w (w.restartOverride b was) := fun b was w => by
    unfold Work.restartOverride
    exact k.ite (k.after (k.cueOverrideExit b _) (k.raise _ _))
  have fed : ∀ w : Work, R w w.restartFeed := fun w => by
    have counted : R w { w with hlu := { w.hlu with feedCount := 0, degraded := false } } := k.feed rfl rfl rfl
    unfold Work.restartFeed
    dsimp only
    split
    · exact k.after (k.raise _ _) counted
    · exact counted
  have walled : ∀ b changed (w : Work), R w (w.restartWall b changed) := fun b changed w => by
    have drained : R w w.drainStrings := k.foldl (fun w n =>
      k.after (k.dropDiscarded n _ _) (k.string (WallString.inv_empty rfl rfl rfl))) _ w
    have unknown : ∀ v : Work, R v v.clearBoards := fun v => by
      unfold Work.clearBoards
      dsimp only
      refine k.after (k.foldl (fun w n => ?_) _ _) (k.rows _ _)
      split
      · exact k.foldl (fun _ _ => k.setCell ..) _ w
      · exact k.refl w
    have checked := k.after (k.drainCheck b _) (k.after (unknown _) drained)
    unfold Work.restartWall
    dsimp only
    split
    · exact k.after (k.deriveAll b _) checked
    · exact checked
  unfold State.restartEffect
  exact mapWork_moves (fun w => k.after (walled _ _ _) (k.after (fed _) (k.after (overridden _ _ _) (cleared w))))
    (s.mapFiu Fiu.restart)

theorem WorkMoves.frameSent (k : WorkMoves R) (s : State) : R s.work s.frameSent.work := by
  have restarted : ∀ c : Bool, R s.work (if c then s.restartEffect else s).work := fun c => by
    split
    · exact k.restartEffect s
    · exact k.refl _
  unfold State.frameSent
  split
  · exact k.refl _
  · rw [State.mapHlu_work]
    exact k.after (k.freePlace _ _) (restarted _)

/-! ### Requests (R180) -/

/-- CONFIGURE GENERAL stored. -/
theorem WorkMoves.storeGeneral (k : WorkMoves R) (r : GeneralReq) (s : State) : R s.work (s.storeGeneral r).work := by
  have table : R s.work { s.work with svt := s.work.svt.configure r } := k.records _ _ fun _ => rfl
  have rows := k.rows (s.work.bcp.configure r) { s.work with svt := s.work.svt.configure r }
  exact k.after (k.feed (w := { s.work with svt := s.work.svt.configure r, bcp := s.work.bcp.configure r }) rfl rfl rfl)
    (k.after rows table)

theorem WorkMoves.putService (k : WorkMoves R) (r : PutReq) (s : State) : R s.work (s.putService r).1.work := by
  unfold State.putService
  split
  · next x hx => exact k.updateByPut s.base r hx
  · next hnone =>
    split
    · next w hw => exact k.putNew hnone hw
    · exact k.refl _

/-- The owner of a request does what the acts of its block do. -/
theorem WorkMoves.owner (k : WorkMoves R) (q : Request) (s : State) : R s.work (Request.owner q s).1.work := by
  have hg := fun r o h => State.guarded_keeps (I := fun u : State => R s.work u.work) (s := s) (refusal := r) (owner := o)
    (k.refl s.work) h
  have hm : ∀ (r : Option Reply) (f : State → Work → Work) (o : State → Option Reply), (∀ w, R w (f s w)) →
      R s.work (s.guarded r fun s => (s.mapWork (f s), o s)).1.work := fun r f o h => hg r _ fun _ => h s.work
  cases q with
  | identify | restart | timeGet => exact k.refl _
  | serviceGet | serviceList | boardGet => exact hg _ _ fun _ => k.refl _
  | configureGeneral r =>
    refine hg _ _ fun _ => ?_
    unfold State.applyGeneral
    dsimp only
    split
    · exact k.after (mapWork_moves (k.deriveAll _) _) (k.storeGeneral r s)
    · exact k.storeGeneral r s
  | configureBoard n r => exact hm _ (fun s => Work.putBoard s.base n (boardRecord r)) _ fun _ => k.putBoard ..
  | configureString n r =>
    exact hm _ (fun s => Work.putString s.base n (argOr false r.enabled) (argOr .r125 r.rate)) _ fun _ => k.putString ..
  | configureLine n r => exact hg _ _ fun _ => k.configureField n _ s
  | configureClockLine n r =>
    refine hg _ _ fun _ => ?_
    unfold State.applyClock
    split <;> exact k.raiseAll _ s.work
  | configureCueLink r => exact hm _ (fun s => Work.putCueLink s.base r) _ fun _ => k.putCueLink ..
  | textLoad items =>
    refine hg _ _ fun _ => ?_
    unfold State.loadTexts
    dsimp only
    split
    · exact k.refl _
    · exact mapWork_moves (k.textChange _ _) { s with base := { s.base with txs := _ } }
  | servicePut r => exact hg _ _ fun _ => k.putService r s
  | serviceDrop key => exact hm _ (fun s w => w.freeRecord s.base key) _ fun _ => k.freeRecord ..
  | rulePut n r => exact hg _ _ fun _ => mapWork_moves (k.loadRule s.base n (some (ruleRecord r))) s
  | ruleDrop n => exact hm _ (fun s => Work.loadRule s.base n none) _ fun _ => k.loadRule ..
  | templatePut n r =>
    refine hg _ _ fun _ => ?_
    exact k.cueSame (w := s.work) (g := fun c => { c with templates := c.templates.set n (some (templateRecord r)) }) rfl
  | cueAsk n key => exact hg _ _ fun _ => k.enqueue s.base n key .host s.work
  | timeSet h m sec ms =>
    refine hg _ _ fun _ => ?_
    split
    · exact k.setFirst ..
    · unfold State.stepTime
      dsimp only
      split
      · exact k.refl _
      · exact k.stepBy ..
  | overrideSet on =>
    cases on with
    | none => exact k.refl _
    | some v => exact k.settleOverride .forced (s.mapFiu fun u => { u with forced := v })
  | status =>
    refine k.after (k.strings (w := { s.work with hlu := { s.work.hlu with lost := false } }) fun h u hu => ?_)
      (k.feed (w := s.work) rfl rfl rfl)
    obtain ⟨v, hv, rfl⟩ := List.mem_map.mp hu
    exact h v hv
  | reportMask cs =>
    have stored : ∀ m, R s.work { s.work with hlu := { s.work.hlu with mask := m } } := fun _ => k.feed rfl rfl rfl
    have owned : R s.work (ownReportMask cs s).1.work := by
      unfold ownReportMask
      split
      · exact stored _
      · exact k.refl _
    exact owned

/-- A property that the relation carries on and that holds at power-on is kept by every act. -/
theorem WorkMoves.kept (k : WorkMoves R) {I : Work → Prop} (hI : ∀ {w u}, R w u → I w → I u)
    (hp : ∀ s : State, I s.poweredOn.work) :
    Kept (fun _ => True) fun s => I s.work where
  pending _ _ hs := hs
  powerOn _ s _ := hp s
  pump s hs := by
    unfold State.finish
    rw [State.mapHlu_work, pump_work]
    exact hI (k.feed rfl rfl rfl) hs
  serve e s _ := State.serve_keeps (fun q s => hI (k.owner q s)) (fun a o s => hI (k.inbound _)) e s
  arrives _ _ _ _ _ s := hI (k.wellFormed ..)
  bytes _ _ s := hI (k.hostBytes ..)
  linkTimeOut s := hI (k.timeOut s.work)
  frameSent s := hI (k.frameSent s)
  feedEnds s := hI (k.feedEnds ..)
  second s hs := by
    unfold State.takeSecond
    split
    · exact hI (k.secondEvent s) hs
    · exact hs
  losePulses s hs := by
    unfold State.losePulses
    split
    · exact hI (k.raise ..) hs
    · exact hs
  edge n v s := hI (k.edge n v s)
  sample n v s := hI (k.sample n v s)
  endLockout _ _ hs := hs
  timerEnds key s := hI (k.ite (k.endTimer s.base s.work key))
  expirePage _ s := hI (k.expirePage ..)
  endFlash _ s := hI (k.endFlash ..)
  wallSent _ s := hI (k.string WallString.inv_frameSent)
  moduleReply _ _ s := hI (k.moduleReply ..)
  replyTimeout _ s := hI (k.replyTimeout ..)
  expireSlot _ s := hI (k.expireSlot ..)
  reachSlot _ s := hI (k.reachSlot ..)
  cueSent s := hI (k.cueSent ..)
  acceptEnd s := hI (k.acceptEnd ..)
  playEnd s := hI (k.playEnd ..)
  resumeEnds s := hI (k.resumeDelayEnds ..)
  endImpulse n s hs := by
    have ended : I (s.oneClock n (ClockLine.impulseEnds n s.base.elapsed s.base.tbs)).work := hI (k.raiseAll ..) hs
    unfold State.endImpulse
    dsimp only
    split
    · split
      · exact hI (k.inbound _) ended
      · exact ended
    · exact ended
  endGap _ _ hs := hs
  millisecond s hs := by
    refine State.timeDues_keeps (I := fun s => I s.work) (fun s hs => ?_) (fun s hs => ?_) (fun s hs => ?_) _ hs
    · unfold State.takeSecond
      split
      · exact hI (k.secondEvent s) hs
      · exact hs
    · unfold State.losePulses
      split
      · exact hI (k.raise ..) hs
      · exact hs
    · exact hI (k.timeOut s.work) hs

end Sys2Proof.Machine
end

section
/-!
PROOF. No step leaves a request waiting whose turn has come (R180), and the queues keep their bounds.
-/

namespace Sys2Proof.Machine

/-! ### The bounds -/

theorem keepsBounds_reevaluate (b : Base) (w : Work) : w.KeepsBounds (w.reevaluate b).1 := by
  have noted : ∀ (keys : List Key) (p : Work × Told), p.1.KeepsBounds (keys.foldl (Work.evaluateNoting b) p).1 := by
    intro keys
    induction keys with
    | nil => exact fun p => keepsBounds_refl _
    | cons key keys ih => exact fun p => (ih (Work.evaluateNoting b p key)).after (boundsKept.evaluate ..)
  exact noted _ (w, _)

theorem keepsBounds_loadRule (b : Base) (n : Nat) (r : Option Rule) (w : Work) : w.KeepsBounds (w.loadRule b n r) := by
  have fallen : ∀ keys : List Key, w.KeepsBounds (keys.foldl (fun w k => w.fallEdge b k n) w) := fun keys =>
    keepsBounds_foldl (fun w k => boundsEdges.fallEdge b k w n) _ w
  have stored : ∀ v : Work, v.KeepsBounds (v.mapNre fun e => { e with rules := e.rules.set n r }) := fun _ =>
    keepsBounds_same rfl rfl rfl
  unfold Work.loadRule
  dsimp only
  exact (boundsKept.tell b _ _).after ((keepsBounds_reevaluate b _).after ((stored _).after (fallen (w.holdersOf n))))

theorem keepsBounds_putNew {b : Base} {r : PutReq} {w u : Work} (h : w.putNew b r = some u) : w.KeepsBounds u := by
  have created : ∀ w : Work, w.KeepsBounds (w.createService b r) := fun w => by
    unfold Work.createService
    exact (boundsKept.recordChange _ _ _ _).after (boundsEdges.table _ w)
  unfold Work.putNew at h
  split at h
  · rw [← Option.some.inj h]
    exact created _
  · obtain ⟨x, -, rfl⟩ := Option.map_eq_some_iff.mp h
    unfold Work.evict
    exact (created _).after ((keepsBounds_raise ..).after (boundsKept.freeRecord ..))

theorem boundsMoves : WorkMoves Work.KeepsBounds where
  toEventMoves := boundsKept
  cues h := keepsBounds_of_cues (u := Work.mapCuc _ _) rfl rfl h
  strings h := keepsBounds_of_parts h id le_rfl le_rfl id
  rows _ _ := keepsBounds_same rfl rfl rfl
  link h := ⟨fun ⟨h1, h2, h3, h4⟩ => ⟨h1, h2, h3, h h4⟩⟩
  enqueue := keepsBounds_enqueue
  loadRule := keepsBounds_loadRule
  putNew _ := keepsBounds_putNew
  cleared _ := keepsBounds_same rfl rfl rfl

/-- Every act keeps the queues in their bounds. -/
theorem bounds_kept : Kept (fun _ => True) fun s => s.work.bounds :=
  boundsMoves.kept (fun h => h.keeps) fun s => by
    refine ⟨fun u hu => ?_, Nat.zero_le _, .nil, Nat.zero_le _, Nat.zero_le _, Nat.zero_le _⟩
    rw [List.eq_of_mem_replicate hu]
    exact ⟨by decide, .nil, by decide⟩

/-! ### Requests whose turn has come -/

theorem State.caughtUp_congr {s t : State} (h : t.work.hlu.inbound = s.work.hlu.inbound) (hs : s.caughtUp) : t.caughtUp := by
  unfold State.caughtUp
  rw [h]
  exact hs

theorem State.finish_caughtUp {s : State} (hs : s.caughtUp) : s.finish.caughtUp :=
  State.caughtUp_congr (Hlu.pump_inbound s.work.hlu) hs

/-- R180: a command serves what waits at its end, or leaves the inbound places as they are. -/
theorem exec_caughtUp (c : Instr) (s t : State) (he : exec c s = .next t) (hs : s.caughtUp) : t.caughtUp := by
  have same : ∀ u : State, u.work.hlu.inbound = s.work.hlu.inbound → u.finish.caughtUp := fun u hu =>
    State.finish_caughtUp (State.caughtUp_congr hu hs)
  have work : ∀ f : Work → Work, (f s.work).hlu.inbound = s.work.hlu.inbound → (s.mapWork f).finish.caughtUp := fun f hf =>
    same _ hf
  have served : ∀ u : State, u.serveWaiting.finish.caughtUp := fun u => State.finish_caughtUp (serveWaiting_ends u)
  cases hq : requestOf c with
  | some p =>
    rw [exec_request hq] at he
    cases he
    exact served _
  | none =>
    cases c with
    | powerOn => cases he; exact State.finish_caughtUp rfl
    | hostFrame bs => cases he; exact served _
    | frameTimeout => cases he; exact same _ (Hlu.timeOut_inbound _)
    | hostFrameSent => cases he; exact served _
    | secondEvent => cases he; exact same _ (State.takeSecond_inbound s)
    | edge n v => cases he; exact same _ (State.edge_inbound n.val v s)
    | syncLost => cases he; exact same _ (State.losePulses_inbound s)
    | lockoutEnd n => cases he; exact same _ rfl
    | departingTimerEnd key => cases he; exact work _ (Work.timerEnds_inbound ..)
    | pageExpiry n => cases he; exact work _ (kept_inbound (Work.expirePage_kept ..))
    | flashEnd key => cases he; exact work _ (kept_inbound (Work.endFlash_kept ..))
    | wallFrameSent n => cases he; exact same _ rfl
    | moduleReply n r => cases he; exact work _ (Work.moduleReply_inbound ..)
    | replyTimeout n => cases he; exact work _ (Work.replyTimeout_inbound ..)
    | watchExpiry i => cases he; exact work _ (kept_inbound (Work.expireSlot_kept ..))
    | watchCount i => cases he; exact work _ (kept_inbound (Work.reachSlot_kept ..))
    | endOfTransmission => cases he; exact work _ (Work.cueSent_inbound ..)
    | acceptWindowEnd => cases he; exact work _ (Work.acceptEnd_inbound ..)
    | maximumPlayTimeEnd => cases he; exact work _ (Work.playEnd_inbound ..)
    | resumeDelayEnd => cases he; exact work _ (Work.resumeDelayEnds_inbound ..)
    | impulseEnd n => cases he; exact served _
    | gapEnd n => cases he; exact same _ rfl
    | feedLost => cases he; exact work _ (Work.feedEnds_inbound ..)
    | filterSample n v => cases he; exact same _ (State.sample_inbound n.val v s)
    | _ => cases hq

/-- Settles O60: every act keeps the bounds, and every command that lets a request come to its turn serves it. -/
theorem queuesKeepTheirBounds : Obligations.QueuesKeepTheirBounds := by
  intro s t hstep
  refine ⟨fun hs => bounds_kept.step s t (fun _ _ => trivial) hs hstep, fun hs => ?_⟩
  cases hp : s.pending with
  | nil =>
    rw [Machine.step, hp] at hstep
    rw [← Host.Outcome.next.inj hstep]
    exact State.finish_caughtUp (serveWaiting_ends _)
  | cons c cs =>
    rw [Machine.step, hp] at hstep
    exact exec_caughtUp c { s with pending := cs } t hstep hs

end Sys2Proof.Machine
end

section
/-!
PROOF. What the Cue Controller and the Board Composer leave as it is: the records but for their confirmation sets, and the
Notice Rule Engine.
-/

namespace Sys2Proof.Machine

/-! ### The Cue Controller -/

/-- The Cue Controller at work: the other blocks stay, but for the reports. -/
structure Work.CuesOnly (w u : Work) : Prop where
  svt : u.svt = w.svt
  bcp : u.bcp = w.bcp
  wsc : u.wsc = w.wsc
  nre : u.nre = w.nre

theorem cuesOnly_refl (w : Work) : w.CuesOnly w := ⟨rfl, rfl, rfl, rfl⟩

theorem Work.CuesOnly.after {w v u : Work} (k : v.CuesOnly u) (h : w.CuesOnly v) : w.CuesOnly u :=
  ⟨k.svt.trans h.svt, k.bcp.trans h.bcp, k.wsc.trans h.wsc, k.nre.trans h.nre⟩

theorem cuesOnly_raise (r : ReportBody) (w : Work) : w.CuesOnly (w.raise r) := ⟨rfl, rfl, rfl, rfl⟩

theorem cuesOnly_mapCuc (f : Cuc → Cuc) (w : Work) : w.CuesOnly (w.mapCuc f) := ⟨rfl, rfl, rfl, rfl⟩

theorem cuesOnly_foldl {α : Type} {f : Work → α → Work} (h : ∀ w a, Work.CuesOnly w (f w a)) (l : List α) (w : Work) :
    w.CuesOnly (l.foldl f w) := by
  induction l generalizing w with
  | nil => exact cuesOnly_refl w
  | cons a l ih => exact (ih _).after (h w a)

theorem cuesOnly_dropEntry (e : CueEntry) (r : DropReason) (w : Work) : w.CuesOnly (w.dropEntry e r) :=
  (cuesOnly_raise _ _).after (cuesOnly_mapCuc (Cuc.free e.seq) w)

theorem cuesOnly_dropWaiting (p : CueEntry → Bool) (r : DropReason) (w : Work) : w.CuesOnly (w.dropWaiting p r) :=
  cuesOnly_foldl (fun w e => cuesOnly_dropEntry e r w) _ w

theorem cuesOnly_select (b : Base) (w : Work) : w.CuesOnly (w.select b) := by
  have take : ∀ e w, Work.CuesOnly w (w.takeEntry b e) := by
    intro e w
    unfold Work.takeEntry
    split
    · exact cuesOnly_dropEntry ..
    · split
      · exact cuesOnly_mapCuc ..
      · split
        · exact cuesOnly_dropEntry ..
        · exact cuesOnly_mapCuc ..
  have many : ∀ es w, Work.CuesOnly w (Work.selectFrom b es w) := by
    intro es
    induction es with
    | nil => exact cuesOnly_refl
    | cons e es ih =>
      intro w
      unfold Work.selectFrom
      split
      · exact (ih _).after (take e w)
      · exact cuesOnly_refl w
  unfold Work.select
  split
  · exact many ..
  · exact cuesOnly_refl w

theorem cuesOnly_enqueue (b : Base) (n : Nat) (key : Option Key) (src : CueSource) (w : Work) :
    w.CuesOnly (w.enqueue b n key src).1 := by
  have refused := fun r => (cuesOnly_select b _).after (cuesOnly_raise (refusal n key src r) w)
  have admitted : ∀ tm (v : Work), v.CuesOnly ((v.enqueueNew b n key src tm (key.bind w.svt.find)).select b) := fun tm v =>
    (cuesOnly_select b _).after ⟨rfl, rfl, rfl, rfl⟩
  unfold Work.enqueue
  dsimp only
  split
  · exact refused _
  · split
    · exact refused _
    · next tm _ =>
      split
      · exact (cuesOnly_select b _).after (cuesOnly_mapCuc ..)
      · split
        · exact refused _
        · split
          · exact admitted tm w
          · split
            · next e _ =>
              by_cases hp : e.priority < (if src = .override then 8 else tm.priority)
              · rw [if_pos hp]
                exact (admitted tm _).after (cuesOnly_dropEntry ..)
              · rw [if_neg hp]
                exact refused _
            · exact refused _

theorem cuesOnly_withdraw (b : Base) (p : CueEntry → Bool) (w : Work) : w.CuesOnly (w.withdraw b p) :=
  (cuesOnly_select b _).after (cuesOnly_mapCuc _ w)

/-! ### The Board Composer -/

/-- Offers and derivations of rows: the Service Table, the rules, the cues and the link stay. -/
structure Work.WallOnly (w u : Work) : Prop where
  svt : u.svt = w.svt
  nre : u.nre = w.nre
  cuc : u.cuc = w.cuc
  hlu : u.hlu = w.hlu

theorem wallOnly_offer (b : Base) (s a : Nat) (c : RowContent) (w : Work) : w.WallOnly (w.offer b s a c).1 := by
  unfold Work.offer
  dsimp only
  split <;> exact ⟨rfl, rfl, rfl, rfl⟩

theorem wallOnly_moves : WallMoves Work.WallOnly where
  refl _ := ⟨rfl, rfl, rfl, rfl⟩
  trans h k := ⟨k.svt.trans h.svt, k.nre.trans h.nre, k.cuc.trans h.cuc, k.hlu.trans h.hlu⟩
  offer := wallOnly_offer
  cell _ _ _ _ _ := ⟨rfl, rfl, rfl, rfl⟩
  board _ _ _ _ := ⟨rfl, rfl, rfl, rfl⟩

/-- The Service Table without the confirmation sets. -/
def Svt.unconfirmed (v : Svt) : Svt := { v with services := v.services.map fun x => { x with conf := [] } }

/-- A derivation: the Service Table but for the confirmation sets, and the rules, stay. -/
structure Work.DeriveOnly (w u : Work) : Prop where
  svt : u.svt.unconfirmed = w.svt.unconfirmed
  nre : u.nre = w.nre

theorem deriveOnly_refl (w : Work) : w.DeriveOnly w := ⟨rfl, rfl⟩

theorem Work.DeriveOnly.after {w v u : Work} (k : v.DeriveOnly u) (h : w.DeriveOnly v) : w.DeriveOnly u :=
  ⟨k.svt.trans h.svt, k.nre.trans h.nre⟩

theorem Work.CuesOnly.derive {w u : Work} (h : w.CuesOnly u) : w.DeriveOnly u := ⟨by rw [h.svt], h.nre⟩

theorem Work.WallOnly.derive {w u : Work} (h : w.WallOnly u) : w.DeriveOnly u := ⟨by rw [h.svt], h.nre⟩

theorem deriveOnly_storeConfirmations (w : Work) : w.DeriveOnly w.storeConfirmations :=
  ⟨by simp only [Svt.unconfirmed, Work.storeConfirmations, List.map_map, Function.comp_def], rfl⟩

theorem deriveOnly_moves : DeriveMoves Work.DeriveOnly where
  refl := deriveOnly_refl
  trans h k := k.after h
  offer b s a c w := (wallOnly_offer b s a c w).derive
  cell _ _ _ _ _ := ⟨rfl, rfl⟩
  board _ _ _ _ := ⟨rfl, rfl⟩
  conf := deriveOnly_storeConfirmations
  confirm _ _ _ w := (cuesOnly_mapCuc _ w).derive
  select b w := (cuesOnly_select b w).derive

/-- What is read from the records apart from the confirmation sets stays through a derivation. -/
theorem Work.DeriveOnly.services_map {w u : Work} (h : w.DeriveOnly u) {α : Type} {g : Service → α}
    (hg : ∀ x, g { x with conf := [] } = g x) : u.svt.services.map g = w.svt.services.map g := by
  have key : ∀ v : Svt, v.unconfirmed.services.map g = v.services.map g := fun v => by
    rw [Svt.unconfirmed, List.map_map]
    exact List.map_congr_left fun x _ => hg x
  rw [← key, h.svt, key]

theorem Work.DeriveOnly.heldView {w u : Work} (h : w.DeriveOnly u) : u.svt.heldView = w.svt.heldView :=
  h.services_map fun _ => rfl

end Sys2Proof.Machine
end

section
/-!
PROOF. The watch slots through evaluations and removals (R110, R112, R113, R124, R125): each bound slot keeps a HEAD in its
service's held set, and no pair has two.
-/

namespace Sys2Proof.Machine

/-! ### The invariant by what it reads -/

/-- R19, R124: the invariant of the watch slots, by the keys with their held sets and the slots. -/
structure WatchView (hs : List (Key × List Nat)) (slots : List (Option Slot)) : Prop where
  keys : (hs.map Prod.fst).Nodup
  records : hs.length ≤ Config.maxServices
  count : slots.length = Config.slotCount
  bound : ∀ (i : Nat) (x : Slot), slots[i]? = some (some x) → ∃ p ∈ hs, p.1 = x.key ∧ x.head ∈ p.2
  single : ∀ (i j : Nat) (x y : Slot), slots[i]? = some (some x) → slots[j]? = some (some y) → x.head = y.head →
    x.key = y.key → i = j

theorem Svt.heldView_keys (v : Svt) : v.heldView.map Prod.fst = v.services.map Service.key := by
  rw [Svt.heldView, List.map_map]
  rfl

theorem watchInv_iff (w : Work) : w.watchInv ↔ WatchView w.svt.heldView w.nre.slots := by
  have bound : ∀ x : Slot, (∃ y ∈ w.svt.services, y.key = x.key ∧ x.head ∈ y.held) ↔
      ∃ p ∈ w.svt.heldView, p.1 = x.key ∧ x.head ∈ p.2 := fun x => by
    simp only [Svt.heldView, List.mem_map, exists_exists_and_eq_and]
  constructor
  · rintro ⟨h1, h2, h3, h4, h5⟩
    exact ⟨by rw [Svt.heldView_keys]; exact h1, by rw [Svt.heldView, List.length_map]; exact h2, h3,
      fun i x hx => (bound x).mp (h4 i x hx), h5⟩
  · rintro ⟨h1, h2, h3, h4, h5⟩
    exact ⟨by rw [← Svt.heldView_keys]; exact h1, by rw [Svt.heldView, List.length_map] at h2; exact h2, h3,
      fun i x hx => (bound x).mpr (h4 i x hx), h5⟩

/-- Slots freed, or with another mode, keep the invariant. -/
theorem WatchView.of_slotsFrom {hs : List (Key × List Nat)} {old new : List (Option Slot)} (h : WatchView hs old)
    (hn : SlotsFrom old new) : WatchView hs new := by
  refine ⟨h.keys, h.records, hn.1.trans h.count, fun i x hx => ?_, fun i j x y hx hy hh hk => ?_⟩
  · obtain ⟨y, hy, hyh, hyk⟩ := hn.2 i x hx
    obtain ⟨p, hp, hpk, hph⟩ := h.bound i y hy
    exact ⟨p, hp, hpk.trans hyk, hyh ▸ hph⟩
  · obtain ⟨x', hx', hxh, hxk⟩ := hn.2 i x hx
    obtain ⟨y', hy', hyh, hyk⟩ := hn.2 j y hy
    exact h.single i j x' y' hx' hy' (hxh.trans (hh.trans hyh.symm)) (hxk.trans (hk.trans hyk.symm))

/-- The keys stay, and no held set loses a HEAD that a slot is bound to. -/
theorem WatchView.of_held {hs : List (Key × List Nat)} {slots : List (Option Slot)} {f : Key × List Nat → Key × List Nat}
    (h : WatchView hs slots) (hf : ∀ p, (f p).1 = p.1)
    (hb : ∀ p ∈ hs, ∀ x, some x ∈ slots → p.1 = x.key → x.head ∈ p.2 → x.head ∈ (f p).2) : WatchView (hs.map f) slots := by
  refine ⟨?_, by rw [List.length_map]; exact h.records, h.count, fun i x hx => ?_, h.single⟩
  · have same : (hs.map f).map Prod.fst = hs.map Prod.fst := by
      rw [List.map_map]
      exact List.map_congr_left fun p _ => hf p
    exact same ▸ h.keys
  · obtain ⟨p, hp, hpk, hph⟩ := h.bound i x hx
    exact ⟨f p, List.mem_map.mpr ⟨p, hp, rfl⟩, (hf p).trans hpk, hb p hp x (List.mem_of_getElem? hx) hpk hph⟩

/-- R125: a slot bound to a held pair that no other slot has. -/
theorem WatchView.start {hs : List (Key × List Nat)} {slots : List (Option Slot)} {i : Nat} {x : Slot} (h : WatchView hs slots)
    (hheld : ∃ p ∈ hs, p.1 = x.key ∧ x.head ∈ p.2) (hnew : ∀ y, some y ∈ slots → y.key = x.key → y.head ≠ x.head) :
    WatchView hs (slots.set i (some x)) := by
  have other : ∀ (j : Nat) (y : Slot), (slots.set i (some x))[j]? = some (some y) →
      (j = i ∧ y = x) ∨ (j ≠ i ∧ slots[j]? = some (some y)) := by
    intro j y hj
    rw [List.getElem?_set] at hj
    split at hj
    · next hij =>
      split at hj
      · exact .inl ⟨hij.symm, (Option.some.inj (Option.some.inj hj)).symm⟩
      · cases hj
    · next hij => exact .inr ⟨fun hji => hij hji.symm, hj⟩
  refine ⟨h.keys, h.records, by rw [List.length_set]; exact h.count, fun j y hy => ?_, fun j k y z hy hz hh hk => ?_⟩
  · rcases other j y hy with ⟨-, rfl⟩ | ⟨-, hy⟩
    · exact hheld
    · exact h.bound j y hy
  · rcases other j y hy with ⟨hj, rfl⟩ | ⟨-, hy'⟩
    · rcases other k z hz with ⟨hk', -⟩ | ⟨-, hz'⟩
      · exact hj.trans hk'.symm
      · exact absurd hh.symm (hnew z (List.mem_of_getElem? hz') hk.symm)
    · rcases other k z hz with ⟨-, rfl⟩ | ⟨-, hz'⟩
      · exact absurd hh (hnew y (List.mem_of_getElem? hy') hk)
      · exact h.single j k y z hy' hz' hh hk

/-! ### Edges (R112, R113, R125) -/

/-- What leaves records and slots to the invariant. -/
structure Work.SameWatch (w u : Work) : Prop where
  held : u.svt.heldView = w.svt.heldView
  slots : u.nre.slots = w.nre.slots

theorem Work.SameWatch.inv {w u : Work} (h : w.SameWatch u) (hw : w.watchInv) : u.watchInv := by
  rw [watchInv_iff, h.held, h.slots, ← watchInv_iff]
  exact hw

theorem Work.DeriveOnly.sameWatch {w u : Work} (h : w.DeriveOnly u) : w.SameWatch u := ⟨h.heldView, by rw [h.nre]⟩

theorem Work.CuesOnly.sameWatch {w u : Work} (h : w.CuesOnly u) : w.SameWatch u := h.derive.sameWatch

/-- The held sets after a HEAD has risen for a service. -/
def withHead (h : Nat) (key : Key) (p : Key × List Nat) : Key × List Nat := if p.1 == key then (p.1, insertNat h p.2) else p

/-- The held sets after a HEAD has fallen for a service. -/
def withoutHead (h : Nat) (key : Key) (p : Key × List Nat) : Key × List Nat :=
  if p.1 == key then (p.1, p.2.filter (· != h)) else p

theorem mem_insertNat {n m : Nat} {l : List Nat} : m ∈ insertNat n l ↔ m = n ∨ m ∈ l := by
  induction l with
  | nil => simp [insertNat]
  | cons a l ih =>
    unfold insertNat
    split
    · simp
    · split
      · next h => subst h; simp
      · simp [ih, or_left_comm]

theorem Svt.heldView_held (key : Key) (g : List Nat → List Nat) (v : Svt) :
    (v.update key fun x => { x with held := g x.held }).heldView =
      v.heldView.map fun p => if p.1 == key then (p.1, g p.2) else p := by
  unfold Svt.heldView Svt.update
  rw [List.map_map, List.map_map]
  refine List.map_congr_left fun x _ => ?_
  simp only [Function.comp]
  split <;> rfl

/-- R113: what a falling edge does beside the held set. -/
theorem releaseHead_view (b : Base) (key : Key) (h : Nat) (w : Work) : (w.releaseHead b key h).svt = w.svt ∧
    (w.releaseHead b key h).nre = w.nre.freeSlots fun s => s.head == h && s.key == key := by
  unfold Work.releaseHead
  dsimp only
  split
  · next c _ =>
    have k := cuesOnly_withdraw b (CueEntry.hasKey c (some key)) (w.mapNre (Nre.freeSlots fun s => s.head == h && s.key == key))
    exact ⟨k.svt, k.nre⟩
  · exact ⟨rfl, rfl⟩

/-- R113: a falling edge and what it leaves. -/
theorem fallEdge_view (b : Base) (key : Key) (w : Work) (h : Nat) :
    (w.fallEdge b key h).svt.heldView = w.svt.heldView.map (withoutHead h key) ∧
      (w.fallEdge b key h).nre = w.nre.freeSlots fun s => s.head == h && s.key == key := by
  unfold Work.fallEdge
  rw [(releaseHead_view ..).1, (releaseHead_view ..).2]
  exact ⟨Svt.heldView_held key _ w.svt, rfl⟩

theorem fallEdge_watchInv (b : Base) (key : Key) (h : Nat) {w : Work} (hw : w.watchInv) : (w.fallEdge b key h).watchInv := by
  obtain ⟨hheld, hnre⟩ := fallEdge_view b key w h
  rw [watchInv_iff] at hw ⊢
  rw [hheld, hnre]
  refine (hw.of_slotsFrom (slotsFrom_free _ _)).of_held (fun p => ?_) fun p _ x hx hpk hph => ?_
  · unfold withoutHead
    split <;> rfl
  · obtain ⟨s, hs, hsx⟩ := List.mem_map.mp hx
    unfold withoutHead
    split
    · next hkey =>
      have hne : x.head ≠ h := by
        rintro rfl
        rw [hpk] at hkey
        cases s with
        | none => cases hsx
        | some y =>
          dsimp only at hsx
          split at hsx
          · cases hsx
          · next hy =>
            cases hsx
            simp [hkey] at hy
      exact List.mem_filter.mpr ⟨hph, by simpa using hne⟩
    · exact hph

/-- R112: a rising edge and what it leaves to the records; a WATCH action may start a slot. -/
theorem riseEdge_view (b : Base) (loud : Bool) (key : Key) (w : Work) (h : Nat) {r : Rule} (hr : w.nre.rule h = some r) :
    (w.riseEdge b loud key h).svt.heldView = w.svt.heldView.map (withHead h key) ∧
      ((w.riseEdge b loud key h).nre = w.nre ∨
        ∃ i wt, (w.riseEdge b loud key h).nre = { w.nre with slots := w.nre.slots.set i (some (newSlot h key wt)) }) := by
  have actions : ∀ v : Work, v.CuesOnly (if loud && r.report then
      (if loud then (match r.cue with | some c => (v.enqueue b c (some key) (.rule h)).1 | none => v) else v).raise
        (.ruleHolds h r.priority key b.tbs.t)
      else if loud then (match r.cue with | some c => (v.enqueue b c (some key) (.rule h)).1 | none => v) else v) := by
    intro v
    have asked : v.CuesOnly (if loud then (match r.cue with | some c => (v.enqueue b c (some key) (.rule h)).1 | none => v) else v) := by
      split
      · split
        · exact cuesOnly_enqueue ..
        · exact cuesOnly_refl v
      · exact cuesOnly_refl v
    split
    · exact (cuesOnly_raise _ _).after asked
    · exact asked
  have started : ∀ v u : Work, v.CuesOnly u → v.svt = w.svt.update key (fun x => { x with held := insertNat h x.held }) →
      (v.nre = w.nre ∨ ∃ i wt, v.nre = { w.nre with slots := w.nre.slots.set i (some (newSlot h key wt)) }) →
      u.svt.heldView = w.svt.heldView.map (withHead h key) ∧
        (u.nre = w.nre ∨ ∃ i wt, u.nre = { w.nre with slots := w.nre.slots.set i (some (newSlot h key wt)) }) := by
    intro v u k hsvt hnre
    rw [k.svt, k.nre, hsvt]
    exact ⟨Svt.heldView_held key _ w.svt, hnre⟩
  unfold Work.riseEdge
  rw [hr]
  dsimp only
  cases r.watch with
  | none => exact started _ _ (actions _) rfl (.inl rfl)
  | some wt =>
    refine started _ _ (actions ((w.updateService key fun x => { x with held := insertNat h x.held }).startWatch h key wt)) ?_ ?_
    · unfold Work.startWatch
      split <;> rfl
    · unfold Work.startWatch
      split
      · next i _ => exact .inr ⟨i, wt, rfl⟩
      · exact .inl rfl

/-- Whether a service does not hold a HEAD. -/
def Work.lacks (key : Key) (h : Nat) (w : Work) : Prop := ∀ p ∈ w.svt.heldView, p.1 = key → h ∉ p.2

theorem newSlot_pair (h : Nat) (key : Key) (wt : Watch) : (newSlot h key wt).head = h ∧ (newSlot h key wt).key = key := by
  cases wt <;> exact ⟨rfl, rfl⟩

theorem riseEdge_watchInv (b : Base) (loud : Bool) {key : Key} {h : Nat} {w : Work} (hw : w.watchInv)
    (hkey : ∃ p ∈ w.svt.heldView, p.1 = key) (hl : w.lacks key h) : (w.riseEdge b loud key h).watchInv := by
  cases hr : w.nre.rule h with
  | none =>
    unfold Work.riseEdge
    rw [hr]
    exact hw
  | some r =>
    obtain ⟨hheld, hnre⟩ := riseEdge_view b loud key w h hr
    rw [watchInv_iff] at hw ⊢
    rw [hheld]
    have kept : WatchView (w.svt.heldView.map (withHead h key)) w.nre.slots :=
      hw.of_held (fun p => by unfold withHead; split <;> rfl) fun p _ x _ _ hx => by
        unfold withHead
        split
        · exact mem_insertNat.mpr (.inr hx)
        · exact hx
    rcases hnre with hn | ⟨i, wt, hn⟩
    · rw [hn]
      exact kept
    · rw [hn]
      obtain ⟨hnh, hnk⟩ := newSlot_pair h key wt
      refine kept.start ?_ fun y hy hyk => ?_
      · obtain ⟨p, hp, rfl⟩ := hkey
        refine ⟨withHead h p.1 p, List.mem_map.mpr ⟨p, hp, rfl⟩, ?_, ?_⟩ <;> simp [withHead, hnh, hnk, mem_insertNat]
      · rw [hnh]
        rintro rfl
        obtain ⟨j, hj⟩ := List.mem_iff_getElem?.mp hy
        obtain ⟨p, hp, hpk, hph⟩ := hw.bound j y hj
        exact hl p hp (hpk.trans (hyk.trans hnk)) hph

end Sys2Proof.Machine
end

section
/-!
PROOF. The watch slots through every step (R19, R110, R124): an evaluation lets each HEAD rise that the service lacks, a removal
frees the slots of its service, and no other act binds a slot or takes a HEAD from a held set.
-/

namespace Sys2Proof.Machine

/-! ### One evaluation (R111) -/

theorem riseEdge_lacks (b : Base) (loud : Bool) {key : Key} {h h' : Nat} (hne : h' ≠ h) {w : Work} (hl : w.lacks key h') :
    (w.riseEdge b loud key h).lacks key h' := by
  cases hr : w.nre.rule h with
  | none =>
    unfold Work.riseEdge
    rw [hr]
    exact hl
  | some r =>
    intro p hp
    rw [(riseEdge_view b loud key w h hr).1] at hp
    obtain ⟨q, hq, rfl⟩ := List.mem_map.mp hp
    unfold withHead
    split
    · intro hk hm
      rcases mem_insertNat.mp hm with rfl | hm
      · exact hne rfl
      · exact hl q hq hk hm
    · exact hl q hq

theorem riseEdge_keys (b : Base) (loud : Bool) (key : Key) (w : Work) (h : Nat) :
    (w.riseEdge b loud key h).svt.heldView.map Prod.fst = w.svt.heldView.map Prod.fst := by
  cases hr : w.nre.rule h with
  | none =>
    unfold Work.riseEdge
    rw [hr]
  | some r =>
    rw [(riseEdge_view b loud key w h hr).1, List.map_map]
    refine List.map_congr_left fun p _ => ?_
    simp only [Function.comp, withHead]
    split <;> rfl

/-- R112: HEADs that a service lacks rise for it, one after the other. -/
theorem riseEdges_watchInv (b : Base) (loud : Bool) (key : Key) {hs : List Nat} (hnd : hs.Nodup) {w : Work} (hw : w.watchInv)
    (hkey : key ∈ w.svt.heldView.map Prod.fst) (hl : ∀ h ∈ hs, w.lacks key h) :
    (hs.foldl (Work.riseEdge b loud key) w).watchInv := by
  induction hs generalizing w with
  | nil => exact hw
  | cons h hs ih =>
    obtain ⟨hh, hnd⟩ := List.nodup_cons.mp hnd
    refine ih hnd (riseEdge_watchInv b loud hw (List.mem_map.mp hkey) (hl h (List.mem_cons_self ..))) ?_ fun h' hh' => ?_
    · rw [riseEdge_keys]
      exact hkey
    · exact riseEdge_lacks b loud (by rintro rfl; exact hh hh') (hl h' (List.mem_cons_of_mem _ hh'))

/-- R113: falling edges leave the keys, and give a service no HEAD. -/
theorem fallEdges_lacks (b : Base) (key : Key) (hs : List Nat) {w : Work} :
    (hs.foldl (Work.fallEdge b key) w).svt.heldView.map Prod.fst = w.svt.heldView.map Prod.fst ∧
      ∀ h', w.lacks key h' → (hs.foldl (Work.fallEdge b key) w).lacks key h' := by
  induction hs generalizing w with
  | nil => exact ⟨rfl, fun _ => id⟩
  | cons h hs ih =>
    obtain ⟨hkeys, hlacks⟩ := ih (w := w.fallEdge b key h)
    have hview := (fallEdge_view b key w h).1
    refine ⟨hkeys.trans ?_, fun h' hl => hlacks h' fun p hp => ?_⟩
    · rw [hview, List.map_map]
      refine List.map_congr_left fun p _ => ?_
      simp only [Function.comp, withoutHead]
      split <;> rfl
    · rw [hview] at hp
      obtain ⟨q, hq, rfl⟩ := List.mem_map.mp hp
      unfold withoutHead
      split
      · exact fun hk hm => hl q hq hk (List.mem_of_mem_filter hm)
      · exact hl q hq

theorem fallEdges_watchInv (b : Base) (key : Key) (hs : List Nat) {w : Work} (hw : w.watchInv) :
    (hs.foldl (Work.fallEdge b key) w).watchInv := by
  induction hs generalizing w with
  | nil => exact hw
  | cons h hs ih => exact ih (fallEdge_watchInv b key h hw)

/-- R111: an evaluation keeps the invariant. -/
theorem evaluate_watchInv (b : Base) (group : Rule → Bool) (loud : Bool) (a c : Int) (key : Key) {w : Work} (hw : w.watchInv) :
    (w.evaluate b group loud a c key).watchInv := by
  unfold Work.evaluate
  split
  · exact hw
  · next x hx =>
    obtain ⟨hmem, hxk⟩ := Svt.find_mem hx
    have hkeys : (w.svt.services.map Service.key).Nodup := hw.1
    obtain ⟨hsame, hlacks⟩ := fallEdges_lacks b key (w.falling b group a c x) (w := w)
    refine riseEdges_watchInv b loud key (List.nodup_range.filter _) (fallEdges_watchInv b key _ hw) ?_ fun h hh => hlacks h ?_
    · rw [hsame]
      exact List.mem_map.mpr ⟨(x.key, x.held), List.mem_map.mpr ⟨x, hmem, rfl⟩, hxk⟩
    · intro p hp hpk
      obtain ⟨y, hy, rfl⟩ := List.mem_map.mp hp
      have hnot := (Bool.and_eq_true_iff.mp (List.mem_filter.mp hh).2).1
      rw [Svt.eq_of_find hkeys hx hy hpk]
      simpa using hnot

/-! ### Removals and creations (R21, R33) -/

/-- R33: what a removal leaves to the held sets and the slots. -/
theorem freeRecord_view (b : Base) (w : Work) (key : Key) {x : Service} (hx : w.svt.find key = some x) :
    (w.freeRecord b key).svt.heldView = w.svt.heldView.filter (fun p => p.1 != key) ∧
      ∃ n : Nre, SlotsFrom w.nre.slots n.slots ∧ (w.freeRecord b key).nre.slots = (n.freeSlots fun s => s.key == key).slots := by
  have released : ∀ (hs : List Nat) (v : Work), (hs.foldl (fun w h => w.releaseHead b key h) v).svt = v.svt ∧
      SlotsFrom v.nre.slots (hs.foldl (fun w h => w.releaseHead b key h) v).nre.slots := by
    intro hs
    induction hs with
    | nil => exact fun v => ⟨rfl, slotsFrom_refl _⟩
    | cons h hs ih =>
      intro v
      obtain ⟨hsvt, hnre⟩ := releaseHead_view b key h v
      obtain ⟨isvt, islots⟩ := ih (v.releaseHead b key h)
      refine ⟨isvt.trans hsvt, slotsFrom_trans ?_ islots⟩
      rw [hnre]
      exact slotsFrom_free ..
  have gone : ∀ (v : Work) only exp extra p,
      (((v.withdraw b fun e => e.key == some key).unlist key).deriveWith b only exp extra p).svt.heldView = v.svt.heldView ∧
      (((v.withdraw b fun e => e.key == some key).unlist key).deriveWith b only exp extra p).nre = v.nre := by
    intro v only exp extra p
    have k := cuesOnly_withdraw b (fun e => e.key == some key) v
    have d := deriveOnly_moves.deriveWith b only exp extra p ((v.withdraw b fun e => e.key == some key).unlist key)
    exact ⟨d.heldView.trans (congrArg Svt.heldView k.svt), d.nre.trans k.nre⟩
  unfold Work.freeRecord
  rw [hx]
  dsimp only
  rw [(gone ..).1, (gone ..).2]
  obtain ⟨hsvt, hslots⟩ := released x.held { w with svt := { w.svt with services := w.svt.services.filter fun y => y.key != key } }
  refine ⟨?_, _, hslots, rfl⟩
  refine (congrArg Svt.heldView hsvt).trans ?_
  rw [Svt.heldView, Svt.heldView, List.filter_map]
  rfl

theorem freeRecord_watchInv (b : Base) (key : Key) {w : Work} (hw : w.watchInv) : (w.freeRecord b key).watchInv := by
  cases hx : w.svt.find key with
  | none =>
    unfold Work.freeRecord
    rw [hx]
    exact hw
  | some x =>
    obtain ⟨hheld, n, hn, hslots⟩ := freeRecord_view b w key hx
    rw [watchInv_iff] at hw ⊢
    rw [hheld, hslots]
    have freed := (hw.of_slotsFrom hn).of_slotsFrom (slotsFrom_free (fun s => s.key == key) n.slots)
    refine ⟨hw.keys.sublist (List.filter_sublist.map _), (List.length_filter_le ..).trans hw.records, freed.count,
      fun i y hy => ?_, freed.single⟩
    obtain ⟨p, hp, hpk, hph⟩ := freed.bound i y hy
    refine ⟨p, List.mem_filter.mpr ⟨hp, ?_⟩, hpk, hph⟩
    rw [show (n.freeSlots fun s => s.key == key).slots = n.slots.map _ from rfl, List.getElem?_map] at hy
    obtain ⟨o, -, ho⟩ := Option.map_eq_some_iff.mp hy
    cases o with
    | none => cases ho
    | some z =>
      dsimp only at ho
      split at ho
      · cases ho
      · next hz =>
        cases ho
        rw [hpk]
        simpa using hz

/-! ### The relation -/

/-- An invariant of the watch slots that holds before holds after. -/
structure Work.KeepsWatch (w u : Work) : Prop where
  keeps : w.watchInv → u.watchInv

theorem Work.KeepsWatch.after {w v u : Work} (k : v.KeepsWatch u) (h : w.KeepsWatch v) : w.KeepsWatch u := ⟨k.keeps ∘ h.keeps⟩

theorem Work.SameWatch.keeps {w u : Work} (h : w.SameWatch u) : w.KeepsWatch u := ⟨h.inv⟩

theorem keepsWatch_of_cues {w u : Work} (h : w.CuesOnly u) : w.KeepsWatch u := h.sameWatch.keeps

theorem watchKept : EventMoves Work.KeepsWatch where
  refl _ := ⟨id⟩
  trans h k := k.after h
  offer b s a c w := (wallOnly_offer b s a c w).derive.sameWatch.keeps
  cell _ _ _ _ _ := Work.SameWatch.keeps ⟨rfl, rfl⟩
  board _ _ _ _ := Work.SameWatch.keeps ⟨rfl, rfl⟩
  conf w := (deriveOnly_storeConfirmations w).sameWatch.keeps
  confirm _ _ _ w := keepsWatch_of_cues (cuesOnly_mapCuc _ w)
  select b w := keepsWatch_of_cues (cuesOnly_select b w)
  records v w h := ⟨fun hw => Work.SameWatch.inv (u := { w with svt := v }) ⟨h hw.1, rfl⟩ hw⟩
  slots n w _ h := ⟨fun hw => (watchInv_iff { w with nre := n }).mpr (((watchInv_iff w).mp hw).of_slotsFrom h)⟩
  raise r w := keepsWatch_of_cues (cuesOnly_raise r w)
  evaluate b group loud a c key _ := ⟨evaluate_watchInv b group loud a c key⟩
  freeRecord b _ key := ⟨freeRecord_watchInv b key⟩

/-- R21: a record created under a key not held, with room for it. -/
theorem createService_watchInv (b : Base) (r : PutReq) {w : Work} (hw : w.watchInv)
    (hkey : r.key ∉ w.svt.heldView.map Prod.fst) (hroom : w.svt.heldView.length < Config.maxServices) :
    (w.createService b r).watchInv := by
  unfold Work.createService
  refine (watchKept.recordChange b r.key _ _).keeps ((watchInv_iff _).mpr ?_)
  have hw := (watchInv_iff w).mp hw
  have hview : Svt.heldView { w.svt with
      services := w.svt.services ++ [newService b.tbs.c0 b.tbs.t (w.svt.counter + 1) r], counter := w.svt.counter + 1 } =
      w.svt.heldView ++ [(r.key, (newService b.tbs.c0 b.tbs.t (w.svt.counter + 1) r).held)] := by
    have hk : (newService b.tbs.c0 b.tbs.t (w.svt.counter + 1) r).key = r.key := rfl
    simp only [Svt.heldView, List.map_append, List.map_cons, List.map_nil, hk]
  dsimp only
  rw [hview]
  refine ⟨?_, ?_, hw.count, fun i x hx => ?_, hw.single⟩
  · rw [List.map_append, List.nodup_append]
    refine ⟨hw.keys, List.nodup_singleton _, fun k hk k' hk' he => hkey ?_⟩
    rw [List.map_singleton, List.mem_singleton] at hk'
    exact (show k = r.key from he.trans hk') ▸ hk
  · rw [List.length_append]
    exact hroom
  · obtain ⟨p, hp, hpk, hph⟩ := hw.bound i x hx
    exact ⟨p, List.mem_append_left _ hp, hpk, hph⟩

theorem Svt.evictee_mem {v : Svt} {t : Int} {x : Service} (h : v.evictee t = some x) : x ∈ v.services := by
  have mem : ∀ {p}, v.ordered.find? p = some x → x ∈ v.services := fun hp =>
    (sortBy_perm ..).mem_iff.mp (List.mem_of_find?_eq_some hp)
  unfold Svt.evictee at h
  split at h
  · next y hy =>
    cases h
    exact mem hy
  · exact mem h

theorem Svt.find_of_mem {v : Svt} {x : Service} (h : x ∈ v.services) : ∃ y, v.find x.key = some y := by
  cases hf : v.find x.key with
  | some y => exact ⟨y, rfl⟩
  | none => exact absurd (List.find?_eq_none.mp hf x h) (by simp)

/-- R20 check 5, R21, R36: a creation keeps the invariant, after an eviction at a full table. -/
theorem putNew_watchInv {b : Base} {r : PutReq} {w u : Work} (hnone : w.svt.find r.key = none) (h : w.putNew b r = some u)
    (hw : w.watchInv) : u.watchInv := by
  have hkey : r.key ∉ w.svt.heldView.map Prod.fst := by
    rw [Svt.heldView_keys]
    intro hm
    obtain ⟨y, hy, hyk⟩ := List.mem_map.mp hm
    obtain ⟨z, hz⟩ := Svt.find_of_mem hy
    rw [hyk, hnone] at hz
    cases hz
  unfold Work.putNew at h
  split at h
  · next hroom =>
    rw [← Option.some.inj h]
    exact createService_watchInv b r hw hkey ((List.length_map ..).trans_lt hroom)
  · obtain ⟨x, hx, rfl⟩ := Option.map_eq_some_iff.mp h
    have hmem := Svt.evictee_mem hx
    obtain ⟨y, hy⟩ := Svt.find_of_mem hmem
    have hview : (w.evict b x).svt.heldView = w.svt.heldView.filter fun p => p.1 != x.key := (freeRecord_view b w x.key hy).1
    refine createService_watchInv b r ((watchKept.raise _ _).keeps (freeRecord_watchInv b x.key hw)) ?_ ?_
    · rw [hview]
      exact fun hm => hkey ((List.filter_sublist.map Prod.fst).subset hm)
    · rw [hview]
      exact (List.length_filter_lt_length_iff_exists.mpr ⟨(x.key, x.held), List.mem_map.mpr ⟨x, hmem, rfl⟩, by simp⟩).trans_le
        ((watchInv_iff w).mp hw).records

theorem keepsWatch_loadRule (b : Base) (n : Nat) (r : Option Rule) (w : Work) : w.KeepsWatch (w.loadRule b n r) := by
  have noted : ∀ (keys : List Key) (p : Work × Told), p.1.KeepsWatch (keys.foldl (Work.evaluateNoting b) p).1 := by
    intro keys
    induction keys with
    | nil => exact fun p => watchKept.refl _
    | cons key keys ih => exact fun p => (ih (Work.evaluateNoting b p key)).after (watchKept.evaluate ..)
  have fallen : ∀ keys : List Key, w.KeepsWatch (keys.foldl (fun w k => w.fallEdge b k n) w) := fun keys =>
    watchKept.foldl (fun w k => ⟨fallEdge_watchInv b k n⟩) _ w
  have stored : ∀ v : Work, v.KeepsWatch (v.mapNre fun e => { e with rules := e.rules.set n r }) := fun _ =>
    Work.SameWatch.keeps ⟨rfl, rfl⟩
  unfold Work.loadRule
  dsimp only
  exact (watchKept.tell b _ _).after ((noted _ (_, _)).after ((stored _).after (fallen (w.holdersOf n))))

theorem cleared_watchInv {w : Work} (hw : w.watchInv) :
    (Work.clearNotices { w with svt := { w.svt with services := [] } }).watchInv := by
  rw [watchInv_iff] at hw ⊢
  refine ⟨.nil, Nat.zero_le _, (List.length_map ..).trans hw.count, fun i x hx => ?_,
    (hw.of_slotsFrom (slotsFrom_free (fun _ => true) _)).single⟩
  obtain ⟨o, -, ho⟩ := Option.map_eq_some_iff.mp ((List.getElem?_map (l := w.nre.slots)).symm.trans hx)
  cases o <;> cases ho

theorem watchMoves : WorkMoves Work.KeepsWatch where
  toEventMoves := watchKept
  cues _ := keepsWatch_of_cues (cuesOnly_mapCuc ..)
  strings _ := Work.SameWatch.keeps ⟨rfl, rfl⟩
  rows _ _ := Work.SameWatch.keeps ⟨rfl, rfl⟩
  link _ := Work.SameWatch.keeps ⟨rfl, rfl⟩
  enqueue b n key src w := keepsWatch_of_cues (cuesOnly_enqueue b n key src w)
  loadRule := keepsWatch_loadRule
  putNew hnone h := ⟨putNew_watchInv hnone h⟩
  cleared _ := ⟨cleared_watchInv⟩

theorem poweredOn_watchInv (s : State) : s.poweredOn.work.watchInv := by
  have free : ∀ (i : Nat) (x : Slot), (List.replicate Config.slotCount (none : Option Slot))[i]? = some (some x) → False :=
    fun i x hx => by cases List.eq_of_mem_replicate (List.mem_of_getElem? hx)
  exact ⟨.nil, Nat.zero_le _, List.length_replicate, fun i x hx => (free i x hx).elim, fun i j x _ hx => (free i x hx).elim⟩

/-- Settles O32: every act keeps the invariant of the watch slots. -/
theorem watchSlotsFollowHeldRules : Obligations.WatchSlotsFollowHeldRules := fun s t hs hstep =>
  (watchMoves.kept (fun h => h.keeps) poweredOn_watchInv).step s t (fun _ _ => trivial) hs hstep

end Sys2Proof.Machine
end

section
/-!
PROOF. The part as a whole, and the short statements of station time, the strings, the clock lines, the field and the link.
-/

namespace Sys2Proof.Machine

/-! ### The part as a whole -/

/-- No owner writes the elapsed count or the queue of commands. -/
theorem owner_rest (q : Request) (s : State) :
    (Request.owner q s).1.base.elapsed = s.base.elapsed ∧ (Request.owner q s).1.pending = s.pending := by
  have hg := fun r o h => State.guarded_keeps (I := fun u : State => u.base.elapsed = s.base.elapsed ∧ u.pending = s.pending)
    (s := s) (refusal := r) (owner := o) ⟨rfl, rfl⟩ h
  cases hw : writesBeside q with
  | false => exact ⟨congrArg Base.elapsed (owner_beside hw s).base, (owner_beside hw s).pending⟩
  | true =>
    cases q with
    | configureGeneral r =>
      refine hg _ _ fun _ => ?_
      unfold State.applyGeneral
      dsimp only
      split <;> exact ⟨rfl, rfl⟩
    | configureLine n r =>
      refine hg _ _ fun _ => ?_
      exact ⟨(congrArg Base.elapsed (State.configureField_rest n (lineConfigured r) s).1 :),
        (State.configureField_rest n (lineConfigured r) s).2⟩
    | configureClockLine n r =>
      refine hg _ _ fun _ => ?_
      unfold State.applyClock
      split <;> exact ⟨rfl, rfl⟩
    | textLoad items =>
      refine hg _ _ fun _ => ?_
      unfold State.loadTexts
      dsimp only
      split <;> exact ⟨rfl, rfl⟩
    | timeSet h m sec ms =>
      refine hg _ _ fun _ => ?_
      split
      · exact ⟨rfl, rfl⟩
      · unfold State.stepTime
        dsimp only
        split
        · exact ⟨rfl, rfl⟩
        · have step := State.stepBy_rest (s.base.tbs.stepAmount h m sec ms) .timeSet s
          exact ⟨(congrArg Base.elapsed step.1 :), step.2.1⟩
    | overrideSet on =>
      cases on with
      | none => exact ⟨rfl, rfl⟩
      | some v => exact ⟨(congrArg Base.elapsed (State.force_rest v .forced s).1 :), (State.force_rest v .forced s).2.1⟩
    | status => exact ⟨rfl, rfl⟩
    | _ => cases hw

theorem State.takeEdge_rest (n : Nat) (v : Level) (s : State) :
    (s.takeEdge n v).base.elapsed = s.base.elapsed ∧ (s.takeEdge n v).pending = s.pending := by
  rw [State.takeEdge_eq]
  dsimp only
  split <;> exact ⟨(State.deliverEdge_txs ..).2, State.deliverEdge_pending ..⟩

theorem State.sample_rest (n : Nat) (v : Level) (s : State) :
    (s.sample n v).base.elapsed = s.base.elapsed ∧ (s.sample n v).pending = s.pending := by
  unfold State.sample
  dsimp only
  split
  · exact ⟨rfl, rfl⟩
  · split
    · exact ⟨rfl, rfl⟩
    · split
      · exact State.takeEdge_rest ..
      · exact ⟨rfl, rfl⟩

/-- R3: of what the oscillator brings about, nothing but the millisecond itself moves the elapsed count. -/
theorem elapsed_keptByTick (e : Nat) (cs : List Instr) : KeptByTick fun s => s.base.elapsed = e ∧ s.pending = cs where
  pump _ hs := hs
  serve x s _ hs := State.serve_keeps (I := fun u => u.base.elapsed = e ∧ u.pending = cs)
    (fun q u hu => ⟨(owner_rest q u).1.trans hu.1, (owner_rest q u).2.trans hu.2⟩) (fun _ _ _ hu => hu) x s hs
  sample n v s hs := ⟨(s.sample_rest n v).1.trans hs.1, (s.sample_rest n v).2.trans hs.2⟩
  endLockout _ _ hs := hs
  wallSent _ _ hs := hs
  replyTimeout _ _ hs := hs
  cueSent _ hs := hs
  acceptEnd _ hs := hs
  playEnd _ hs := hs
  endImpulse n s hs := ⟨(congrArg Base.elapsed (s.endImpulse_rest n).1).trans hs.1, (s.endImpulse_rest n).2.1.trans hs.2⟩
  endGap _ _ hs := hs

/-- R4: a second event that is due comes when its second is full: no time is skipped. -/
theorem State.timeDues_elapsed (s : State) : s.timeDues.base.elapsed = s.base.elapsed ∧ s.timeDues.pending = s.pending := by
  have second : (s.takeIf (fun s => s.base.tbs.secondDue) State.takeSecond).base.elapsed = s.base.elapsed ∧
      (s.takeIf (fun s => s.base.tbs.secondDue) State.takeSecond).pending = s.pending := by
    unfold State.takeIf
    split
    · next hdue =>
      have hfull : s.base.tbs.secLen - s.base.tbs.secPos = 0 :=
        Nat.sub_eq_zero_of_le (by simpa using (Bool.and_eq_true_iff.mp hdue).2)
      unfold State.takeSecond
      split
      · rw [(State.secondEvent_rest s).1, (State.secondEvent_rest s).2.1]
        exact ⟨congrArg (s.base.elapsed + ·) hfull, rfl⟩
      · exact ⟨rfl, rfl⟩
    · exact ⟨rfl, rfl⟩
  have rest : ∀ u : State, u.base.elapsed = s.base.elapsed ∧ u.pending = s.pending →
      u.losePulses.base.elapsed = s.base.elapsed ∧ u.losePulses.pending = s.pending := fun u hu => by
    unfold State.losePulses
    split <;> exact hu
  exact State.takeIf_keeps (I := fun u => u.base.elapsed = s.base.elapsed ∧ u.pending = s.pending)
    (f := State.mapHlu Hlu.timeOut) (fun _ hu => hu) _
    (State.takeIf_keeps (I := fun u => u.base.elapsed = s.base.elapsed ∧ u.pending = s.pending) rest _ second)

/-- Settles O57: the front command is run; otherwise a millisecond passes. -/
theorem stepTakesTheFrontCommand : Obligations.StepTakesTheFrontCommand := by
  refine ⟨fun c cs s hp => ?_, fun s hp => ?_⟩
  · rw [Machine.step, hp]
  · refine ⟨s.tick, by rw [Machine.step, hp], ?_⟩
    have due := State.timeDues_elapsed { s with base := s.base.millisecond }
    exact ((elapsed_keptByTick (s.base.elapsed + 1) []).tick s ⟨due.1, due.2.trans hp⟩).symm

/-- Settles O58: the state after power-on, block by block. -/
theorem powerOnSetsTheInitialValues : Obligations.PowerOnSetsTheInitialValues := fun s =>
  ⟨s.poweredOn.finish, rfl, rfl, rfl, rfl, rfl, by
    simp only [State.finish_base, State.poweredOn, Fiu.reset]
    rfl, rfl, rfl, rfl, rfl, rfl, rfl, rfl⟩

/-- Settles O59: the invariants of the state after power-on. -/
theorem invariantsHoldAtReset : Obligations.InvariantsHoldAtReset := by
  refine ⟨?_, ⟨List.length_replicate, fun e he => ?_⟩, ⟨by decide, by decide⟩, poweredOn_watchInv State.reset, ?_, fun l hl => ?_,
    rfl, rfl⟩
  · simp [Timebase.Inv, State.reset, Timebase.reset]
  · rw [List.eq_of_mem_replicate he]
    simp
  · refine ⟨fun u hu => ?_, Nat.zero_le _, .nil, Nat.zero_le _, Nat.zero_le _, Nat.zero_le _⟩
    rw [List.eq_of_mem_replicate hu]
    exact ⟨by decide, .nil, by decide⟩
  · rw [List.eq_of_mem_replicate hl]
    exact ClockLine.reset_inv

/-! ### Station time -/

/-- Settles O1: TIME GET reads the snapshot; in UNSET the invariant makes its values 0. -/
theorem timeGetAnswersTheSnapshot : Obligations.TimeGetAnswersTheSnapshot := by
  intro h s hs hm
  obtain ⟨t, hexec, hread, hreply⟩ := request_reads h .timeGet s (Reply.okWith (.time s.base.tbs.snapshot)) hs
    (owner_fits h .timeGet _ hm)
  refine ⟨t, s.base.tbs.snapshot, hexec, hread, hreply, ?_, fun hinv hunset => ?_⟩
  · cases hst : s.base.tbs.state <;> simp [Timebase.snapshot, Timebase.qualified, hst, Timebase.clockMillis, Timebase.fraction]
  · obtain ⟨ht, hhigh, hpos, hslew⟩ := hinv.2.2.2.2.2.2.2.2.2.2 hunset
    simp [Timebase.snapshot, Timebase.qualified, hunset, Timebase.fraction, ht, hhigh, hpos, hslew]

/-- Settles O6: in LOCKED the loss is taken. -/
theorem syncLostGivesHoldover : Obligations.SyncLostGivesHoldover := by
  intro s hlocked
  refine ⟨s.losePulses.finish, rfl, ?_⟩
  rw [State.losePulses, if_pos hlocked]
  exact ⟨rfl, rfl, rfl, rfl⟩

/-! ### Clock lines and field lines -/

theorem modify_of_getElem? {α : Type} {l : List α} {n : Nat} {x : α} (h : l[n]? = some x) (f : α → α) :
    l.modify n f = l.set n (f x) := by
  rw [List.modify_eq_set_getElem?, h]
  rfl

/-- Settles O41: the gap ends, and a pending impulse of a running line starts. -/
theorem gapEndStartsThePendingImpulse : Obligations.GapEndStartsThePendingImpulse := by
  intro n l due s hl hgap
  refine ⟨(s.endGap n.val).finish, rfl, rfl, rfl, rfl, ?_⟩
  rw [State.finish_scd, State.endGap_scd, modify_of_getElem? hl, ClockLine.gapEnds, hgap]
  simp only [ClockLine.start, true_and]

theorem State.setLine_eq {s : State} {n : Nat} {l : FieldLine} (h : s.base.fiu.lines[n]? = some l) (f : FieldLine → FieldLine) :
    s.setLine n f = { s with base := { s.base with fiu := { s.base.fiu with lines := s.base.fiu.lines.set n (f l) } } } := by
  simp only [State.setLine, State.mapFiu, modify_of_getElem? h]

/-- Settles O46: the sample that agrees, the one that is counted, the third, and the end of a lockout. -/
theorem samplesAndLockouts : Obligations.SamplesAndLockouts := by
  intro n v l s hl
  have hline : s.line n.val = l := State.line_eq hl
  have hlt := (List.getElem?_eq_some_iff.mp hl).1
  have hraw : (s.setLine n.val fun l => { l with raw := v }).base.fiu.lines[n.val]? = some { l with raw := v } := by
    rw [State.setLine_eq hl]
    exact List.getElem?_set_self hlt
  have hline' : (s.setLine n.val fun l => { l with raw := v }).line n.val = { l with raw := v } := State.line_eq hraw
  refine ⟨fun hf hcount => ?_, fun hf hne hthree => ?_, ⟨(s.endLockout n.val).finish, rfl, rfl, rfl, rfl, ?_⟩⟩
  · have hnone : l.filter.isNone = false := by cases hp : l.filter <;> simp_all
    refine ⟨(s.sample n.val v).finish, rfl, ?_⟩
    rw [State.sample, hline, hnone]
    dsimp only
    rw [hline']
    by_cases hv : l.filtered = v
    · rw [if_neg Bool.false_ne_true, if_pos hv, State.setLine_eq hraw, State.setLine_eq hl]
      simp [hv]
    · have hfew : ¬ 3 ≤ l.disagree + 1 := Nat.not_le.mpr (hcount.resolve_left hv)
      rw [if_neg Bool.false_ne_true, if_neg hv, if_neg hfew, State.setLine_eq hraw, State.setLine_eq hl]
      simp [hv]
  · have hnone : l.filter.isNone = false := by cases hp : l.filter <;> simp_all
    have same : s.sample n.val v = s.edge n.val v := by
      rw [State.sample, State.edge, hline, hnone]
      dsimp only
      rw [hline', if_neg Bool.false_ne_true, if_neg hne, if_pos hthree, if_neg hne]
    exact ⟨congrArg (fun u : State => u.done) same, _, rfl⟩
  · rw [State.finish_base, State.endLockout, State.setLine_eq hl]

end Sys2Proof.Machine
end

section
/-!
PROOF. Short statements of the wall strings, the host link, the table order, the departure arithmetic, and the confirmation sets.
-/

namespace Sys2Proof.Machine

/-! ### What stays, read off -/

theorem kept_hlu {w v : Work} (h : w.kept = v.kept) : w.hlu.kept = v.hlu.kept := (congrArg Work.hlu h :)

theorem kept_degraded {w v : Work} (h : w.kept = v.kept) : w.hlu.degraded = v.hlu.degraded :=
  (congrArg Hlu.degraded (kept_hlu h) :)

theorem kept_feedCount {w v : Work} (h : w.kept = v.kept) : w.hlu.feedCount = v.hlu.feedCount :=
  (congrArg Hlu.feedCount (kept_hlu h) :)

theorem kept_mask {w v : Work} (h : w.kept = v.kept) : w.hlu.mask = v.hlu.mask := (congrArg Hlu.mask (kept_hlu h) :)

theorem pump_reports (h : Hlu) : h.pump.reports = h.reports := by rw [pump_work]

theorem pump_kept (h : Hlu) : h.pump.mask = h.mask ∧ h.pump.lost = h.lost ∧ h.pump.feedCount = h.feedCount ∧
    h.pump.degraded = h.degraded ∧ h.pump.feedTimeout = h.feedTimeout := by
  rw [pump_work]
  exact ⟨rfl, rfl, rfl, rfl, rfl⟩

/-- Of the link, the mask and the feed timeout are settled. -/
theorem settled_hlu {w : Work} {h : Hlu} (hm : h.mask = w.hlu.mask) (hf : h.feedTimeout = w.hlu.feedTimeout) :
    ({ w with hlu := h } : Work).settled = w.settled := by
  simp only [Work.settled, Work.kept, hm, hf]

theorem finish_settled (s : State) : s.finish.work.settled = s.work.settled :=
  settled_hlu (pump_kept _).1 (pump_kept _).2.2.2.2

/-- R182: a report raised with room stands in the queue from then on. -/
theorem grows_stands {P : ReportClass → Prop} {w u : Work} {r : ReportBody} (h : (w.raise r).Grows P u)
    (hm : w.hlu.mask.contains r.cls = true) (hroom : w.hlu.reports.length < Config.maxReports) :
    ∃ rep ∈ u.hlu.reports, rep.body = r := by
  obtain ⟨new, hnew, -⟩ := h.reports
  have hraised : (w.raise r).hlu.reports = w.hlu.reports ++ [⟨w.hlu.number + 1, r.cls, r⟩] := by
    rw [Work.raise_hlu, Hlu.raise, if_pos hm, if_pos hroom]
  exact ⟨⟨w.hlu.number + 1, r.cls, r⟩, by rw [hnew, hraised]; simp, rfl⟩

/-! ### Wall strings -/

theorem WallString.frameSent_sending {e due : Nat} {u : WallString} (h : u.activity = .sending due) :
    u.frameSent e = { u with activity := .awaiting (e + 20) } := by
  unfold WallString.frameSent
  rw [h]

/-- R98: what a reply must be to be accepted. -/
theorem WallString.accepts_iff (r : ModReply) (u : WallString) :
    u.accepts r = true ↔ ∃ due f q, u.activity = .awaiting due ∧ u.inFlight = some (f, q) ∧ r.checkGood = true ∧
      r.address = f.address ∧ r.sequence = q := by
  unfold WallString.accepts
  split
  · next due f q hact hfly =>
    constructor
    · intro h
      simp only [Bool.and_eq_true, beq_iff_eq] at h
      exact ⟨due, f, q, hact, hfly, h.1.1, h.1.2, h.2⟩
    · rintro ⟨due', f', q', -, hfly', hgood, haddr, hseq⟩
      cases hfly.symm.trans hfly'
      simp [hgood, haddr, hseq]
  · next hno =>
    refine ⟨fun h => absurd h Bool.false_ne_true, fun ⟨due, f, q, hact, hfly, _⟩ => (hno due f q hact hfly).elim⟩

theorem Work.modify_string {n : Nat} {f g : WallString → WallString} {w : Work} (h : n < w.wsc.length → f (w.string n) = g (w.string n)) :
    w.wsc.modify n f = w.wsc.modify n g := by
  by_cases hn : n < w.wsc.length
  · have hget : w.wsc[n]? = some (w.string n) := by
      rw [Work.string, List.getD_eq_getElem?_getD, List.getElem?_eq_getElem hn]
      rfl
    rw [modify_of_getElem? hget, modify_of_getElem? hget, h hn]
  · rw [List.modify_eq_self (Nat.not_lt.mp hn), List.modify_eq_self (Nat.not_lt.mp hn)]

/-- Settles O27: the frame sent awaits its reply; a reply that is not accepted is stray where the receiver listens. -/
theorem frameSentAwaitsTheReply : Obligations.FrameSentAwaitsTheReply := by
  refine ⟨fun n due s hact => ?_, fun n r s hstray => ?_⟩
  · refine ⟨(s.mapWork (Work.setString n.val (WallString.frameSent s.base.elapsed))).finish, rfl, rfl, rfl, rfl, ?_⟩
    have hw := Work.modify_string (n := n.val) (w := s.work) (f := WallString.frameSent s.base.elapsed)
      (g := fun u => { u with activity := .awaiting (s.base.elapsed + 20) }) fun _ => WallString.frameSent_sending hact
    rw [State.finish_work, State.mapWork_work, Work.setString, hw]
  · refine ⟨(s.mapWork (Work.moduleReply s.base n.val r)).finish, rfl, rfl, rfl, rfl, ?_⟩
    have hno : (s.work.string n.val).accepts r = false := by
      rw [← Bool.not_eq_true, WallString.accepts_iff]
      rintro ⟨due, f, q, hact, hfly, hgood, haddr, hseq⟩
      rcases hstray due f q hact hfly with h | h | h
      · exact absurd hgood (by simp [h])
      · exact h haddr
      · exact h hseq
    rw [State.finish_work, State.mapWork_work, Work.moduleReply, hno]
    cases hact : (s.work.string n.val).activity with
    | sending due => simp [WallString.listening, hact]
    | idle | awaiting due =>
      simp only [WallString.listening, hact, Bool.false_eq_true, if_false, if_true]
      rfl

/-! ### The host link -/

theorem Hlu.timeOut_of_frame {h : Hlu} (hrx : h.rx ≠ .hunt) :
    h.timeOut = { h with rx := .hunt, frameTimeouts := h.frameTimeouts + 1 } := by
  rw [Hlu.timeOut, if_neg hrx]

/-- Settles O50: the time limit of a frame, and the feed timeout, each taken by itself. -/
theorem linkTimeLimits : Obligations.LinkTimeLimits := by
  refine fun s => ⟨fun hrx => ?_, fun hon hnot => ?_⟩
  · refine ⟨(s.mapHlu Hlu.timeOut).finish, rfl, rfl, rfl, rfl, ?_⟩
    rw [State.finish_work, State.mapHlu_work, Hlu.timeOut_of_frame hrx]
  · have hcount : s.work.hlu.counting = true := by simp [Hlu.counting, hon, hnot]
    refine ⟨(s.mapWork (Work.feedEnds s.base)).finish, rfl, rfl, rfl, rfl, ?_⟩
    rw [State.finish_work, State.mapWork_work, Work.feedEnds, hcount, if_pos rfl]
    obtain ⟨-, -, hfc, hdg, -⟩ := pump_kept (Work.loseFeed s.base
      { s.work with hlu := { s.work.hlu with feedCount := s.work.hlu.feedTimeout } }).hlu
    unfold Work.loseFeed at *
    dsimp only at *
    rw [hfc, hdg, Hlu.pump_inbound, pump_reports]
    generalize hv : ({ s.work with hlu :=
      { s.work.hlu with feedCount := s.work.hlu.feedTimeout, degraded := true } } : Work) = v at *
    have kept : ((v.raise (.feedLost s.work.hlu.feedTimeout)).deriveAll s.base).kept = v.kept :=
      (Work.deriveAll_kept ..).trans (Work.raise_kept ..)
    refine ⟨?_, (kept_degraded kept).trans (by rw [← hv]), (kept_feedCount kept).trans (by rw [← hv]),
      (kept_inbound kept).trans (by rw [← hv]), fun hm hroom => ?_⟩
    · have hs : v.settled = s.work.settled := by rw [← hv]; rfl
      rw [← hs, ← kept_settled kept]
      exact settled_hlu (pump_kept _).1 (pump_kept _).2.2.2.2
    · exact grows_stands (Work.derive_grows (P := fun _ => True) trivial s.base _ _) (by rw [← hv]; exact hm) (by rw [← hv]; exact hroom)

end Sys2Proof.Machine
end

section
/-!
PROOF. A request that is ready: what its refusal reads, and what its owner's answer leaves (R180).
-/

namespace Sys2Proof.Machine

/-! ### What is settled, read off -/

theorem settled_svt {w v : Work} (h : w.settled = v.settled) : w.svt.kept = v.svt.kept := (congrArg Work.svt h :)

theorem settled_bcp {w v : Work} (h : w.settled = v.settled) : w.bcp.kept = v.bcp.kept := (congrArg Work.bcp h :)

theorem settled_wsc {w v : Work} (h : w.settled = v.settled) : w.wsc.map WallString.kept = v.wsc.map WallString.kept :=
  (congrArg Work.wsc h :)

theorem settled_nre {w v : Work} (h : w.settled = v.settled) : w.nre.kept = v.nre.kept := (congrArg Work.nre h :)

theorem settled_cuc {w v : Work} (h : w.settled = v.settled) : w.cuc.kept = v.cuc.kept := (congrArg Work.cuc h :)

theorem settled_mask {w v : Work} (h : w.settled = v.settled) : w.hlu.mask = v.hlu.mask :=
  (congrArg (fun k : Work => k.hlu.mask) h :)

theorem settled_feedTimeout {w v : Work} (h : w.settled = v.settled) : w.hlu.feedTimeout = v.hlu.feedTimeout :=
  (congrArg (fun k : Work => k.hlu.feedTimeout) h :)

theorem settled_rule {w v : Work} (h : w.settled = v.settled) (n : Nat) : w.nre.rule n = v.nre.rule n :=
  (congrArg (fun k : Nre => k.rule n) (settled_nre h) :)

theorem settled_template {w v : Work} (h : w.settled = v.settled) (n : Nat) : w.cuc.template n = v.cuc.template n :=
  (congrArg (fun k : Cuc => k.template n) (settled_cuc h) :)

theorem settled_services {w v : Work} (h : w.settled = v.settled) :
    w.svt.services.map Service.core = v.svt.services.map Service.core := (congrArg Svt.services (settled_svt h) :)

theorem find_map_core (key : Key) (l : List Service) :
    (l.map Service.core).find? (fun x => x.key == key) = (l.find? fun x => x.key == key).map Service.core := by
  rw [List.find?_map]
  rfl

/-- The record of a key, but for what rules and boards keep with it. -/
theorem settled_find {w v : Work} (h : w.settled = v.settled) (key : Key) :
    (w.svt.find key).map Service.core = (v.svt.find key).map Service.core := by
  rw [Svt.find, Svt.find, ← find_map_core, ← find_map_core, settled_services h]

theorem settled_find_isNone {w v : Work} (h : w.settled = v.settled) (key : Key) :
    (w.svt.find key).isNone = (v.svt.find key).isNone := by
  have := congrArg Option.isNone (settled_find h key)
  simpa using this

theorem settled_find_none {w v : Work} (h : w.settled = v.settled) {key : Key} (hn : v.svt.find key = none) :
    w.svt.find key = none := by
  have := settled_find h key
  rw [hn] at this
  simpa using this

theorem settled_find_some {w v : Work} (h : w.settled = v.settled) {key : Key} {x : Service} (hx : v.svt.find key = some x) :
    ∃ y, w.svt.find key = some y ∧ y.core = x.core := by
  have := settled_find h key
  rw [hx] at this
  exact Option.map_eq_some_iff.mp this

/-- The record of a board, if it is configured. -/
theorem settled_record {w v : Work} (h : w.settled = v.settled) (n : Nat) :
    (w.board n).map Board.record = (v.board n).map Board.record := by
  have key : ∀ u : Work, (u.board n).map Board.record =
      (u.bcp.kept.boards.getD n none).map Board.record := fun u => by
    simp only [Work.board, Bcp.kept, List.getD_eq_getElem?_getD, List.getElem?_map]
    cases u.bcp.boards[n]? with
    | none => rfl
    | some o => cases o <;> rfl
  rw [key, key, settled_bcp h]

theorem settled_board_isNone {w v : Work} (h : w.settled = v.settled) (n : Nat) : (w.board n).isNone = (v.board n).isNone := by
  have := congrArg Option.isNone (settled_record h n)
  simpa using this

/-! ### Refusals -/

theorem boardMeeting_eq (w : Work) (n : Nat) (x : BoardRec) :
    w.boardMeeting n x = (List.range 16).find? fun m => m != n && ((w.board m).map Board.record).any fun r => r.meets x := by
  unfold Work.boardMeeting
  congr 1
  funext m
  cases w.board m <;> rfl

/-- R180: a refusal reads what is settled, the base and the clock lines. -/
theorem refusalOf_congr {s t : State} (hb : t.base = s.base) (hc : t.scd = s.scd) (hw : t.work.settled = s.work.settled)
    (q : Request) : t.refusalOf q = s.refusalOf q := by
  have hcuc := settled_cuc hw
  have hpending : t.work.cuc.disablePending = s.work.cuc.disablePending := (congrArg Cuc.disablePending hcuc :)
  have hnre := settled_nre hw
  have terms : ∀ (n : Nat) (e : Nre) (r : RuleReq), badTerms n e r = badTerms n e.kept r := fun _ _ _ => rfl
  have holds : ∀ (n : Nat) (e : Nre), e.holdsTerm n = e.kept.holdsTerm n := fun _ _ => rfl
  have listed : ∀ (n : Nat) (e : Nre), e.listedBy n = e.kept.listedBy n := fun _ _ => rfl
  cases q with
  | configureGeneral r =>
    have hsvt := settled_svt hw
    have form : ∀ v : Svt, generalForm v r = generalForm v.kept r := fun _ => rfl
    simp only [State.refusalOf, generalRefusal, form t.work.svt, form s.work.svt, hsvt, hb]
  | configureBoard n r =>
    simp only [State.refusalOf, boardRefusal, boardMeeting_eq, settled_record hw]
  | configureLine n r => simp only [State.refusalOf, lineRefusal, hb]
  | configureClockLine n r => simp only [State.refusalOf, clockRefusal, State.clock, hc]
  | configureCueLink r => simp only [State.refusalOf, cueLinkRefusal, cueLinkState, hpending]
  | servicePut r =>
    have held : ∀ x : Option Service, putHolds x r = putHolds (x.map Service.core) r := fun x => by cases x <;> rfl
    simp only [State.refusalOf, putRefusal, hb, held (t.work.svt.find r.key), held (s.work.svt.find r.key), settled_find hw]
  | serviceDrop key => simp only [State.refusalOf, keyRefusal, settled_find_isNone hw]
  | serviceGet key => simp only [State.refusalOf, keyRefusal, settled_find_isNone hw]
  | serviceList o start =>
    have missing : orderMissing t.work o = orderMissing s.work o := by
      cases o with
      | board b => exact settled_board_isNone hw b
      | _ => rfl
    simp only [State.refusalOf, listRefusal, missing]
  | rulePut n r =>
    change ruleRefusal t n r = ruleRefusal s n r
    unfold ruleRefusal
    rw [terms n t.work.nre, terms n s.work.nre, holds n t.work.nre, holds n s.work.nre, listed n t.work.nre, listed n s.work.nre,
      hnre]
  | ruleDrop n =>
    change ruleDropRefusal t n = ruleDropRefusal s n
    unfold ruleDropRefusal
    rw [settled_rule hw, holds n t.work.nre, holds n s.work.nre, listed n t.work.nre, listed n s.work.nre, hnre]
  | cueAsk n key =>
    simp only [State.refusalOf, askRefusal, askTemplate, hb, settled_template hw, settled_find_isNone hw]
  | boardGet n => simp only [State.refusalOf, boardGetRefusal, settled_board_isNone hw]
  | overrideSet on => cases on <;> rfl
  | configureString | textLoad | templatePut | timeSet | reportMask | identify | timeGet | status | restart => rfl

theorem refusalOf_arrives (h : ReqHead) (r q : Request) (s : State) : (s.arrives h r).refusalOf q = s.refusalOf q :=
  refusalOf_congr (State.arrives_base ..) (State.arrives_scd ..) (arrives_settled h r s) q

/-! ### Answers -/

/-- R180: a request that is not refused is its owner's. -/
theorem guarded_eq {refusal : Option Reply} {owner : State → Served} {s : State} (h : refusal = none) :
    s.guarded refusal owner = owner s := by
  subst h
  rfl

/-- R180: what a request that is ready leaves when its owner answers: the owner's state, the inbound queue and the transmitter
apart. -/
theorem request_answers {h : ReqHead} {q : Request} {s u : State} {rep : Reply} (hr : s.ready) (hm : h.misfit = none)
    (ho : Request.owner q (s.arrives h q) = (u, some rep)) :
    ∃ t, s.request h q = .next t ∧ t.replyTo s.work.hlu.arrivals = some rep ∧ t.base = u.base ∧ t.scd = u.scd ∧
      t.pending = u.pending ∧
      t.work = { u.work with hlu := { u.work.hlu with inbound := t.work.hlu.inbound, tx := t.work.hlu.tx } } := by
  have hfits := owner_fits h q (s.arrives h q) hm
  obtain ⟨t, h1, h2, hb, hs, hp, hw, -, -⟩ := request_served h q s rep hr (by rw [hfits, ho])
    (by rw [hfits]; exact owner_inbound q _)
  rw [hfits, ho] at hb hs hp hw
  exact ⟨t, h1, h2, hb, hs, hp, hw⟩

theorem answers_settled {t u : State}
    (h : t.work = { u.work with hlu := { u.work.hlu with inbound := t.work.hlu.inbound, tx := t.work.hlu.tx } }) :
    t.work.settled = u.work.settled := by
  rw [h]
  exact settled_hlu rfl rfl

end Sys2Proof.Machine
end

section
/-!
PROOF. Short statements of the requests that read, of STATUS and REPORT MASK, of the templates, of the table order, of message times,
and of the confirmation sets.
-/

namespace Sys2Proof.Machine

/-! ### Requests that read (R38, R90, R184) -/

theorem settled_enabled {w v : Work} (h : w.settled = v.settled) (n : Nat) : (w.string n).enabled = (v.string n).enabled := by
  have key : ∀ u : Work, (u.string n).enabled = ((u.wsc.map WallString.kept).getD n WallString.reset).enabled := fun u => by
    simp only [Work.string, List.getD_eq_getElem?_getD, List.getElem?_map]
    cases u.wsc[n]? <;> rfl
  rw [key, key, settled_wsc h]

theorem Work.online_iff {w : Work} {n : Nat} {bd : Board} (h : w.board n = some bd) :
    w.online n = true ↔ bd.record.enabled = true ∧ (w.string bd.record.string).enabled = true := by
  rw [Work.online, h]
  exact Bool.and_eq_true_iff

theorem presentationOf_eq (b : Base) : presentationOf b =
    if b.fiu.override = true then .override else if b.tbs.state = .unset then .startUp else .normal := by
  unfold presentationOf Timebase.qualified
  cases b.fiu.override <;> cases b.tbs.state <;> rfl

/-- R180: a request that its checks do not refuse and that only reads. -/
theorem request_reads_of {h : ReqHead} {q : Request} {s : State} {rep : Reply} (hr : s.ready) (hm : h.misfit = none)
    (ho : Request.owner q (s.arrives h q) = (s.arrives h q, some rep)) :
    ∃ t, s.request h q = .next t ∧ s.onlyRead h q t ∧ t.replyTo s.work.hlu.arrivals = some rep ∧
      t.work = { (s.arrives h q).work with hlu :=
        { (s.arrives h q).work.hlu with inbound := t.work.hlu.inbound, tx := t.work.hlu.tx } } := by
  obtain ⟨t, h1, h2, -, -, -, hw⟩ := request_answers hr hm ho
  obtain ⟨t', h1', hread, -⟩ := request_reads h q s rep hr (by rw [owner_fits h q _ hm, ho])
  cases Host.Outcome.next.inj (h1.symm.trans h1')
  exact ⟨t, h1, hread, h2, hw⟩

theorem keyRefusal_eq_none {s : State} {key : Key} {x : Service} (hk : keyForm key = true) (hx : s.work.svt.find key = some x) :
    keyRefusal s key = none := by simp [keyRefusal, hk, hx]

theorem boardGetRefusal_eq_none {s : State} {n : Nat} {bd : Board} (hn : n < 16) (hb : s.work.board n = some bd) :
    boardGetRefusal s n = none := by
  rw [boardGetRefusal, if_neg (by omega), hb]
  rfl

theorem listRefusal_eq_none {s : State} {o : ListOrder} {start : Nat} (ho : badOrder o = false)
    (hm : orderMissing s.work o = false) (hs : start ≤ 191) : listRefusal s o start = none := by
  rw [listRefusal, hm]
  simp [firstRefusal, badFields, firstFailing, ho, Nat.not_lt.mpr hs]

theorem owner_serviceList {s : State} {o : ListOrder} {start : Nat} (hok : listRefusal s o start = none) :
    Request.owner (.serviceList o start) s =
      (s, some (Reply.okWith (.keys (listKeys s.work o).length start (((listKeys s.work o).drop start).take 32)))) := by
  simp only [Request.owner, ownServiceList, State.guarded, hok]

theorem settled_board_some {w v : Work} (h : w.settled = v.settled) {n : Nat} {y : Board} (hy : v.board n = some y) :
    ∃ bd, w.board n = some bd ∧ bd.record = y.record := by
  have := settled_record h n
  rw [hy] at this
  exact Option.map_eq_some_iff.mp this

/-- Settles O52: each reading request answers with what it reads in the state in which its frame has arrived. -/
theorem readingRequestsAnswer : Obligations.ReadingRequestsAnswer := by
  intro h s hr hm
  refine ⟨?_, fun key y hk hy => ?_, fun start hstart => ?_, fun start n y hstart hn hy => ?_, fun n y hn hy => ?_⟩
  · obtain ⟨t, hexec, hread, hreply, -⟩ := request_reads_of (q := .identify) hr hm rfl
    exact ⟨t, hexec, hread, hreply⟩
  · have hs := arrives_settled h (.serviceGet key) s
    obtain ⟨x, hx, hcore⟩ := settled_find_some hs hy
    have hok : keyRefusal (s.arrives h (.serviceGet key)) key = none := keyRefusal_eq_none hk hx
    obtain ⟨t, hexec, hread, hreply, hw⟩ := request_reads_of (q := .serviceGet key)
      (rep := Reply.okWith (.service (x.view s.base.tbs.c0))) hr hm (by
        simp only [Request.owner, ownServiceGet, State.guarded, hok, hx, Option.map_some, State.arrives_base])
    exact ⟨t, x, hexec, hread, by rw [hw]; exact hx, hcore, hreply⟩
  · obtain ⟨t, hexec, hread, hreply, hw⟩ := request_reads_of (q := .serviceList .table start) hr hm
      (owner_serviceList (listRefusal_eq_none rfl rfl hstart))
    refine ⟨t, hexec, hread, hreply.trans ?_⟩
    have hlen : (s.arrives h (.serviceList .table start)).work.svt.keys.length =
        (s.arrives h (.serviceList .table start)).work.svt.services.length := by
      rw [Svt.keys, List.length_map]
      exact (sortBy_perm ..).length_eq
    rw [hw]
    simp only [listKeys, ← hlen]
    rfl
  · have hs := arrives_settled h (.serviceList (.board n) start) s
    obtain ⟨bd, hbd, hrec⟩ := settled_board_some hs hy
    have hmiss : orderMissing (s.arrives h (.serviceList (.board n) start)).work (.board n) = false := by
      rw [orderMissing, hbd]
      rfl
    have horder : badOrder (.board n) = false := by simp [badOrder]; omega
    obtain ⟨t, hexec, hread, hreply, hw⟩ := request_reads_of (q := .serviceList (.board n) start) hr hm
      (owner_serviceList (listRefusal_eq_none horder hmiss hstart))
    refine ⟨t, _, hexec, hread, hreply, ?_⟩
    have hcell : ∀ i a, t.work.cell i a = (s.arrives h (.serviceList (.board n) start)).work.cell i a := fun _ _ => by rw [hw]; rfl
    simp only [listKeys, hbd, Work.boardKeys, hrec, BoardRec.rowList, List.filterMap_map, hcell]
    congr 1
    funext i
    simp only [Function.comp, Work.rowCell, BoardRec.address]
    cases (Work.cell (s.arrives h (.serviceList (.board n) start)).work y.record.string (y.record.first + (i + 1) - 1)).onWall with
    | none => rfl
    | some c => cases c <;> rfl
  · have hs := arrives_settled h (.boardGet n) s
    obtain ⟨bd, hbd, hrec⟩ := settled_board_some hs hy
    have hok : boardGetRefusal (s.arrives h (.boardGet n)) n = none := boardGetRefusal_eq_none hn hbd
    obtain ⟨t, hexec, hread, hreply, hw⟩ := request_reads_of (q := .boardGet n)
      (rep := Reply.okWith (.board (boardView s.base (s.arrives h (.boardGet n)).work n bd))) hr hm (by
        simp only [Request.owner, ownBoardGet, State.guarded, hok, hbd, Option.map_some, State.arrives_base])
    refine ⟨t, bd, _, hexec, hread, by rw [hw]; exact hbd, hrec, hreply, hrec, ?_, presentationOf_eq s.base, rfl, rfl, rfl, rfl, ?_⟩
    · simp only [boardView]
      rw [Work.online_iff hbd, hrec, settled_enabled hs]
    · simp only [boardView, hrec, BoardRec.rowList, List.map_map]
      rw [hw]
      rfl

/-! ### STATUS and REPORT MASK (R183, R185) -/

theorem arrives_place (h : ReqHead) (q : Request) (s : State) (hr : s.ready) :
    (s.arrives h q).work.hlu.inbound = s.work.hlu.inbound ++ [placeOf h q s] := arrives_inbound h q s hr.1

/-- Settles O53: STATUS reads every section and clears the lost flag, the marks and the peaks. -/
theorem statusAnswersAndClears : Obligations.StatusAnswersAndClears := by
  intro h s hr hm
  obtain ⟨t, h1, h2, hb, hs, hp, hw, htx, hin⟩ := request_served h .status s
    (Reply.okWith (.status (s.arrives h .status).statusView)) hr (by rw [owner_fits h _ _ hm]; rfl)
    (by rw [owner_fits h _ _ hm]; rfl)
  rw [owner_fits h _ _ hm] at hb hs hp hw htx
  refine ⟨t, _, h1, h2, hs, hp, hb, ⟨_, hin, rfl⟩, ?_, ?_, fun u hu => ?_, fun hd => ?_⟩
  · rw [htx]
    exact congrArg (Option.or · _) (arrives_tx h .status s)
  · rw [hw]
    rfl
  · rw [hw] at hu
    obtain ⟨v, -, rfl⟩ := List.mem_map.mp (show u ∈ (s.arrives h .status).work.wsc.map WallString.readPeak from hu)
    rfl
  · have hfresh := arrives_fresh h .status s hr.1 hd
    have hin' := arrives_inbound h .status s hr.1
    refine ⟨by rw [hw]; simp only [Request.owner, ownStatus, State.statusClears_work, hfresh]; rfl, ?_⟩
    have hempty : s.work.svt.services.isEmpty = decide (s.work.svt.services = []) := by
      cases s.work.svt.services <;> rfl
    simp only [State.statusView, State.arrives_base, State.arrives_scd, hfresh, List.length_append, hempty, hd]
    rfl

theorem maskOf_known {cs : List (Option ReportClass)} (h : none ∉ cs) :
    maskOf cs = some (allClasses.filter fun c => cs.contains (some c)) := by
  rw [maskOf, if_neg (by simpa using h)]

theorem mem_allClasses (c : ReportClass) : c ∈ allClasses := by cases c <;> decide

/-- Settles O54: the mask, and what a raise does to it by the three cases of R182. -/
theorem reportMaskBecomesTheSet : Obligations.ReportMaskBecomesTheSet := by
  refine ⟨fun h cs s hr hm hcs => ?_, fun r u => ?_⟩
  · have hmask := maskOf_known hcs
    obtain ⟨t, h1, h2, hb, hs, hp, hw⟩ := request_answers (q := .reportMask cs) hr hm (by
      change ownReportMask cs _ = _
      rw [ownReportMask, hmask])
    have htm : t.work.hlu.mask = allClasses.filter fun c => cs.contains (some c) := by rw [hw]; rfl
    refine ⟨t, h1, hb, hs, hp, fun c => ?_, by rw [h2, htm]; rfl, ?_, fun hd => ?_⟩
    · rw [htm, List.mem_filter]
      simp [mem_allClasses]
    · rw [answers_settled hw, htm, ← arrives_settled h (.reportMask cs) s]
      rfl
    · rw [hw]
      have hfresh := arrives_fresh h (.reportMask cs) s hr.1 hd
      simp only [State.mapHlu_work, hfresh]
  · by_cases hm : r.cls ∈ u.mask
    · have hc : u.mask.contains r.cls = true := by simpa using hm
      rw [if_neg (not_not.mpr hm)]
      refine ⟨u.number + 1, ?_, ?_⟩
      · have := u.number.isLt
        rw [BitVec.toNat_add]
        split <;> simp <;> omega
      · rw [Hlu.raise, if_pos hc]
    · have hc : ¬ u.mask.contains r.cls = true := by simpa using hm
      rw [if_pos hm, Hlu.raise, if_neg hc]

end Sys2Proof.Machine
end

section
/-!
PROOF. Accepted requests that store what they carry (R131, R180), the table order (R35), message times (R41), the confirmation sets
(R84), frames sent (R181), and the end of a departing timer (R29).
-/

namespace Sys2Proof.Machine

/-! ### Stored fields (R131, R180) -/

theorem mapCuc_settled (f : Cuc → Cuc) (w : Work) : (w.mapCuc f).settled = { w.settled with cuc := (f w.cuc).kept } := rfl

theorem clamp_eq {lo hi v : Nat} (h : lo ≤ hi) : clamp lo hi v = if v < lo then lo else if hi < v then hi else v := by
  unfold clamp
  split
  · omega
  · split <;> omega

/-- Settles O33: the template is stored whole, its validity clamped. -/
theorem templatePutStoresTheTemplate : Obligations.TemplatePutStoresTheTemplate := by
  intro h n r s hr hm hok validity stored
  have hstored : templateRecord r = stored := by
    rw [templateRecord, clamp_eq (by decide)]
    unfold storedZones
    rfl
  have hreply : Reply.clampedOr (clampNote .validity r.validity stored.validity) (.template stored) =
      if stored.validity = validity then ⟨.ok, [], .template stored⟩
        else ⟨.clamped, [(.validity, stored.validity)], .template stored⟩ := by
    cases hv : r.validity with
    | none => simp [clampNote, Reply.clampedOr, stored, validity, hv]
    | some v =>
      have hval : validity = v := by simp [validity, hv]
      rw [hval]
      by_cases he : stored.validity = v
      · simp [clampNote, Reply.clampedOr, he]
      · simp [clampNote, Reply.clampedOr, he, Ne.symm he]
  obtain ⟨t, h1, h2, hb, hs, hp, hw⟩ := request_answers (q := .templatePut n r) hr hm (by
    simp only [Request.owner, ownTemplatePut, guarded_eq hok, hstored, hreply]
    rfl)
  refine ⟨t, h1, h2, hb, hs, hp, (answers_settled hw).trans ?_⟩
  exact congrArg (fun k : Work => { k with cuc := { k.cuc with templates := k.cuc.templates.set n (some stored) } })
    (arrives_settled h (.templatePut n r) s)

theorem storeGeneral_settled (r : GeneralReq) (s : State) : (s.storeGeneral r).work.settled =
    { s.work.settled with
      svt := s.work.settled.svt.configure r
      bcp := s.work.settled.bcp.configure r
      hlu := { s.work.settled.hlu with feedTimeout := r.feedTimeout.getD s.work.settled.hlu.feedTimeout } } := rfl

theorem applyGeneral_settled (r : GeneralReq) (s : State) :
    (s.applyGeneral r).work.settled = (s.storeGeneral r).work.settled := by
  unfold State.applyGeneral
  dsimp only
  generalize s.storeGeneral r = u
  split
  · rw [State.mapWork_work, kept_settled (Work.deriveAll_kept ..)]
  · rfl

theorem applyGeneral_rest (r : GeneralReq) (s : State) : (s.applyGeneral r).base = (s.storeGeneral r).base ∧
    (s.applyGeneral r).scd = s.scd ∧ (s.applyGeneral r).pending = s.pending := by
  simp only [State.applyGeneral]
  split
  · simp only [State.mapWork_base, State.mapWork_scd, State.mapWork_pending, State.storeGeneral_scd, State.storeGeneral_pending,
      and_self]
  · simp only [State.storeGeneral_scd, State.storeGeneral_pending, and_self]

theorem configure_eq (e : Nat) (r : GeneralReq) (tb : Timebase) : tb.configure e r =
    { tb with
      c0 := r.c0.getD tb.c0
      period := argOr tb.period r.period
      rejected := if argOr tb.period r.period = tb.period then tb.rejected else []
      superviseFrom := if argOr tb.period r.period ≠ tb.period ∧ tb.state = .locked then some e else tb.superviseFrom } := by
  unfold Timebase.configure Timebase.setPeriod
  by_cases hp : argOr tb.period r.period = tb.period
  · simp [hp, orHeld]
  · simp [hp, orHeld]

/-- Settles O55: the fields of CONFIGURE GENERAL, in each block that owns them. -/
theorem configureGeneralStoresTheFields : Obligations.ConfigureGeneralStoresTheFields := by
  intro h r s hr hm hok
  have hok' : generalRefusal (s.arrives h (.configureGeneral r)) r = none :=
    (refusalOf_arrives h (.configureGeneral r) (.configureGeneral r) s).trans hok
  obtain ⟨t, h1, h2, hb, hs, hp, hw⟩ := request_answers (q := .configureGeneral r) hr hm (by
    simp only [Request.owner, ownGeneral, guarded_eq hok']
    rfl)
  obtain ⟨rbase, rscd, rpending⟩ := applyGeneral_rest r (s.arrives h (.configureGeneral r))
  refine ⟨t, h1, h2, hs.trans rscd, hp.trans rpending, ?_, ?_⟩
  · rw [hb, rbase, State.storeGeneral_base, State.arrives_base, configure_eq]
  · rw [answers_settled hw, applyGeneral_settled, storeGeneral_settled, arrives_settled]
    rfl

/-! ### Table order (R35) -/

/-- Settles O13: sorting keeps the records and orders them. -/
theorem tableOrderSortsTheRecords : Obligations.TableOrderSortsTheRecords := fun v =>
  ⟨sortBy_perm .., v.pairwise_ordered⟩

/-! ### Message times (R41, R38) -/

/-- Settles O17: the checks of a message time, and the value read back. -/
theorem messageTimesConvertAndReadBack : Obligations.MessageTimesConvertAndReadBack := by
  intro c0 m v hc
  have hbase : ∀ x : Nat, x ≤ 86399 → dayBase c0 x = ((x : Int) - 60 * c0) % 86400 := fun x hx => by
    simp only [dayBase, Config.day]
    split <;> omega
  have hiff : convertTime c0 m = some v ↔ m.h ≤ 23 ∧ m.m ≤ 59 ∧ m.s ≤ 59 ∧ -1 ≤ m.day ∧ m.day ≤ 1 ∧
      v = ((3600 * m.h + 60 * m.m + m.s : Nat) - 60 * (c0 : Int)) % 86400 + 86400 * m.day ∧ -43200 ≤ v ∧ v ≤ 129599 := by
    unfold convertTime
    dsimp only
    split
    · next hrange =>
      simp only [Bool.and_eq_true, decide_eq_true_eq] at hrange
      rw [hbase _ (by omega)]
      simp only [Config.day, Config.minTime, Config.maxTime]
      split
      · next hin =>
        simp only [Bool.and_eq_true, decide_eq_true_eq] at hin
        rw [Option.some.injEq]
        omega
      · next hout =>
        simp only [Bool.and_eq_true, decide_eq_true_eq] at hout
        refine ⟨fun h => (by cases h), fun ⟨_, _, _, _, _, hv, hlo, hhi⟩ => absurd ⟨hv ▸ hlo, hv ▸ hhi⟩ hout⟩
    · next hrange =>
      simp only [Bool.and_eq_true, decide_eq_true_eq] at hrange
      refine ⟨fun h => (by cases h), fun ⟨h1, h2, h3, h4, h5, _⟩ => absurd ⟨⟨⟨⟨h1, h2⟩, h3⟩, h4⟩, h5⟩ hrange⟩
  refine ⟨hiff, fun h => ?_⟩
  obtain ⟨h1, h2, h3, h4, h5, hv, -, -⟩ := hiff.mp h
  have hday : v / 86400 = m.day := by omega
  simp only [timeView, Config.day, hday, TimeView.mk.injEq, true_and]
  omega

/-! ### Confirmation sets (R84) -/

theorem showsCurrent_iff (x : Service) (c : Option RowContent) :
    showsCurrent x c = true ↔ ∃ r, c = some (.service r) ∧ r.key = x.key ∧ r.platform = x.current := by
  unfold showsCurrent
  split
  · next r => simp
  · next hno => exact ⟨fun h => absurd h Bool.false_ne_true, fun ⟨r, hr, _⟩ => (hno r hr).elim⟩

theorem occupant_iff (c : RowContent) (k : Key) : occupant c = some k ↔ ∃ r, c = .service r ∧ r.key = k := by
  unfold occupant
  split
  · next r => simp
  · next hno => exact ⟨fun h => (by cases h), fun ⟨r, hr, _⟩ => (hno r hr).elim⟩

theorem mem_rowList {rec : BoardRec} {r : Nat} : r ∈ rec.rowList ↔ 1 ≤ r ∧ r ≤ rec.rows := by
  simp only [BoardRec.rowList, List.mem_map, List.mem_range]
  exact ⟨fun ⟨i, hi, h⟩ => by omega, fun h => ⟨r - 1, by omega, by omega⟩⟩

/-- R84: when a board is unconfirmed for a service. -/
theorem Work.unconfirmed_iff (w : Work) (x : Service) (n : Nat) : w.unconfirmed x n = true ↔
    w.online n = true ∧ ∃ bd row, w.board n = some bd ∧ 1 ≤ row ∧ row ≤ bd.record.rows ∧
      (∃ r, (w.cell bd.record.string (bd.record.first + row - 1)).desired = .service r ∧ r.key = x.key) ∧
      ¬ ∃ r, (w.cell bd.record.string (bd.record.first + row - 1)).onWall = some (.service r) ∧ r.key = x.key ∧
        r.platform = x.current := by
  rw [Work.unconfirmed, Bool.and_eq_true]
  refine and_congr_right fun _ => ?_
  cases hb : w.board n with
  | none => simp
  | some bd =>
    simp only [List.any_eq_true, mem_rowList, Bool.and_eq_true, beq_iff_eq, occupant_iff, Bool.not_eq_true', Work.rowCell,
      BoardRec.address, ← Bool.not_eq_true, showsCurrent_iff]
    constructor
    · rintro ⟨row, ⟨h1, h2⟩, h3, h4⟩
      exact ⟨bd, row, rfl, h1, h2, h3, h4⟩
    · rintro ⟨bd', row, hbd, h1, h2, h3, h4⟩
      cases hbd
      exact ⟨row, ⟨h1, h2⟩, h3, h4⟩

/-- Settles O24: the sets brought up to date are read off the boards, and no later event changes what they read. -/
theorem confirmationSetNamesUnshownBoards : Obligations.ConfirmationSetNamesUnshownBoards := by
  intro b ev w x n hn hx
  have cues : ∀ evs (v : Work), v.CuesOnly (v.confirmChanges b evs) := fun evs v => by
    unfold Work.confirmChanges
    split
    · exact cuesOnly_refl v
    · exact (cuesOnly_select b _).after (cuesOnly_foldl (fun v e => cuesOnly_mapCuc ..) evs v)
  have hsvt : (w.refreshConfirmations b ev).svt = w.storeConfirmations.svt := by
    unfold Work.refreshConfirmations
    exact (cues _ _).svt
  rw [hsvt] at hx
  obtain ⟨y, -, rfl⟩ := List.mem_map.mp hx
  rw [← Work.unconfirmed_iff]
  simp only [Work.confirmation, List.mem_filter, List.mem_range, hn, true_and]
  rfl

/-! ### Departing timers (R29) -/

/-- One record written: what it leaves of the records' own fields. -/
theorem update_kept_eq (key : Key) (f : Service → Service) (v : Svt) : (v.update key f).kept =
    { v.kept with services := v.services.map fun y => if y.key = key then (f y).core else y.core } := by
  have each : v.services.map (Service.core ∘ fun x => if (x.key == key) = true then f x else x) =
      v.services.map fun y => if y.key = key then (f y).core else y.core :=
    List.map_congr_left fun y _ => by
      by_cases hy : y.key = key <;> simp [hy]
  rw [Svt.kept, Svt.update, List.map_map, each]
  rfl

theorem updateService_settled (key : Key) (f : Service → Service) (w : Work) : (w.updateService key f).settled =
    { w.settled with svt :=
      { w.settled.svt with services := w.svt.services.map fun y => if y.key = key then (f y).core else y.core } } :=
  congrArg (fun v : Svt => { w.settled with svt := v }) (update_kept_eq key f w.svt)

/-- Settles O15: the running timer ends, and its record change event leaves the records' own fields. -/
theorem timerEndMakesDeparted : Obligations.TimerEndMakesDeparted := by
  intro key x s hx htimer
  refine ⟨(s.mapWork (Work.timerEnds s.base key)).finish, rfl, rfl, rfl, rfl, ?_⟩
  rw [finish_settled, State.mapWork_work, Work.timerEnds, hx, Option.bind_some, if_pos htimer, Work.endTimer,
    kept_settled (Work.recordChange_kept ..)]
  exact updateService_settled key _ s.work

end Sys2Proof.Machine
end

section
/-!
PROOF. Frames sent on the host link (R181, R182), and the checks of the requests (R180).
-/

namespace Sys2Proof.Machine

/-! ### Frames sent -/

/-- R180: an answered entry that leaves its place lets no other come to its turn. -/
theorem nextToServe_filter {p : Inbound → Bool} {l : List Inbound} (h : nextToServe l = none)
    (hp : ∀ e ∈ l, p e = false → e.reply ≠ none ∧ e.restart = false) : nextToServe (l.filter p) = none := by
  induction l with
  | nil => rfl
  | cons e l ih =>
    have rest : ∀ e ∈ l, p e = false → e.reply ≠ none ∧ e.restart = false := fun e he => hp e (List.mem_cons_of_mem _ he)
    cases hpe : p e with
    | false =>
      rw [List.filter_cons_of_neg (by simp [hpe])]
      obtain ⟨hans, hre⟩ := hp e (List.mem_cons_self ..) hpe
      cases hprog : e.progress with
      | waiting => simp [Inbound.reply, hprog] at hans
      | inService => simp [Inbound.reply, hprog] at hans
      | answered r =>
        simp only [nextToServe, hprog, hre, Bool.false_eq_true, if_false] at h
        exact ih h rest
    | true =>
      rw [List.filter_cons_of_pos hpe]
      cases hprog : e.progress with
      | waiting => simp [nextToServe, hprog] at h
      | inService => simp [nextToServe, hprog]
      | answered r =>
        simp only [nextToServe, hprog] at h ⊢
        split
        · rfl
        · next hre => exact ih (by rwa [if_neg hre] at h) rest

theorem firstReply_eq (h : Hlu) : h.firstReply = (h.inbound.find? fun e => e.reply.isSome).map Inbound.arrival := by
  have same : (fun e : Inbound => match e.progress with | .answered _ => true | _ => false) = fun e => e.reply.isSome :=
    funext fun e => by
      unfold Inbound.reply
      cases e.progress <;> rfl
  exact congrArg (fun p => (h.inbound.find? p).map Inbound.arrival) same

/-- R181: the next frame to send, by what waits. -/
theorem nextSending_eq (h : Hlu) : h.nextSending =
    match h.inbound.find? (fun e => e.reply.isSome), h.busy.head? with
    | some e, some p => if e.arrival < p.arrival then some (.reply e.arrival) else some (.busy p.arrival)
    | some e, none => some (.reply e.arrival)
    | none, some p => some (.busy p.arrival)
    | none, none => if h.reports = [] then none else some .report := by
  unfold Hlu.nextSending
  rw [firstReply_eq, Hlu.firstBusy]
  cases h.inbound.find? (fun e => e.reply.isSome) with
  | some e => cases h.busy.head? <;> rfl
  | none =>
    cases h.busy.head? with
    | some p => rfl
    | none => cases h.reports <;> rfl

theorem State.frameSent_plain {s : State} {x : Sending} (hx : s.work.hlu.tx = some x)
    (hplain : ∀ e ∈ s.work.hlu.inbound, x = .reply e.arrival → e.reply ≠ none ∧ e.restart = false) :
    s.frameSent = s.mapHlu (Hlu.freePlace x) := by
  unfold State.frameSent
  rw [hx]
  cases x with
  | reply a =>
    have hno : (s.work.hlu.inbound.any fun e => e.arrival == a && e.restart) = false := by
      rw [List.any_eq_false]
      intro e he
      by_cases ha : e.arrival = a
      · simp [(hplain e he (by rw [ha])).2]
      · simp [ha]
    simp only [hno, Bool.false_eq_true, if_false]
  | busy a => rfl
  | report => rfl

/-- Settles O51: the place is freed, nothing comes to its turn by that, and the transmitter takes the next frame. -/
theorem sentFramesFreeTheirPlaces : Obligations.SentFramesFreeTheirPlaces := by
  intro x s hx hs hplain
  have hcaught : (s.mapHlu (Hlu.freePlace x)).caughtUp := by
    cases x with
    | reply a =>
      refine nextToServe_filter hs fun e he hp => hplain e he ?_
      have ha : e.arrival = a := by simpa using hp
      rw [ha]
    | busy a => exact hs
    | report => exact hs
  refine ⟨(s.mapHlu (Hlu.freePlace x)).finish, ?_, rfl, rfl, rfl, ?_, ?_⟩
  · change s.frameSent.serveWaiting.done = _
    rw [State.frameSent_plain hx hplain, serveWaiting_caughtUp _ hcaught]
    rfl
  · rw [State.finish_work, State.mapHlu_work, pump_work]
    cases x <;> rfl
  · have htx : (s.work.hlu.freePlace x).tx = none := by cases x <;> rfl
    rw [State.finish_work, State.mapHlu_work, pump_work]
    dsimp only
    rw [htx, Option.none_or]
    exact nextSending_eq _

end Sys2Proof.Machine
end

section
/-!
PROOF. The checks of the requests (R180 and the rules it cites): each refusal is the first check that fails.
-/

namespace Sys2Proof.Machine

/-- The first check that fails gives the answer, and there is none where every check passes. -/
def FirstOf : List (Reply × Prop) → Option Reply → Prop
  | [], o => o = none
  | (r, p) :: cs, o => (p → o = some r) ∧ (¬ p → FirstOf cs o)

theorem FirstOf.fails {checks : List (Reply × Prop)} {o : Option Reply} (h : FirstOf checks o) {i : Nat} {rep : Reply}
    {fails : Prop} (hi : checks[i]? = some (rep, fails)) (hf : fails)
    (hearlier : ∀ (j : Nat) (other : Reply) (earlier : Prop), j < i → checks[j]? = some (other, earlier) → ¬ earlier) :
    o = some rep := by
  induction checks generalizing i with
  | nil => cases hi
  | cons c cs ih =>
    cases i with
    | zero =>
      cases hi
      exact h.1 hf
    | succ i =>
      exact ih (h.2 (hearlier 0 c.1 c.2 (Nat.succ_pos i) rfl)) hi fun j other earlier hj =>
        hearlier (j + 1) other earlier (Nat.succ_lt_succ hj)

theorem FirstOf.passes {checks : List (Reply × Prop)} {o : Option Reply} (h : FirstOf checks o) (hall : ∀ p ∈ checks, ¬ p.2) :
    o = none := by
  induction checks with
  | nil => exact h
  | cons c cs ih => exact ih (h.2 (hall c (List.mem_cons_self ..))) fun p hp => hall p (List.mem_cons_of_mem _ hp)

/-- One check list after another. -/
theorem FirstOf.append {as bs : List (Reply × Prop)} {a b : Option Reply} (ha : FirstOf as a)
    (hb : (∀ p ∈ as, ¬ p.2) → FirstOf bs b) : FirstOf (as ++ bs) (firstRefusal a b) := by
  induction as with
  | nil =>
    cases ha
    exact hb fun _ h => by cases h
  | cons c cs ih =>
    refine ⟨fun hc => by rw [ha.1 hc]; rfl, fun hc => ih (ha.2 hc) fun h => hb ?_⟩
    intro p hp
    rcases List.mem_cons.mp hp with rfl | hp
    · exact hc
    · exact h p hp

theorem FirstOf.or {as bs : List (Reply × Prop)} {a b : Option Reply} (ha : FirstOf as a) (hb : FirstOf bs b) :
    FirstOf (as ++ bs) (a.or b) := by
  have h := ha.append fun _ => hb
  cases a <;> exact h

/-- One check alone. -/
theorem firstOf_single {p : Prop} {r : Reply} {o : Option Reply} (h : p → o = some r) (h' : ¬ p → o = none) :
    FirstOf [(r, p)] o := ⟨h, h'⟩

/-- A check on a field that agrees with the function's, as far as the checks before it pass. -/
theorem firstOf_field {f : FieldId} {p : Prop} {b : Bool} {ps : List (FieldId × Prop)} {bs : List (FieldId × Bool)} (h : p ↔ b = true)
    (hrest : ¬ p → FirstOf (fieldChecks ps) (badFields bs)) : FirstOf (fieldChecks ((f, p) :: ps)) (badFields ((f, b) :: bs)) := by
  refine ⟨fun hp => ?_, fun hp => ?_⟩
  · rw [badFields, firstFailing, h.mp hp]
    rfl
  · have hb : b = false := by simpa using fun hb => hp (h.mpr hb)
    rw [badFields, firstFailing, hb]
    exact hrest hp

theorem firstOf_noFields : FirstOf (fieldChecks []) (badFields []) := rfl

theorem firstOf_none {checks : List (Reply × Prop)} (h : ∀ p ∈ checks, ¬ p.2) : FirstOf checks none := by
  induction checks with
  | nil => rfl
  | cons c cs ih =>
    exact ⟨fun hc => absurd hc (h c (List.mem_cons_self ..)), fun _ => ih fun p hp => h p (List.mem_cons_of_mem _ hp)⟩

theorem firstOf_skip {r : Reply} {p : Prop} {cs : List (Reply × Prop)} {o : Option Reply} (hp : ¬ p) (h : FirstOf cs o) :
    FirstOf ((r, p) :: cs) o := ⟨fun hp' => absurd hp' hp, fun _ => h⟩

/-- A check at the end that does not fail. -/
theorem firstOf_last {r : Reply} {p : Prop} {bs : List (Reply × Prop)} {o : Option Reply} (hp : ¬ p) (h : FirstOf bs o) :
    FirstOf (bs ++ [(r, p)]) o := by
  induction bs with
  | nil => exact firstOf_skip hp h
  | cons b bs ih => exact ⟨h.1, fun hb => ih (h.2 hb)⟩

theorem firstOf_ite {r : Reply} {p q : Prop} [Decidable q] {cs : List (Reply × Prop)} {o : Option Reply} (h : p ↔ q)
    (hrest : ¬ p → FirstOf cs o) : FirstOf ((r, p) :: cs) (if q then some r else o) := by
  refine ⟨fun hp => if_pos (h.mp hp), fun hp => ?_⟩
  rw [if_neg fun hq => hp (h.mpr hq)]
  exact hrest hp

/-- The lowest number that satisfies `p` named as the holder. -/
theorem firstOf_find {P : Nat → Prop} {p : Nat → Bool} {ms : List Nat} (h : ∀ m ∈ ms, P m ↔ p m = true) :
    FirstOf (ms.map fun m => (⟨.inUse, [], .holder m⟩, P m)) ((ms.find? p).map Reply.inUse) := by
  induction ms with
  | nil => rfl
  | cons m ms ih =>
    refine ⟨fun hm => ?_, fun hm => ?_⟩
    · rw [List.find?_cons_of_pos ((h m (List.mem_cons_self ..)).mp hm)]
      rfl
    · rw [List.find?_cons_of_neg fun hp => hm ((h m (List.mem_cons_self ..)).mpr hp)]
      exact ih fun k hk => h k (List.mem_cons_of_mem _ hk)

theorem badFields_append (as bs : List (FieldId × Bool)) :
    badFields (as ++ bs) = firstRefusal (badFields as) (badFields bs) := by
  induction as with
  | nil => rfl
  | cons a as ih =>
    obtain ⟨f, b⟩ := a
    cases b with
    | true => rfl
    | false => exact ih

theorem fieldChecks_append (as bs : List (FieldId × Prop)) : fieldChecks (as ++ bs) = fieldChecks as ++ fieldChecks bs :=
  List.map_append

theorem fieldChecks_singleton (f : FieldId) (p : Prop) : fieldChecks [(f, p)] = [(⟨.badField, [], .field f⟩, p)] := rfl

/-! ### Single checks -/

theorem beyond_iff {lo hi : Nat} {v : Option Nat} : beyond lo hi v ↔ outside lo hi v = true := by
  cases v with
  | none => simp [beyond, outside]
  | some n => simp [beyond, outside]

theorem unfit_iff {lo hi : Nat} {v : Option Nat} : unfit lo hi v ↔ outsideRequired lo hi v = true := by
  cases v with
  | none => simp [unfit, outsideRequired]
  | some n => simp [unfit, outsideRequired, -forall_eq_or_imp]

theorem unknown_iff {α : Type} {a : Arg α} : a = .unknown ↔ argUnknown a = true := by
  cases a <;> simp [argUnknown]

theorem missing_iff {α : Type} {a : Arg α} : (∀ k, a ≠ .is k) ↔ argMissing a = true := by
  cases a <;> simp [argMissing]

theorem above_iff {n m : Nat} : n < m ↔ decide (n < m) = true := by simp

theorem crooked_iff {top : Nat} {v : Option (Nat × Nat)} : crooked top v ↔ badRange top v = true := by
  cases v with
  | none => simp [crooked, badRange]
  | some p => obtain ⟨lo, hi⟩ := p; simp [crooked, badRange]

theorem isSetIn_eq_false_iff {lo hi : Nat} {xs : List Nat} : isSetIn lo hi xs = false ↔ xs = [] ∨ ∃ x ∈ xs, x < lo ∨ hi < x := by
  cases xs with
  | nil => simp [isSetIn]
  | cons x xs => simp [isSetIn, imp_iff_not_or]

theorem illSet_iff {lo hi : Nat} {v : Option (List Nat)} : illSet lo hi v ↔ badSet lo hi v = true := by
  cases v with
  | none => simp [illSet, badSet]
  | some xs => simp only [illSet, badSet, Option.some.injEq, Bool.not_eq_true', isSetIn_eq_false_iff, exists_eq_left']

/-! ### The configuration sections (R61, R91, R132, R149, R154, R168, R180) -/

theorem general_checked (s : State) (r : GeneralReq) :
    FirstOf (s.checksOf (.configureGeneral r)) (s.refusalOf (.configureGeneral r)) := by
  refine FirstOf.append (a := generalForm s.work.svt r) (b := generalState s.base.tbs r)
    (firstOf_field beyond_iff fun _ => firstOf_field unknown_iff fun _ => firstOf_field beyond_iff fun _ =>
      firstOf_field beyond_iff fun _ => firstOf_field ?abandon fun _ => firstOf_field beyond_iff fun _ =>
      firstOf_field beyond_iff fun _ => firstOf_field beyond_iff fun _ => firstOf_field beyond_iff fun _ =>
      firstOf_field beyond_iff fun _ => firstOf_field beyond_iff fun _ => firstOf_field beyond_iff fun _ =>
      firstOf_field ?timeout fun _ => firstOf_noFields) fun _ => ?state
  case abandon =>
    simp only [Bool.or_eq_true, decide_eq_true_eq]
    simp only [beyond_iff, Svt.configure, orHeld, or_assoc]
  case timeout => simp [beyond_iff]
  case state =>
    refine firstOf_ite ?_ fun _ => rfl
    cases hc : r.c0 <;> cases hst : s.base.tbs.state <;> simp [orHeld, hst, Timebase.qualified]

theorem board_checked (s : State) (n : Nat) (r : BoardReq) :
    FirstOf (s.checksOf (.configureBoard n r)) (s.refusalOf (.configureBoard n r)) := by
  refine FirstOf.append (a := boardForm n r) (b := (s.work.boardMeeting n (boardRecord r)).map Reply.inUse)
    (firstOf_field above_iff fun _ => firstOf_field unknown_iff fun _ => firstOf_field unfit_iff fun _ =>
      firstOf_field unfit_iff fun hfirst => firstOf_field unfit_iff fun hrows => firstOf_field missing_iff fun _ =>
      firstOf_field ?platforms fun _ => firstOf_field ?classes fun _ => firstOf_field beyond_iff fun _ =>
      firstOf_field ?fixed fun _ => firstOf_field ?last fun _ => firstOf_noFields) fun _ => firstOf_find fun m _ => ?meets
  case platforms => simp [List.any_eq_true]
  case classes => simp [List.any_eq_true]
  case fixed =>
    have hr : r.rows.getD 1 = r.rows.getD 0 := by
      cases hv : r.rows with
      | none => exact absurd (by simp [unfit, hv]) hrows
      | some v => rfl
    rw [hr, beyond_iff]
  case last =>
    cases hf : r.first with
    | none => exact absurd (by simp [unfit, hf]) hfirst
    | some f =>
      cases hv : r.rows with
      | none => exact absurd (by simp [unfit, hv]) hrows
      | some v =>
        have h1 : 1 ≤ v := by
          by_contra hlt
          exact hrows fun k hk => .inl (by rw [hv] at hk; cases hk; omega)
        simp [Config.maxModule]
        omega
  case meets =>
    cases s.work.board m with
    | none => simp
    | some bd =>
      simp only [BoardRec.meets, Bool.and_eq_true, decide_eq_true_eq, beq_iff_eq, bne_iff_ne]
      simp [boardRecord, and_assoc]

theorem string_checked (s : State) (n : Nat) (r : StringReq) :
    FirstOf (s.checksOf (.configureString n r)) (s.refusalOf (.configureString n r)) :=
  firstOf_field above_iff fun _ => firstOf_field unknown_iff fun _ => firstOf_field unknown_iff fun _ => firstOf_noFields

theorem exclusiveRole_iff {x : Role} :
    x = .sync ∨ x = .paOverride ∨ x = .playBusy ∨ (∃ k, x = .sense k) ↔ exclusiveRole x = true := by
  cases x <;> simp [exclusiveRole]

theorem line_checked (s : State) (n : Nat) (r : LineReq) :
    FirstOf (s.checksOf (.configureLine n r)) (s.refusalOf (.configureLine n r)) := by
  refine FirstOf.append (a := lineForm n r) (b := (roleHolder s.base.fiu.lines n (argOr .unused r.role)).map Reply.inUse)
    (firstOf_field above_iff fun _ => firstOf_field ?role fun hrole => firstOf_field unknown_iff fun _ =>
      firstOf_field ?filter fun _ => firstOf_field unknown_iff fun _ => firstOf_field beyond_iff fun _ => firstOf_noFields)
    fun hpass => ?holder
  case role =>
    cases r.role with
    | is x => cases x <;> simp [badRole]
    | _ => simp [badRole]
  case filter =>
    cases r.filter with
    | is x => cases x <;> simp [badFilter, and_assoc]
    | _ => simp [badFilter]
  case holder =>
    cases hr : r.role with
    | is x =>
      by_cases hx : exclusiveRole x = true
      · rw [argOr, roleHolder, if_pos hx]
        refine firstOf_find fun m _ => ?_
        rw [← exclusiveRole_iff] at hx
        cases hl : s.base.fiu.lines[m]? with
        | none =>
          have hreset : FieldLine.reset.role ≠ x := by
            intro h
            subst h
            simp [FieldLine.reset] at hx
          simp [hl, hreset]
        | some l =>
          simp only [Arg.is.injEq, Option.some.injEq, List.getD_eq_getElem?_getD, hl, Option.getD_some, Bool.and_eq_true,
            bne_iff_ne, beq_iff_eq]
          constructor
          · rintro ⟨hne, _, _, rfl, _, rfl, hrole⟩
            exact ⟨hne, hrole⟩
          · exact fun ⟨hne, hrole⟩ => ⟨hne, x, l, rfl, hx, rfl, hrole⟩
      · rw [argOr, roleHolder, if_neg hx]
        refine firstOf_none fun p hp => ?_
        obtain ⟨m, _, rfl⟩ := List.mem_map.mp hp
        rintro ⟨_, y, _, hy, hex, _⟩
        cases hy
        exact hx (exclusiveRole_iff.mp hex)
    | _ =>
      refine absurd (hpass (.badField .role, _) (List.mem_cons_of_mem _ (List.mem_cons_self ..))) (not_not_intro (.inl ?_))
      rw [hr]
      exact fun x h => by cases h

theorem clock_checked (s : State) (n : Nat) (r : ClockReq) :
    FirstOf (s.checksOf (.configureClockLine n r)) (s.refusalOf (.configureClockLine n r)) := by
  refine firstOf_field above_iff fun _ => firstOf_field unknown_iff fun _ => firstOf_field missing_iff fun _ =>
    firstOf_field ?indicated fun _ => firstOf_field unknown_iff fun _ => firstOf_field beyond_iff fun _ => firstOf_noFields
  case indicated =>
    cases r.indicated with
    | is x =>
      cases x with
      | keep => simp [badIndicated, bne_iff_ne, ne_comm]
      | reading h m sec => simp [badIndicated, readingFits, imp_iff_not_or, or_assoc]
    | _ => simp [badIndicated]

theorem cueLink_checked (s : State) (r : CueLinkReq) :
    FirstOf (s.checksOf (.configureCueLink r)) (s.refusalOf (.configureCueLink r)) := by
  refine FirstOf.append (a := cueLinkForm r) (b := cueLinkState s.work.cuc r)
    (firstOf_field unknown_iff fun _ => firstOf_field unknown_iff fun _ => firstOf_field unknown_iff fun _ =>
      firstOf_field beyond_iff fun _ => firstOf_field beyond_iff fun _ => firstOf_field beyond_iff fun _ =>
      firstOf_field beyond_iff fun _ => firstOf_field beyond_iff fun _ => firstOf_field beyond_iff fun _ =>
      firstOf_field ?zones fun _ => firstOf_field ?override fun _ => firstOf_noFields) fun _ => firstOf_ite ?state fun _ => rfl
  case zones =>
    cases r.zones with
    | none => simp [badZones]
    | some es => simp [badZones, or_assoc]
  case override =>
    cases r.overrideTemplate with
    | none => simp [outside]
    | some o => cases o <;> simp [outside]
  case state => simp

/-! ### TEXT LOAD (R55) -/

theorem firstOf_items {bad : TextItem → Bool} {fails : TextItem → Prop} (h : ∀ x, fails x ↔ bad x = true) (i : Nat)
    (items : List TextItem) :
    FirstOf (fieldChecks ((items.zipIdx i).map fun p => (.item p.2 p.1.index, fails p.1)))
      ((firstItem bad i items).map Reply.badField) := by
  induction items generalizing i with
  | nil => rfl
  | cons x xs ih =>
    rw [List.zipIdx_cons, List.map_cons, firstItem]
    refine ⟨fun hx => by rw [if_pos ((h x).mp hx)]; rfl, fun hx => ?_⟩
    rw [if_neg fun hb => hx ((h x).mpr hb)]
    exact ih (i + 1)

/-- An item repeats an index when an item before it in the list names the same. -/
theorem firstOf_repeats (seen items all : List TextItem) (hall : all = seen.reverse ++ items) :
    FirstOf (fieldChecks ((items.zipIdx seen.length).map fun p =>
        (.item p.2 p.1.index, ∃ j y, j < p.2 ∧ all[j]? = some y ∧ y.index = p.1.index)))
      ((firstRepeat (seen.map TextItem.index) seen.length items).map Reply.badField) := by
  induction items generalizing seen with
  | nil => rfl
  | cons x xs ih =>
    have hseen : (∃ j y, j < seen.length ∧ all[j]? = some y ∧ y.index = x.index) ↔
        (seen.map TextItem.index).contains x.index = true := by
      rw [List.contains_iff_mem, List.mem_map]
      constructor
      · rintro ⟨j, y, hj, hy, hi⟩
        rw [hall, List.getElem?_append_left (by simpa using hj)] at hy
        exact ⟨y, List.mem_reverse.mp (List.mem_of_getElem? hy), hi⟩
      · rintro ⟨y, hy, hi⟩
        obtain ⟨j, hj, hjy⟩ := List.getElem_of_mem (List.mem_reverse.mpr hy)
        refine ⟨j, y, by simpa using hj, ?_, hi⟩
        rw [hall, List.getElem?_append_left hj, List.getElem?_eq_getElem hj, hjy]
    rw [List.zipIdx_cons, List.map_cons, firstRepeat]
    refine ⟨fun hx => by rw [if_pos (hseen.mp hx)]; rfl, fun hx => ?_⟩
    rw [if_neg fun hb => hx (hseen.mpr hb)]
    exact ih (x :: seen) (by rw [hall, List.reverse_cons, List.append_assoc]; rfl)

theorem badText_iff (i : Nat) : 1023 < i ↔ badText i = true := by simp [badText, Nat.lt_iff_add_one_le]

theorem text_checked (s : State) (items : List TextItem) :
    FirstOf (s.checksOf (.textLoad items)) (s.refusalOf (.textLoad items)) := by
  have hrep := firstOf_repeats [] items items rfl
  show FirstOf _ (textRefusal items)
  unfold textRefusal State.checksOf
  simp only [List.append_assoc, Option.or_assoc, Option.map_or, fieldChecks_singleton, List.singleton_append]
  have hcount : items = [] ∨ 16 < items.length ↔ (!(1 ≤ items.length && items.length ≤ Config.maxItems : Bool)) = true := by
    cases items <;> simp [Config.maxItems]
  have hchars : ∀ x : TextItem, (∃ c ∈ x.text, c.toNat < 0x20 ∨ (0x7E < c.toNat ∧ c.toNat < 0xA0)) ↔
      (x.text.any fun c => !printable c) = true := by
    intro x
    simp only [List.any_eq_true, printable, Bool.not_eq_true', Bool.or_eq_false_iff, Bool.and_eq_false_iff, decide_eq_false_iff_not]
    exact exists_congr fun c => and_congr_right fun _ => by omega
  refine firstOf_ite hcount fun _ => ?_
  exact FirstOf.or (firstOf_items (fun x => badText_iff x.index) 0 items) (hrep.or
    ((firstOf_items (fails := fun x => 32 < x.text.length) (fun x => above_iff) 0 items).or
      ((firstOf_items hchars 0 items).or
        (firstOf_items (fails := fun x => beyond 0 4095 x.phrase) (fun x => beyond_iff) 0 items))))

/-! ### SERVICE PUT (R20), the requests that name a service (R37, R38), TIME SET and the small requests -/

theorem badRequired_iff {α : Type} {bad : α → Bool} {fails : α → Prop} {v : Carried α} (h : ∀ a, fails a ↔ bad a = true) :
    (v = .strayNone ∨ v = .none ∨ ∃ a, v = .value a ∧ fails a) ↔ badRequired bad v = true := by
  cases v <;> simp [badRequired, h]

theorem badOptional_iff {α : Type} {bad : α → Bool} {fails : α → Prop} {v : Carried α} (h : ∀ a, fails a ↔ bad a = true) :
    (v = .strayNone ∨ ∃ a, v = .value a ∧ fails a) ↔ badOptional bad v = true := by
  cases v <;> simp [badOptional, h]

theorem badTime_iff {c0 : Nat} (m : MsgTime) : (∀ v, convertTime c0 m ≠ some v) ↔ badTime c0 m = true := by
  simp [badTime, Option.eq_none_iff_forall_ne_some]

theorem hasValue_iff {α : Type} {v : Carried α} : (∀ a, v ≠ .value a) ↔ (!hasValue v) = true := by
  cases v <;> simp [hasValue]

theorem putFields_checked (c0 : Nat) (r : PutReq) : FirstOf (fieldChecks (putFieldFails c0 r)) (putForm c0 r) := by
  refine firstOf_field (by simp) fun _ => firstOf_field (badRequired_iff (by simp)) fun _ =>
    firstOf_field (badRequired_iff badText_iff) fun _ => firstOf_field (badOptional_iff badText_iff) fun _ =>
    firstOf_field (badRequired_iff badTime_iff) fun _ => firstOf_field (badOptional_iff badTime_iff) fun _ =>
    firstOf_field ?status fun _ => firstOf_field (badOptional_iff ?platform) fun _ =>
    firstOf_field ?effective fun _ => firstOf_field (badRequired_iff ?calling) fun _ =>
    firstOf_field (badOptional_iff ?coaches) fun _ => firstOf_field (badOptional_iff badTime_iff) fun _ => firstOf_noFields
  case status =>
    cases r.status with
    | value st => simp [badRequired]
    | _ => simp [badRequired]
  case platform => exact fun d => by simp [badDesignator, or_assoc]
  case effective =>
    cases r.effective with
    | value m => simp [badRequired, badTime_iff, hasValue_iff, hasValue]
    | _ => simp [badRequired, hasValue]
  case calling => exact fun is => by simp [badText_iff]
  case coaches => exact fun n => by simp

theorem put_checked (s : State) (r : PutReq) : FirstOf (s.checksOf (.servicePut r)) (s.refusalOf (.servicePut r)) := by
  show FirstOf _ (putRefusal s r)
  unfold putRefusal State.checksOf
  simp only [List.append_assoc, List.singleton_append]
  refine firstOf_ite Iff.rfl fun _ => (putFields_checked _ r).append fun hform => ?_
  have hstray : r.actual ≠ .strayNone := fun h =>
    hform (Reply.badField .actual,
      r.actual = .strayNone ∨ ∃ m, r.actual = .value m ∧ ∀ v, convertTime s.base.tbs.c0 m ≠ some v)
      (by simp [putFieldFails, fieldChecks, Reply.badField]) (.inl h)
  cases hf : s.work.svt.find r.key with
  | none =>
    refine firstOf_last (bs := fieldChecks [(.destination, _), (.scheduled, _)]) (by simp) ?_
    exact firstOf_field (by simp [hasValue_iff]) fun _ => firstOf_field (by simp [hasValue_iff]) fun _ => firstOf_noFields
  | some x =>
    refine firstOf_skip (by simp) (firstOf_skip (by simp) (firstOf_ite ?_ fun _ => rfl))
    cases ha : x.actual <;> cases hr : r.actual <;> simp_all [isPresent]

theorem key_checked (s : State) (key : Key) : FirstOf (keyChecks s key) (keyRefusal s key) :=
  firstOf_ite (by simp) fun _ => firstOf_ite (by simp) fun _ => rfl

theorem list_checked (s : State) (o : ListOrder) (start : Nat) :
    FirstOf (s.checksOf (.serviceList o start)) (s.refusalOf (.serviceList o start)) :=
  FirstOf.append (firstOf_field (by cases o <;> simp [badOrder]) fun _ => firstOf_field above_iff fun _ => firstOf_noFields)
    fun _ => firstOf_ite (by cases o <;> simp [orderMissing]) fun _ => rfl

theorem boardGet_checked (s : State) (n : Nat) : FirstOf (s.checksOf (.boardGet n)) (s.refusalOf (.boardGet n)) :=
  firstOf_ite Iff.rfl fun _ => firstOf_ite (by simp) fun _ => rfl

theorem time_checked (s : State) (h m sec ms : Nat) :
    FirstOf (s.checksOf (.timeSet h m sec ms)) (s.refusalOf (.timeSet h m sec ms)) :=
  firstOf_field above_iff fun _ => firstOf_field above_iff fun _ => firstOf_field above_iff fun _ => firstOf_field above_iff fun _ =>
    firstOf_noFields

theorem override_checked (s : State) (on : Option Bool) :
    FirstOf (s.checksOf (.overrideSet on)) (s.refusalOf (.overrideSet on)) := by
  cases on with
  | none => exact firstOf_single (fun _ => rfl) fun h => absurd rfl h
  | some b => exact firstOf_single (fun h => by cases h) fun _ => rfl

theorem mask_checked (s : State) (cs : List (Option ReportClass)) :
    FirstOf (s.checksOf (.reportMask cs)) (s.refusalOf (.reportMask cs)) :=
  firstOf_ite (by simp) fun _ => rfl

/-! ### Rules, templates and cues (R119, R121, R131, R135) -/

theorem listed_checked (e : Nre) (n : Nat) {p : Prop} [Decidable p] :
    FirstOf (listedChecks e n p) (if p ∧ e.holdsTerm n = true then (e.listedBy n).map Reply.inUse else none) := by
  have hterm : (∃ q, e.rule n = some q ∧ q.kind = .term) ↔ e.holdsTerm n = true := by
    unfold Nre.holdsTerm
    cases e.rule n <;> simp
  by_cases hp : p ∧ e.holdsTerm n = true
  · rw [if_pos hp]
    refine firstOf_find fun h _ => ?_
    rw [hterm]
    cases hr : e.rule h with
    | none => simp
    | some q => simp [hp]
  · rw [if_neg hp]
    refine firstOf_none fun c hc => ?_
    obtain ⟨h, _, rfl⟩ := List.mem_map.mp hc
    exact fun ⟨h1, h2, _⟩ => hp ⟨h1, hterm.mp h2⟩

theorem ruleDrop_checked (s : State) (n : Nat) : FirstOf (s.checksOf (.ruleDrop n)) (s.refusalOf (.ruleDrop n)) := by
  show FirstOf _ (ruleDropRefusal s n)
  refine firstOf_ite Iff.rfl fun _ => ?_
  have hl := listed_checked s.work.nre n (p := True)
  cases hr : s.work.nre.rule n with
  | none => exact ⟨fun _ => rfl, fun h => absurd rfl h⟩
  | some q =>
    refine firstOf_skip (by simp) ?_
    simpa using hl

theorem template_checked (s : State) (n : Nat) (r : TemplateReq) :
    FirstOf (s.checksOf (.templatePut n r)) (s.refusalOf (.templatePut n r)) := by
  refine firstOf_field above_iff fun _ => firstOf_field ?items fun _ => firstOf_field unfit_iff fun _ =>
    firstOf_field ?zones fun _ => firstOf_noFields
  case items =>
    have hbad : (r.items.any badItem = true) ↔ none ∈ r.items ∨ ∃ c, some (.phrase c) ∈ r.items ∧ 4095 < c := by
      rw [List.any_eq_true]
      constructor
      · rintro ⟨x, hx, hb⟩
        rcases x with _ | ⟨c⟩ | k
        · exact .inl hx
        · exact .inr ⟨c, hx, by simpa [badItem] using hb⟩
        · simp [badItem] at hb
      · rintro (h | ⟨c, h, hc⟩)
        · exact ⟨none, h, rfl⟩
        · exact ⟨_, h, by simpa [badItem] using hc⟩
    rw [Bool.or_eq_true, hbad, ← or_assoc]
    refine or_congr_left ?_
    cases r.items <;> simp
  case zones =>
    cases r.zones with
    | is z =>
      cases z with
      | platform => simp [badZoneSource]
      | fixed zs => simp [badZoneSource, isSetIn_eq_false_iff]
    | _ => simp [badZoneSource]

theorem needsService_iff {t : Template} : t.needsService = true ↔ t.zones = .platform ∨ ∃ x, .slot x ∈ t.items := by
  unfold Template.needsService
  rw [Bool.or_eq_true, beq_iff_eq, List.any_eq_true]
  refine or_congr_right ⟨?_, fun ⟨x, hx⟩ => ⟨_, hx, rfl⟩⟩
  rintro ⟨i, hi, hb⟩
  cases i with
  | slot x => exact ⟨x, hi⟩
  | phrase c => cases hb

theorem ask_checked (s : State) (n : Nat) (key : Option Key) :
    FirstOf (s.checksOf (.cueAsk n key)) (s.refusalOf (.cueAsk n key)) := by
  show FirstOf _ (askRefusal s n key)
  unfold askRefusal
  refine firstOf_ite Iff.rfl fun _ => firstOf_ite Iff.rfl fun _ => firstOf_ite ?key fun _ => ?_
  case key => cases key <;> simp
  cases ht : s.work.cuc.template n with
  | none => exact ⟨fun _ => rfl, fun h => absurd rfl h⟩
  | some t =>
    refine firstOf_skip (by simp) ?_
    cases key with
    | some k => exact firstOf_ite (by simp) fun _ => firstOf_single (fun h => by cases h.1) fun _ => rfl
    | none => exact firstOf_skip (by simp) (firstOf_ite (by simp [needsService_iff]) fun _ => rfl)

theorem distinct_eq_false_iff {xs : List Nat} : distinct xs = false ↔ ¬ xs.Nodup := by
  induction xs with
  | nil => simp [distinct]
  | cons x xs ih =>
    rw [distinct, Bool.and_eq_false_iff, ih, List.nodup_cons, not_and_or]
    simp

theorem badTerms_iff {n : Nat} {e : Nre} {r : RuleReq} : badTerms n e r = true ↔
    r.kind = .is .head ∧ ∃ ts, ts = r.terms.getD [] ∧ (4 < ts.length ∨ ¬ ts.Nodup ∨
      ∃ i ∈ ts, 63 < i ∨ i = n ∨ ∀ q, e.rule i = some q → q.kind ≠ .term) := by
  unfold badTerms
  simp only [Bool.and_eq_true, beq_iff_eq, Bool.or_eq_true, decide_eq_true_eq, Bool.not_eq_true', distinct_eq_false_iff,
    List.any_eq_true, exists_eq_left, or_assoc]
  refine and_congr_right fun _ => or_congr_right (or_congr_right (exists_congr fun i => and_congr_right fun _ =>
    or_congr_right (or_congr_right ?_)))
  cases e.rule i <;> simp

theorem rule_checked (s : State) (n : Nat) (r : RuleReq) :
    FirstOf (s.checksOf (.rulePut n r)) (s.refusalOf (.rulePut n r)) := by
  show FirstOf _ (ruleRefusal s n r)
  unfold ruleRefusal State.checksOf
  dsimp only
  rw [← fieldChecks_append]
  refine FirstOf.append ?_ fun hpass => ?_
  · refine firstOf_field above_iff fun _ => firstOf_field missing_iff fun hkind => firstOf_field unknown_iff fun _ =>
      firstOf_field ?statuses fun _ => firstOf_field illSet_iff fun _ => firstOf_field illSet_iff fun _ =>
      firstOf_field beyond_iff fun _ => firstOf_field beyond_iff fun _ => firstOf_field crooked_iff fun _ =>
      firstOf_field crooked_iff fun _ => firstOf_field beyond_iff fun _ => firstOf_field unknown_iff fun _ =>
      firstOf_field unknown_iff fun _ => firstOf_field unknown_iff fun _ => ?actions
    case statuses =>
      cases r.preds.status <;> simp [badStatuses]
    case actions =>
      have hterms : (r.kind = .is .head ∧ ∃ ts, ts = r.terms.getD [] ∧ (4 < ts.length ∨ ¬ ts.Nodup ∨
          ∃ i ∈ ts, 63 < i ∨ i = n ∨ ∀ q, s.work.nre.rule i = some q → q.kind ≠ .term)) ↔ badTerms n s.work.nre r = true :=
        badTerms_iff.symm
      cases hk : r.kind with
      | is k =>
        rw [hk] at hterms
        cases k with
        | term =>
          simp only [actionChecks, hk]
          refine firstOf_field (by simp [Option.ne_none_iff_isSome]) fun _ => firstOf_field (by simp [Option.ne_none_iff_isSome]) fun _ =>
            firstOf_field (by simp [Option.ne_none_iff_isSome]) fun _ => firstOf_field (by simp [Option.ne_none_iff_isSome]) fun _ =>
            firstOf_field (by simp [Option.ne_none_iff_isSome]) fun _ => firstOf_field (by simp) fun _ =>
            firstOf_field (by simp) fun _ => firstOf_field (by simpa using hterms) fun _ => firstOf_noFields
        | head =>
          simp only [actionChecks, hk]
          refine firstOf_skip (by simp) (firstOf_field (by simp [beyond_iff]) fun _ => firstOf_field (by simp [beyond_iff]) fun _ =>
            firstOf_field ?banner fun _ => firstOf_field (by simp [beyond_iff]) fun _ => firstOf_field ?watch fun _ =>
            firstOf_skip (by simp) (firstOf_field (by simpa using hterms) fun _ => firstOf_noFields))
          case banner =>
            cases r.banner with
            | none => simp [badBanner]
            | some p =>
              obtain ⟨i, bs⟩ := p
              simp [badBanner, badText_iff, isSetIn_eq_false_iff]
          case watch =>
            cases r.watch with
            | is w => cases w <;> simp [badWatch]
            | _ => simp [badWatch]
      | omitted => exact absurd (fun k h => by rw [hk] at h; cases h) hkind
      | unknown => exact absurd (fun k h => by rw [hk] at h; cases h) hkind
  · have hl := listed_checked s.work.nre n (p := r.kind = .is .head)
    simpa [Bool.and_eq_true] using hl

/-- Every request's refusal is the first of the checks that its rule lists. -/
theorem refusal_checked (s : State) (q : Request) : FirstOf (s.checksOf q) (s.refusalOf q) := by
  cases q with
  | configureGeneral r => exact general_checked s r
  | configureBoard n r => exact board_checked s n r
  | configureString n r => exact string_checked s n r
  | configureLine n r => exact line_checked s n r
  | configureClockLine n r => exact clock_checked s n r
  | configureCueLink r => exact cueLink_checked s r
  | textLoad items => exact text_checked s items
  | servicePut r => exact put_checked s r
  | serviceDrop key => exact key_checked s key
  | serviceGet key => exact key_checked s key
  | serviceList o start => exact list_checked s o start
  | rulePut n r => exact rule_checked s n r
  | ruleDrop n => exact ruleDrop_checked s n
  | templatePut n r => exact template_checked s n r
  | cueAsk n key => exact ask_checked s n key
  | timeSet h m sec ms => exact time_checked s h m sec ms
  | boardGet n => exact boardGet_checked s n
  | overrideSet on => exact override_checked s on
  | reportMask cs => exact mask_checked s cs
  | identify => rfl
  | timeGet => rfl
  | status => rfl
  | restart => rfl

theorem State.guarded_refused {refusal : Option Reply} {rep : Reply} {owner : State → Served} {s : State} (h : refusal = some rep) :
    s.guarded refusal owner = (s, some rep) := by
  subst h
  rfl

/-- R180 step 3: the owner answers a refusal and changes nothing. -/
theorem owner_refused {q : Request} {rep : Reply} {s : State} (h : s.refusalOf q = some rep) :
    Request.owner q s = (s, some rep) := by
  cases q with
  | identify | timeGet | status | restart => cases h
  | overrideSet on =>
    cases on with
    | none => cases h; rfl
    | some b => cases h
  | reportMask cs =>
    obtain ⟨hc, rfl⟩ : cs.contains none = true ∧ Reply.badField .reportClass = rep := by
      simpa [State.refusalOf] using h
    show ownReportMask cs s = _
    unfold ownReportMask maskOf
    rw [if_pos hc]
  | configureGeneral | configureBoard | configureString | configureLine | configureClockLine | configureCueLink | textLoad
    | servicePut | serviceDrop | serviceGet | serviceList | rulePut | ruleDrop | templatePut | cueAsk | timeSet | boardGet =>
    simp only [Request.owner, ownGeneral, ownBoard, ownString, ownLine, ownClock, ownCueLink, ownTextLoad, ownServicePut,
      ownServiceDrop, ownServiceGet, ownServiceList, ownRulePut, ownRuleDrop, ownTemplatePut, ownCueAsk, ownTimeSet, ownBoardGet]
    exact State.guarded_refused h

/-- Settles O10: a request of the wrong length or refused only reads, and its refusal is the first of its rule's checks that fails. -/
theorem refusedRequestsChangeNothing : Obligations.RefusedRequestsChangeNothing := by
  refine ⟨fun c h q rep s hq hr hrefused => ?_, fun q s => ⟨fun i rep fails => (refusal_checked s q).fails, (refusal_checked s q).passes⟩⟩
  rw [exec_request hq]
  rcases hrefused with ⟨n, hm, rfl⟩ | ⟨hm, href⟩
  · exact request_reads h q s _ hr (owner_misfit h q _ n hm)
  · exact request_reads h q s rep hr ((owner_fits h q _ hm).trans (owner_refused ((refusalOf_arrives h q q s).trans href)))

end Sys2Proof.Machine
end

section
/-!
PROOF. The reports of one class that an event raises (R182); requests that are answered or wait; and the clock lines: what
boundaries, sections and impulse ends do (chapter 9).
-/

namespace Sys2Proof.Machine

/-! ### Reports of one class (R182) -/

/-- R182: the reports of class `c` that are raised from `w` to `u` are `rs`, if the class is enabled and no report is lost. -/
structure Work.Raises (c : ReportClass) (rs : List ReportBody) (w u : Work) : Prop where
  mask : u.hlu.mask = w.hlu.mask
  lost : u.hlu.lost = false → w.hlu.lost = false
  reports : u.hlu.mask.contains c = true → u.hlu.lost = false →
    ∃ new, u.hlu.reports.map Report.body = w.hlu.reports.map Report.body ++ new ∧ (new.filter fun r => r.cls == c) = rs

variable {c : ReportClass}

theorem Work.Raises.raisedOf {rs : List ReportBody} {s t : State} (h : Work.Raises c rs s.work t.work) : s.raisedOf c rs t :=
  h.reports

theorem raises_of_eq {w u : Work} (hm : u.hlu.mask = w.hlu.mask) (hl : u.hlu.lost = w.hlu.lost)
    (hr : u.hlu.reports = w.hlu.reports) : Work.Raises c [] w u :=
  ⟨hm, fun h => hl ▸ h, fun _ _ => ⟨[], by rw [hr, List.append_nil], rfl⟩⟩

theorem raises_refl (w : Work) : Work.Raises c [] w w := raises_of_eq rfl rfl rfl

theorem Work.Raises.trans {rs rs' : List ReportBody} {w v u : Work} (h : Work.Raises c rs w v) (k : Work.Raises c rs' v u) :
    Work.Raises c (rs ++ rs') w u := by
  refine ⟨k.mask.trans h.mask, fun hl => h.lost (k.lost hl), fun hm hl => ?_⟩
  obtain ⟨new, hnew, hrs⟩ := h.reports (k.mask ▸ hm) (k.lost hl)
  obtain ⟨new', hnew', hrs'⟩ := k.reports hm hl
  exact ⟨new ++ new', by rw [hnew', hnew, List.append_assoc], by rw [List.filter_append, hrs, hrs']⟩

/-- An event that raises nothing of the class, and then `rs`. -/
theorem Work.Raises.after {rs : List ReportBody} {w v u : Work} (k : Work.Raises c rs v u) (h : Work.Raises c [] w v) :
    Work.Raises c rs w u := h.trans k

/-- What raises only reports of other classes. -/
theorem Work.Grows.raises {w u : Work} (h : Work.Grows (· ≠ c) w u) (hm : u.hlu.mask = w.hlu.mask) : Work.Raises c [] w u := by
  obtain ⟨⟨new, hnew, hne⟩, hl⟩ := h
  refine ⟨hm, hl, fun _ _ => ⟨new.map Report.body, by rw [hnew, List.map_append], ?_⟩⟩
  rw [List.filter_eq_nil_iff]
  intro r hr
  obtain ⟨rep, hrep, rfl⟩ := List.mem_map.mp hr
  simpa using hne rep hrep

theorem Work.raise_mask (r : ReportBody) (w : Work) : (w.raise r).hlu.mask = w.hlu.mask := by
  rw [Work.raise_hlu, Hlu.raise]
  split
  · split <;> rfl
  · rfl

theorem Work.raiseAll_mask (rs : List ReportBody) (w : Work) : (w.raiseAll rs).hlu.mask = w.hlu.mask := by
  unfold Work.raiseAll
  induction rs generalizing w with
  | nil => rfl
  | cons r rs ih => exact (ih (w.raise r)).trans (w.raise_mask r)

/-- R182: a report of the class joins the queue. -/
theorem raises_raise {r : ReportBody} (hc : r.cls = c) (w : Work) : Work.Raises c [r] w (w.raise r) := by
  have hgrow := w.raise_grows (P := fun _ => True) (r := r) trivial
  refine ⟨w.raise_mask r, hgrow.lost, fun hm hl => ?_⟩
  rw [w.raise_mask, ← hc] at hm
  have hraise : (w.raise r).hlu = w.hlu.raise r := rfl
  rw [Hlu.raise, if_pos hm] at hraise
  split at hraise
  · exact ⟨[r], by rw [hraise, List.map_append]; rfl, by simp [hc]⟩
  · rw [hraise] at hl
    cases hl

theorem raises_raiseAll {rs : List ReportBody} (hc : ∀ r ∈ rs, r.cls = c) (w : Work) : Work.Raises c rs w (w.raiseAll rs) := by
  unfold Work.raiseAll
  induction rs generalizing w with
  | nil => exact raises_refl w
  | cons r rs ih =>
    exact (raises_raise (hc r (List.mem_cons_self ..)) w).trans (ih (fun x hx => hc x (List.mem_cons_of_mem _ hx)) _)

theorem steady_mask {w v : Work} (h : w.steady = v.steady) : w.hlu.mask = v.hlu.mask :=
  (congrArg (fun k : Work => k.hlu.mask) h :)

theorem raises_finish {s t : State} {rs : List ReportBody} (h : Work.Raises c rs s.work t.work) :
    Work.Raises c rs s.work t.finish.work := by
  have hp := pump_kept t.work.hlu
  have := h.trans (raises_of_eq (c := c) (w := t.work) (u := t.finish.work) hp.1 hp.2.1 (pump_reports _))
  rwa [List.append_nil] at this

/-- R179, R186: the frame of a request raises nothing but what the end of DEGRADED brings. -/
theorem arrives_raises (hf : c ≠ .feed) (hcue : c ≠ .cue) (h : ReqHead) (q : Request) (s : State) :
    Work.Raises c [] s.work (s.arrives h q).work := by
  have harrive : Work.Raises c [] s.work { s.work with hlu := { s.work.hlu.arrive h.tag (ReqHead.frame h q) with feedCount := 0 } } := by
    refine raises_of_eq ?_ ?_ ?_ <;>
    · simp only [Hlu.arrive]
      split
      · rfl
      · split <;> rfl
  have hgrow := Work.restoreFeed_grows (P := (· ≠ c)) hcue.symm hf.symm s.base
    { s.work with hlu := { s.work.hlu.arrive h.tag (ReqHead.frame h q) with feedCount := 0 } }
  refine (hgrow.raises ?_).after harrive
  exact (settled_mask (arrives_settled h q s)).trans harrive.mask.symm

/-! ### Requests that are answered or wait (R155, R180) -/

/-- R180: a request that is ready and not of a wrong length: what its owner leaves, with its reply, if it has one. -/
theorem request_takes {h : ReqHead} {q : Request} {s u : State} {o : Option Reply} (hr : s.ready) (hm : h.misfit = none)
    (ho : Request.owner q (s.arrives h q) = (u, o)) :
    ∃ t, s.request h q = .next t ∧ t.replyTo s.work.hlu.arrivals = o ∧ t.base = u.base ∧ t.scd = u.scd ∧ t.pending = u.pending ∧
      t.work = { u.work with hlu := { u.work.hlu with inbound := t.work.hlu.inbound, tx := t.work.hlu.tx } } := by
  have hfits := owner_fits h q (s.arrives h q) hm
  obtain ⟨h1, h2⟩ := request_ready h q s hr (by rw [hfits]; exact owner_inbound q _)
  rw [hfits, ho] at h2
  have hbase : ((s.arrives h q).serve (placeOf h q s)) =
      u.mapHlu (Hlu.updateInbound s.work.hlu.arrivals (Inbound.served o)) := by
    unfold State.serve
    rw [show (placeOf h q s).frame = ReqHead.frame h q from rfl, hfits, ho]
    rfl
  refine ⟨_, h1, ?_, by rw [hbase]; rfl, by rw [hbase]; rfl, by rw [hbase]; rfl, ?_⟩
  · have hnone : s.work.hlu.inbound.find? (fun e => e.arrival == s.work.hlu.arrivals) = none :=
      List.find?_eq_none.mpr fun e he => by simpa using Nat.ne_of_lt (hr.2 e he).2.2
    simp only [State.replyTo, State.finish_work, h2, pump_work, List.find?_append, hnone]
    cases o <;> simp [Inbound.served, Inbound.answer, placeOf, Inbound.reply]
  · simp only [State.finish_work, h2, pump_work]

/-- R180: what such a request raises is what its owner does. -/
theorem takes_raises {t u : State}
    (h : t.work = { u.work with hlu := { u.work.hlu with inbound := t.work.hlu.inbound, tx := t.work.hlu.tx } }) :
    Work.Raises c [] u.work t.work := by
  rw [h]
  exact raises_of_eq rfl rfl rfl

/-! ### The clock lines as the claims read them (R157, R158, R166) -/

theorem Timebase.unqualified_iff (tb : Timebase) : tb.qualified = false ↔ tb.state = .unset := by
  rw [← Bool.not_eq_true, Timebase.qualified_iff, not_not]

theorem ClockLine.target_eq (tb : Timebase) (l : ClockLine) : l.target tb = lineTarget tb l := by
  unfold ClockLine.target lineTarget
  by_cases hu : tb.state = .unset
  · simp [(tb.unqualified_iff).mpr hu, hu]
  · rw [(Timebase.qualified_iff tb).mpr hu]
    cases hs : l.state <;> cases hk : l.kind <;> simp [hu, targetAt, boundarySeconds, dialSize]

theorem ClockLine.behind_eq (clock : Nat) (l : ClockLine) : l.behind clock = stepsBehind l.kind clock l.indicated := by
  unfold ClockLine.behind ClockLine.distance stepsBehind targetAt positions
  cases l.kind <;> rfl

theorem decisionState_eq (k : ClockKind) (hold d : Nat) : decisionState k hold d = decidedState k hold d := by
  unfold decisionState decidedState
  cases k <;> simp only [holdSteps, dialSize, positions] <;> congr 2 <;> simp <;> omega

/-- R166: the report of a line is that of its change. -/
theorem stateReport_eq (n : Nat) (tb : Timebase) (old new : ClockLine) (cause : ClockCause) :
    stateReport n tb old.state cause new = stateChange n tb cause old new := by
  have hd : (lineTarget tb new).map (fun g => new.distance g) =
      (lineTarget tb new).map fun _ => stepsBehind new.kind tb.clockSeconds new.indicated := by
    rw [← ClockLine.target_eq]
    unfold ClockLine.target
    split
    · exact congrArg some (new.behind_eq tb.clockSeconds)
    · rfl
  unfold stateReport stateChange
  rw [ClockLine.target_eq, hd]

theorem stateChange_self (n : Nat) (tb : Timebase) (cause : ClockCause) {old new : ClockLine} (h : old.state = new.state) :
    stateChange n tb cause old new = [] := if_pos h

theorem stateChange_class {n : Nat} {tb : Timebase} {cause : ClockCause} {old new : ClockLine} :
    ∀ r ∈ stateChange n tb cause old new, r.cls = .clockLine := by
  unfold stateChange
  split
  · exact fun r hr => absurd hr List.not_mem_nil
  · exact fun r hr => by rw [List.mem_singleton.mp hr]; rfl

/-! ### The four lines -/

theorem mapLinesFrom_getElem? (f : Nat → ClockLine → ClockLine × List ReportBody) (k n : Nat) (ls : List ClockLine) :
    (mapLinesFrom f k ls).1[n]? = ls[n]?.map fun l => (f (k + n) l).1 := by
  induction ls generalizing k n with
  | nil => rfl
  | cons l ls ih =>
    cases n with
    | zero => rfl
    | succ n =>
      have := ih (k + 1) n
      rw [Nat.add_right_comm] at this
      exact this

theorem mapLinesFrom_length (f : Nat → ClockLine → ClockLine × List ReportBody) (k : Nat) (ls : List ClockLine) :
    (mapLinesFrom f k ls).1.length = ls.length := by
  induction ls generalizing k with
  | nil => rfl
  | cons l ls ih => exact congrArg Nat.succ (ih (k + 1))

/-- R166: an event whose reports are each line's change of state raises them in ascending line number. -/
theorem mapLinesFrom_reports {f : Nat → ClockLine → ClockLine × List ReportBody} {tb : Timebase} {cause : ClockCause}
    (hf : ∀ n l, (f n l).2 = stateChange n tb cause l (f n l).1) (k : Nat) (ls : List ClockLine) :
    (mapLinesFrom f k ls).2 =
      ((ls.zip (mapLinesFrom f k ls).1).zipIdx k).flatMap fun p => stateChange p.2 tb cause p.1.1 p.1.2 := by
  induction ls generalizing k with
  | nil => rfl
  | cons l ls ih =>
    have := ih (k + 1)
    simp only [mapLinesFrom, List.zip_cons_cons, List.zipIdx_cons, List.flatMap_cons]
    rw [hf k l, ← this]

/-- R166: an event at every line raises the changes of state it brings. -/
theorem clockEvent_raises {f : Nat → ClockLine → ClockLine × List ReportBody} {tb : Timebase} {cause : ClockCause}
    (hf : ∀ n l, (f n l).2 = stateChange n tb cause l (f n l).1) (s : State) :
    Work.Raises .clockLine (stateChanges tb cause s.scd (s.clockEvent f).scd) s.work (s.clockEvent f).work := by
  have hr := mapLinesFrom_reports hf 0 s.scd
  rw [State.clockEvent_work, State.clockEvent_scd, hr]
  refine raises_raiseAll (fun r hmem => ?_) s.work
  obtain ⟨p, -, hp⟩ := List.mem_flatMap.mp hmem
  exact stateChange_class r hp

/-! ### Second events (R157, R161 to R163) -/

theorem ClockLine.second_reports (e : Nat) (tb : Timebase) (n : Nat) (l : ClockLine) :
    (l.second e tb n).2 = stateChange n tb .boundary l (l.second e tb n).1 := by
  unfold ClockLine.second
  split
  · split
    · next h => exact (stateChange_self n tb .boundary (ClockLine.start_state e { l with pending := true }).symm).symm
    · next h =>
      split
      · rw [← h]
        exact stateReport_eq n tb l _ .boundary
      · exact (stateChange_self n tb .boundary rfl).symm
    · exact (stateChange_self n tb .boundary rfl).symm
  · exact (stateChange_self n tb .boundary rfl).symm

theorem isBoundary_iff (k : ClockKind) (clock : Nat) :
    isBoundary k clock = true ↔ (match k with | .minute => clock % 60 = 0 | .halfMinute => clock % 30 = 0) := by
  cases k <;> simp [isBoundary, boundarySeconds]

theorem ClockLine.second_off {e : Nat} {tb : Timebase} {n : Nat} {l : ClockLine} (h : ¬ isBoundary l.kind tb.clockSeconds = true) :
    (l.second e tb n).1 = l := by rw [ClockLine.second, if_neg h]

theorem ClockLine.second_running {e : Nat} {tb : Timebase} {n : Nat} {l : ClockLine} (h : isBoundary l.kind tb.clockSeconds = true)
    (hs : l.state = .running) : (l.second e tb n).1 = ({ l with pending := true } : ClockLine).start e := by
  rw [ClockLine.second, if_pos h, hs]

theorem ClockLine.second_holding {e : Nat} {tb : Timebase} {n : Nat} {l : ClockLine} (h : isBoundary l.kind tb.clockSeconds = true)
    (hs : l.state = .holding) : (l.second e tb n).1 =
      if stepsBehind l.kind tb.clockSeconds l.indicated = 0 then { l with state := .running } else l := by
  rw [ClockLine.second, if_pos h, hs, ← ClockLine.behind_eq]
  dsimp only
  split <;> rfl

theorem ClockLine.second_still {e : Nat} {tb : Timebase} {n : Nat} {l : ClockLine} (h : l.state ≠ .running) (h' : l.state ≠ .holding) :
    (l.second e tb n).1 = l := by
  unfold ClockLine.second
  split
  · split
    · next hs => exact absurd hs h
    · next hs => exact absurd hs h'
    · rfl
  · rfl

theorem ClockLine.start_idle {e : Nat} {l : ClockLine} (hd : l.drive = .idle) (hp : l.pending = true)
    (hs : l.state = .running ∨ l.state = .catchup) :
    l.start e = { l with pending := false, drive := .driving (e + l.width), seen := false, impulseSense := l.sense } :=
  if_pos ⟨hd, hp, hs⟩

theorem ClockLine.start_busy {e : Nat} {l : ClockLine} (hd : l.drive ≠ .idle) : l.start e = l := if_neg fun h => hd h.1

/-- R4: the blocks, the clock lines and the feed at a second event. -/
def State.clockSecond (s : State) : State :=
  ((s.mapWork (Work.secondBlocks s.base)).clockEvent (ClockLine.second s.base.elapsed s.base.tbs)).mapWork (Work.feedSecond s.base)

theorem State.deliverSecond_minute {s : State} (h : s.base.tbs.clockSeconds % 60 = 0) :
    s.deliverSecond = s.clockSecond.mapWork (Work.age s.base) := by
  unfold State.deliverSecond State.clockSecond
  dsimp only
  split
  · simp only [State.mapWork_base, State.clockEvent_base]
  · next hn => exact absurd h hn

theorem State.deliverSecond_within {s : State} (h : ¬ s.base.tbs.clockSeconds % 60 = 0) : s.deliverSecond = s.clockSecond := by
  unfold State.deliverSecond State.clockSecond
  dsimp only
  split
  · next hm => exact absurd hm h
  · simp only [State.mapWork_base, State.clockEvent_base]

theorem State.clockSecond_scd (s : State) :
    s.clockSecond.scd = (mapLinesFrom (ClockLine.second s.base.elapsed s.base.tbs) 0 s.scd).1 := by
  rw [State.clockSecond, State.mapWork_scd, State.clockEvent_scd, State.mapWork_scd]

theorem State.clockSecond_work (s : State) : s.clockSecond.work =
    ((s.mapWork (Work.secondBlocks s.base)).clockEvent (ClockLine.second s.base.elapsed s.base.tbs)).work.feedSecond s.base := by
  rw [State.clockSecond, State.mapWork_work]

/-- R4: what a second event leaves in the clock lines, and the reports of theirs that it raises. -/
theorem State.deliverSecond_clock (s : State) :
    s.deliverSecond.scd = (mapLinesFrom (ClockLine.second s.base.elapsed s.base.tbs) 0 s.scd).1 ∧
      Work.Raises .clockLine (stateChanges s.base.tbs .boundary s.scd s.deliverSecond.scd) s.work s.deliverSecond.work := by
  have hblocks : Work.Raises .clockLine [] s.work (s.work.secondBlocks s.base) :=
    (Work.secondBlocks_grows (by decide) (by decide) (by decide) s.base s.work).raises
      (steady_mask (Work.secondBlocks_steady s.base s.work))
  have hlines := clockEvent_raises (ClockLine.second_reports s.base.elapsed s.base.tbs) (s.mapWork (Work.secondBlocks s.base))
  rw [State.mapWork_work, State.mapWork_scd] at hlines
  have hfeed : ∀ w : Work, Work.Raises .clockLine [] w (w.feedSecond s.base) := fun w =>
    (Work.feedSecond_grows (by decide) (by decide) s.base w).raises (steady_mask (Work.feedSecond_steady s.base w))
  have hage : ∀ w : Work, Work.Raises .clockLine [] w (w.age s.base) := fun w =>
    (Work.age_grows (P := (· ≠ .clockLine)) (by decide) s.base w).raises (steady_mask (Work.age_steady s.base w))
  have hsum := (hlines.after hblocks).trans (hfeed _)
  rw [List.append_nil, ← State.clockSecond_work, State.clockEvent_scd, State.mapWork_scd, ← State.clockSecond_scd] at hsum
  by_cases hminute : s.base.tbs.clockSeconds % 60 = 0
  · have := hsum.trans (hage _)
    rw [List.append_nil] at this
    rw [State.deliverSecond_minute hminute, State.mapWork_scd, State.mapWork_work]
    exact ⟨s.clockSecond_scd, this⟩
  · rw [State.deliverSecond_within hminute]
    exact ⟨s.clockSecond_scd, hsum⟩

theorem Work.changeover_raises (b : Base) (v : Bool) (w : Work) : Work.Raises .clockLine [] w (w.changeover b v) := by
  have hclass : (ReportBody.changeover b.tbs.c0 v).cls ≠ .clockLine := by simp [ReportBody.cls]
  have hgrow : Work.Grows (· ≠ .clockLine) w (w.changeover b v) :=
    grows_step (w := w) (v := w.noticeChangeover.cueChangeover)
      (grows_trans (Work.serviceChangeover_grows (by decide) (by decide) (by decide) b _) (Work.raise_grows hclass _)) rfl
  exact hgrow.raises (steady_mask (Work.changeover_steady b v w))

/-- Settles O42, on the state that the wrap and, at the end of the day, the changeover leave. -/
theorem boundariesMoveTheLines : Obligations.BoundariesMoveTheLines := by
  intro s hq
  have hsecond : s.takeSecond = s.secondEvent := if_pos ((Timebase.qualified_iff _).mpr hq)
  have hclock : s.secondEvent.scd = (mapLinesFrom (ClockLine.second s.base.wrap.elapsed s.base.wrap.tbs) 0 s.scd).1 ∧
      Work.Raises .clockLine (stateChanges s.base.wrap.tbs .boundary s.scd s.secondEvent.scd) s.work s.secondEvent.work := by
    unfold State.secondEvent
    dsimp only
    split
    · obtain ⟨h1, h2⟩ := (({ s with base := s.base.wrap } : State).mapWork (Work.changeover s.base.wrap false)).deliverSecond_clock
      exact ⟨h1, h2.after (Work.changeover_raises ..)⟩
    · exact ({ s with base := s.base.wrap } : State).deliverSecond_clock
  obtain ⟨hscd, hreports⟩ := hclock
  have hbase := (State.secondEvent_rest s).1
  refine ⟨s.secondEvent.finish, by rw [← hsecond]; rfl, ?_, ?_, fun n l hl => ?_⟩
  · rw [State.finish_scd, hscd, mapLinesFrom_length]
  · rw [State.finish_scd, State.finish_base, hbase]
    exact (raises_finish hreports).raisedOf
  · refine ⟨(l.second s.base.wrap.elapsed s.base.wrap.tbs n).1, ?_, ?_⟩
    · rw [State.finish_scd, hscd, mapLinesFrom_getElem?, hl, Nat.zero_add]
      rfl
    · rw [State.finish_base, hbase]
      have hboundary := isBoundary_iff l.kind s.base.wrap.tbs.clockSeconds
      refine ⟨fun h => ClockLine.second_off fun hb => h (hboundary.mp hb), fun hb hs hd => ?_, fun hb hs hd => ?_,
        fun hb => ClockLine.second_holding (hboundary.mpr hb), ClockLine.second_still⟩
      · rw [ClockLine.second_running (hboundary.mpr hb) hs]
        exact ClockLine.start_idle hd rfl (.inl hs)
      · rw [ClockLine.second_running (hboundary.mpr hb) hs]
        exact ClockLine.start_busy hd

end Sys2Proof.Machine
end

section
/-!
PROOF. Sections of clock lines (R154, R155) and the end of an impulse (R160, R164).
-/

namespace Sys2Proof.Machine

/-! ### Sections (R154, R155, R158) -/

/-- R155 step 5: the state of a line that has a section stored. -/
def ClockLine.stateBy (tb : Timebase) (x : ClockSection) (l : ClockLine) : ClockState :=
  if x.active = false then .unconfigured
  else if tb.state = .unset then .waiting
  else decidedState l.kind l.hold (stepsBehind l.kind tb.clockSeconds l.indicated)

/-- R155: what a section leaves before an impulse starts, and its report. -/
theorem ClockLine.configured_eq (n : Nat) (tb : Timebase) (x : ClockSection) (l : ClockLine) :
    (l.configured n tb x).1 =
        { l.store x with state := (l.store x).stateBy tb x, pending := Decidable.decide ((l.store x).stateBy tb x = .catchup) } ∧
      (l.configured n tb x).2 = stateChange n tb .configure l (l.configured n tb x).1 := by
  by_cases ha : x.active = false
  · have hst : (l.store x).stateBy tb x = .unconfigured := if_pos ha
    rw [hst, ClockLine.configured, if_pos ha]
    exact ⟨rfl, stateReport_eq n tb l _ .configure⟩
  · by_cases hu : tb.state = .unset
    · have hst : (l.store x).stateBy tb x = .waiting := by rw [ClockLine.stateBy, if_neg ha, if_pos hu]
      rw [hst, ClockLine.configured, if_neg ha, (tb.unqualified_iff).mpr hu]
      exact ⟨rfl, stateReport_eq n tb l _ .configure⟩
    · have hst : (l.store x).stateBy tb x =
          decisionState (l.store x).kind (l.store x).hold ((l.store x).behind tb.clockSeconds) := by
        rw [ClockLine.stateBy, if_neg ha, if_neg hu, decisionState_eq, ClockLine.behind_eq]
      rw [hst, ClockLine.configured, if_neg ha, (Timebase.qualified_iff tb).mpr hu, if_pos rfl]
      refine ⟨?_, stateReport_eq n tb l _ .configure⟩
      simp only [ClockLine.decideFor, ClockLine.decided, decide_true, Bool.or_true, Bool.true_or, Bool.and_true]

theorem ClockLine.start_still {e : Nat} {l : ClockLine} (h : l.pending = false) : l.start e = l :=
  if_neg fun hs => by rw [h] at hs; exact absurd hs.2.1 (by decide)

/-- R154, R155: what a section brings about on a line that is not driving. -/
theorem ClockLine.apply_effect (n e : Nat) (tb : Timebase) (x : ClockSection) (l : ClockLine) :
    let next := (l.store x).stateBy tb x
    let l' := (l.apply n e tb x).1
    l'.kept = (l.store x).kept ∧ l'.state = next ∧ l'.decide = false ∧
      (next = .catchup → l.drive = .idle → l'.drive = .driving (e + x.width) ∧ l'.pending = false) ∧
      (next = .catchup → l.drive ≠ .idle → l'.drive = l.drive ∧ l'.pending = true) ∧
      (next ≠ .catchup → l'.drive = l.drive ∧ l'.pending = false) ∧
      (l.apply n e tb x).2 = stateChange n tb .configure l l' := by
  intro next l'
  obtain ⟨h1, h2⟩ := ClockLine.configured_eq n tb x l
  have hstate : l'.state = next := by
    rw [show l' = (l.configured n tb x).1.start e from rfl, ClockLine.start_state, h1]
  have hrep : (l.apply n e tb x).2 = stateChange n tb .configure l l' := by
    have hstart := ClockLine.start_kept e (l.configured n tb x).1
    rw [show (l.apply n e tb x).2 = (l.configured n tb x).2 from rfl, h2]
    unfold stateChange
    have hs : (l.configured n tb x).1.state = l'.state := (ClockLine.start_state e _).symm
    have hk : (l.configured n tb x).1.kind = l'.kind := (congrArg ClockLine.kind hstart.symm :)
    have hi : (l.configured n tb x).1.indicated = l'.indicated := (congrArg ClockLine.indicated hstart.symm :)
    have ht : lineTarget tb (l.configured n tb x).1 = lineTarget tb l' := by simp only [lineTarget, hs, hk]
    rw [hs, hk, hi, ht]
  refine ⟨?_, hstate, ?_, fun hc hd => ?_, fun hc hd => ?_, fun hc => ?_, hrep⟩
  · exact (ClockLine.start_kept e _).trans (by rw [h1]; rfl)
  · rw [show l' = (l.configured n tb x).1.start e from rfl, h1]
    unfold ClockLine.start
    split <;> rfl
  · have hl : l' = _ := ClockLine.start_idle (e := e) (l := (l.configured n tb x).1) (by rw [h1]; exact hd)
      (by rw [h1]; exact decide_eq_true hc) (.inr (by rw [h1]; exact hc))
    rw [hl, h1]
    exact ⟨rfl, rfl⟩
  · have hl : l' = _ := ClockLine.start_busy (e := e) (l := (l.configured n tb x).1) (by rw [h1]; exact hd)
    rw [hl, h1]
    exact ⟨rfl, decide_eq_true hc⟩
  · have hl : l' = _ := ClockLine.start_still (e := e) (l := (l.configured n tb x).1) (by rw [h1]; exact decide_eq_false hc)
    rw [hl, h1]
    exact ⟨rfl, decide_eq_false hc⟩

theorem outside_iff_clamped {lo hi d : Nat} (h1 : lo ≤ d) (h2 : d ≤ hi) (v : Option Nat) :
    outside lo hi v = false ↔ clamp lo hi (v.getD d) = v.getD d := by
  rw [clamp_eq (Nat.le_trans h1 h2)]
  cases v with
  | none => simp [outside, Nat.not_lt.mpr h1, Nat.not_lt.mpr h2]
  | some v =>
    simp only [outside, Option.getD_some]
    by_cases hlo : v < lo
    · simp [hlo]; omega
    · by_cases hhi : hi < v
      · simp [hlo, hhi]; omega
      · simp [hlo, hhi, Nat.not_lt.mp hlo, Nat.not_lt.mp hhi]

/-- R154: the reply names the fields that were clamped. -/
theorem clockReply_section (r : ClockReq) (v : ClockView) :
    clockReply (clockSection r) v =
      if clamp 100 1000 (r.width.getD 300) = r.width.getD 300 ∧ clamp 200 2000 (r.gap.getD 700) = r.gap.getD 700 then
        ⟨.ok, [], .clock v⟩
      else
        ⟨.clamped,
          (if clamp 100 1000 (r.width.getD 300) = r.width.getD 300 then [] else [(.width, clamp 100 1000 (r.width.getD 300))]) ++
            (if clamp 200 2000 (r.gap.getD 700) = r.gap.getD 700 then [] else [(.gap, clamp 200 2000 (r.gap.getD 700))]),
          .clock v⟩ := by
  have hw := outside_iff_clamped (lo := 100) (hi := 1000) (d := 300) (by decide) (by decide) r.width
  have hg := outside_iff_clamped (lo := 200) (hi := 2000) (d := 700) (by decide) (by decide) r.gap
  simp only [← hw, ← hg]
  unfold clockReply clockSection Reply.clampedOr
  cases outside 100 1000 r.width <;> cases outside 200 2000 r.gap <;> rfl

theorem raiseAll_settled (rs : List ReportBody) (w : Work) : (w.raiseAll rs).settled = w.settled :=
  kept_settled (Work.raiseAll_kept rs w)

theorem State.clock_eq {s : State} {n : Nat} {l : ClockLine} (h : s.scd[n]? = some l) : s.clock n = l := by
  rw [State.clock, List.getD_eq_getElem?_getD, h]
  rfl

theorem ClockLine.isDriving_iff (l : ClockLine) : l.isDriving = true ↔ ∃ due, l.drive = .driving due := by
  unfold ClockLine.isDriving
  cases l.drive <;> simp

theorem oneClock_other {s : State} {n k : Nat} {f : ClockLine → ClockLine × List ReportBody} (h : k ≠ n) :
    (s.oneClock n f).scd[k]? = s.scd[k]? := List.getElem?_set_ne h.symm

theorem oneClock_self {s : State} {n : Nat} {l : ClockLine} {f : ClockLine → ClockLine × List ReportBody} (h : s.scd[n]? = some l) :
    (s.oneClock n f).scd[n]? = some (f l).1 := by
  rw [State.oneClock_scd, State.clock_eq h, List.getElem?_set_self (List.getElem?_eq_some_iff.mp h).1]

theorem State.applyClock_driving {s : State} {n : Nat} {l : ClockLine} {x : ClockSection} (h : s.scd[n]? = some l)
    (hd : l.isDriving = true) : s.applyClock n x = (s.oneClock n fun l => ({ l with waiting := some x }, []), none) := by
  unfold State.applyClock
  rw [State.clock_eq h, if_pos hd]

theorem State.applyClock_free {s : State} {n : Nat} {l : ClockLine} {x : ClockSection} (h : s.scd[n]? = some l)
    (hd : ¬ l.isDriving = true) : s.applyClock n x =
      (s.oneClock n (ClockLine.apply n s.base.elapsed s.base.tbs x),
        some (clockReply x ((l.apply n s.base.elapsed s.base.tbs x).1.view s.base.tbs))) := by
  have hself := State.clock_eq (oneClock_self (f := ClockLine.apply n s.base.elapsed s.base.tbs x) h)
  unfold State.applyClock
  rw [State.clock_eq h, if_neg hd]
  dsimp only
  rw [hself]

theorem clockSection_active (r : ClockReq) : (clockSection r).active = false ↔ r.active = .is false := by
  unfold clockSection argOr
  cases r.active <;> simp

/-- Settles O39: the section is applied at once, or joins the line that is driving. -/
theorem configureClockLineTakesTheSection : Obligations.ConfigureClockLineTakesTheSection := by
  intro h n r l s hr hm hok hl kind width gap W G indicated stored next
  have hok' : clockRefusal (s.arrives h (.configureClockLine n r)) n r = none :=
    (refusalOf_arrives h (.configureClockLine n r) (.configureClockLine n r) s).trans hok
  have hW : (clockSection r).width = W := clamp_eq (by decide)
  have hG : (clockSection r).gap = G := clamp_eq (by decide)
  have hposition : ((clockSection r).position).getD l.indicated = indicated := by
    simp only [clockSection, indicated, kind]
    cases r.indicated with
    | is x =>
      cases x with
      | keep => rfl
      | reading hh m sec =>
        have hpos : ∀ k, positionOf k hh m sec =
            if k = .minute then 60 * (hh % 12) + m else 2 * (60 * (hh % 12) + m) + (if sec = 30 then 1 else 0) := fun k => by
          cases k <;> rfl
        exact hpos _
    | _ => rfl
  have hpolarity : ((clockSection r).polarity).getD l.polarity = stored.polarity := by
    simp only [clockSection, stored]
    cases r.polarity with
    | is p => cases p <;> rfl
    | _ => rfl
  have hstore : l.store (clockSection r) = stored := by
    unfold ClockLine.store
    rw [hW, hG, hposition, hpolarity]
    rfl
  have hnext : (l.store (clockSection r)).stateBy s.base.tbs (clockSection r) = next := by
    unfold ClockLine.stateBy
    rw [hstore]
    simp only [clockSection_active]
    rfl
  have hla : (s.arrives h (.configureClockLine n r)).scd[n]? = some l := hl
  have hraise : ∀ {u : State} {rs : List ReportBody}, u.work = (s.arrives h (.configureClockLine n r)).work.raiseAll rs →
      (∀ x ∈ rs, x.cls = .clockLine) → u.work.settled = s.work.settled ∧ Work.Raises .clockLine rs s.work u.work := by
    intro u rs hu hcls
    rw [hu]
    exact ⟨(raiseAll_settled rs _).trans (arrives_settled h _ s),
      (raises_raiseAll hcls _).after (arrives_raises (by decide) (by decide) h _ s)⟩
  by_cases hd : l.isDriving = true
  · obtain ⟨t, h1, h2, hb, hs, hp, hw⟩ := request_takes (q := .configureClockLine n r) hr hm (by
      simp only [Request.owner, ownClock, guarded_eq hok']
      exact State.applyClock_driving hla hd)
    obtain ⟨hset, hrep⟩ := hraise (rs := []) rfl fun x hx => absurd hx List.not_mem_nil
    refine ⟨t, { l with waiting := some (clockSection r) }, h1, hb, hp, (answers_settled hw).trans hset,
      fun k hk => by rw [hs]; exact oneClock_other hk, by rw [hs]; exact oneClock_self hla, ?_, fun _ => ⟨rfl, h2⟩, fun hnot => ?_⟩
    · have hnone : stateChange n t.base.tbs .configure l { l with waiting := some (clockSection r) } = [] := stateChange_self _ _ _ rfl
      rw [hnone]
      exact ((takes_raises hw).after hrep).raisedOf
    · obtain ⟨due, hdue⟩ := (l.isDriving_iff).mp hd
      exact absurd hdue (hnot due)
  · obtain ⟨hkept, hstate, -, hidle, hbusy, hrest, hreports⟩ := ClockLine.apply_effect n s.base.elapsed s.base.tbs (clockSection r) l
    rw [hnext] at hstate hidle hbusy hrest
    rw [hW] at hidle
    rw [hstore] at hkept
    have hfree : (s.arrives h (.configureClockLine n r)).applyClock n (clockSection r) =
        ((s.arrives h (.configureClockLine n r)).oneClock n (ClockLine.apply n s.base.elapsed s.base.tbs (clockSection r)),
          some (clockReply (clockSection r) ((l.apply n s.base.elapsed s.base.tbs (clockSection r)).1.view s.base.tbs))) :=
      State.applyClock_free hla hd
    obtain ⟨t, h1, h2, hb, hs, hp, hw⟩ := request_takes (q := .configureClockLine n r) hr hm (by
      simp only [Request.owner, ownClock, guarded_eq hok']
      exact hfree)
    obtain ⟨hset, hrep⟩ := hraise (rs := stateChange n s.base.tbs .configure l _) (by
      rw [State.oneClock_work, State.clock_eq hla]
      exact congrArg (fun rs => Work.raiseAll rs _) hreports) stateChange_class
    refine ⟨t, _, h1, hb, hp, (answers_settled hw).trans hset, fun k hk => by rw [hs]; exact oneClock_other hk,
      by rw [hs]; exact oneClock_self hla, ?_, fun hdr => absurd ((l.isDriving_iff).mpr hdr) hd, fun _ =>
        ⟨hkept, hstate, fun hn => hidle hn.1 hn.2, fun hn => hbusy hn.1 hn.2, hrest, ?_⟩⟩
    · have := hrep.trans (takes_raises hw)
      rw [List.append_nil] at this
      rw [hb]
      exact this.raisedOf
    · rw [h2, clockReply_section]
      have hW' : clamp 100 1000 (r.width.getD 300) = W := hW
      have hG' : clamp 200 2000 (r.gap.getD 700) = G := hG
      simp only [hW', hG']
      rfl

end Sys2Proof.Machine
end

section
/-!
PROOF. The end of an impulse (R160, R164, R155).
-/

namespace Sys2Proof.Machine

theorem Work.raiseAll_work (rs : List ReportBody) (w : Work) :
    w.raiseAll rs = { w with hlu := (w.raiseAll rs).hlu } ∧ (w.raiseAll rs).hlu.inbound = w.hlu.inbound := by
  unfold Work.raiseAll
  induction rs generalizing w with
  | nil => exact ⟨rfl, rfl⟩
  | cons r rs ih =>
    obtain ⟨h1, h2⟩ := ih (w.raise r)
    refine ⟨h1, h2.trans ?_⟩
    rw [Work.raise_hlu, Hlu.raise]
    split
    · split <;> rfl
    · rfl

/-- R182: a report just raised is the last of the queue, if its class is enabled and there was room. -/
theorem Work.raise_last {r : ReportBody} {w : Work} (hm : (w.raise r).hlu.mask.contains r.cls = true)
    (hroom : (w.raise r).hlu.reports.length < Config.maxReports) : (w.raise r).hlu.reports.getLast?.map Report.body = some r := by
  rw [w.raise_mask] at hm
  rw [Work.raise_hlu, Hlu.raise, if_pos hm] at hroom ⊢
  by_cases h : w.hlu.reports.length < Config.maxReports
  · rw [if_pos h]
    simp
  · rw [if_neg h] at hroom
    exact absurd hroom h

/-- R158, R159: the decision and the start that may follow it. -/
theorem decidedLine_eq (e clock : Nat) (l : ClockLine) : decidedLine e clock l = (l.decided clock false).start e := by
  unfold decidedLine ClockLine.decided
  rw [decisionState_eq, ClockLine.behind_eq]
  dsimp only
  generalize decidedState l.kind l.hold (stepsBehind l.kind clock l.indicated) = next
  by_cases hc : next = .catchup ∧ (l.pending = true ∨ l.state ≠ .catchup)
  · have hp : (decide (next = .catchup) && (l.pending || false || decide (l.state ≠ .catchup))) = true := by
      obtain ⟨h1, h2⟩ := hc
      simpa [h1] using h2
    rw [if_pos hc, hp]
    by_cases hd : l.drive = .idle
    · rw [if_pos hd]
      exact (ClockLine.start_idle (l := { l with state := next, pending := true }) hd rfl (.inr hc.1)).symm
    · rw [if_neg hd]
      exact (ClockLine.start_busy (l := { l with state := next, pending := true }) hd).symm
  · have hp : (decide (next = .catchup) && (l.pending || false || decide (l.state ≠ .catchup))) = false := by
      by_contra h
      rw [Bool.not_eq_false] at h
      exact hc (by simpa using h)
    rw [if_neg hc, hp]
    exact (ClockLine.start_still (l := { l with state := next, pending := false }) rfl).symm

theorem lineTarget_of_driving {tb : Timebase} {l m : ClockLine} (hk : m.kind = l.kind)
    (hl : l.state ≠ .unconfigured ∧ l.state ≠ .waiting) (hm : m.state ≠ .unconfigured ∧ m.state ≠ .waiting) :
    lineTarget tb m = lineTarget tb l := by
  simp [lineTarget, hk, hl, hm]

/-- R155: what a section stores of a line is fixed by what the line keeps. -/
theorem ClockLine.store_kept {x : ClockSection} {l m : ClockLine} (h : l.kept = m.kept) : (l.store x).kept = (m.store x).kept :=
  (congrArg (fun k : ClockLine => (k.store x).kept) h :)

/-- R160: the impulse is counted or missed, the polarity flipped and the gap begun. -/
def ClockLine.counted (e : Nat) (l : ClockLine) : ClockLine :=
  { l with
    indicated := if l.impulseSense = none ∨ l.seen = true then (l.indicated + 1) % positions l.kind else l.indicated
    miss := if l.impulseSense = none ∨ l.seen = true then 0 else l.miss + 1
    drive := .gap (e + l.gap), impulseSense := none
    polarity := match l.polarity with | .positive => .negative | .negative => .positive }

theorem ClockLine.count_eq (e : Nat) (l : ClockLine) : l.count e = l.counted e := by
  have hseen : l.impulseSeen = true ↔ l.impulseSense = none ∨ l.seen = true := by
    simp [ClockLine.impulseSeen, Option.isNone_iff_eq_none]
  have hsize : dialSize l.kind = positions l.kind := by cases l.kind <;> rfl
  unfold ClockLine.count ClockLine.counted
  simp only [hseen, hsize]
  cases l.polarity <;> rfl

/-- R160: the state after the judgement of a line that is RUNNING or CATCHUP. -/
def ClockLine.judged (e clock : Nat) (l : ClockLine) : ClockLine :=
  let m := l.counted e
  if m.miss = 3 then { m with state := .faulted, pending := false }
  else if stepsBehind l.kind clock m.indicated = 0 then { m with state := .running }
  else if l.state = .catchup then { m with pending := true }
  else { m with
    state := decidedState l.kind l.hold (stepsBehind l.kind clock m.indicated)
    pending := decidedState l.kind l.hold (stepsBehind l.kind clock m.indicated) == .catchup }

theorem decidedState_mem (k : ClockKind) (hold d : Nat) :
    decidedState k hold d = .running ∨ decidedState k hold d = .catchup ∨ decidedState k hold d = .holding := by
  by_cases h0 : d = 0
  · exact .inl (if_pos h0)
  · unfold decidedState
    rw [if_neg h0]
    exact .inr (ite_eq_or_eq ..)

theorem ClockLine.judged_keeps (e clock : Nat) (l : ClockLine) :
    (l.judged e clock).kept = (l.counted e).kept ∧ (l.judged e clock).drive = .gap (e + l.gap) ∧
      (l.judged e clock).decide = l.decide ∧ (l.judged e clock).waiting = l.waiting := by
  unfold ClockLine.judged
  dsimp only
  split
  · exact ⟨rfl, rfl, rfl, rfl⟩
  · split
    · exact ⟨rfl, rfl, rfl, rfl⟩
    · split <;> exact ⟨rfl, rfl, rfl, rfl⟩

theorem ClockLine.judged_state (e clock : Nat) (l : ClockLine) :
    ((l.counted e).miss = 3 ∧ (l.judged e clock).state = .faulted) ∨
      ((l.counted e).miss ≠ 3 ∧ (l.judged e clock).decidable = true) := by
  rw [ClockLine.decidable_iff]
  unfold ClockLine.judged
  dsimp only
  split
  · next h => exact .inl ⟨h, rfl⟩
  · next h =>
    refine .inr ⟨h, ?_⟩
    split
    · exact .inl rfl
    · split
      · next hc => exact .inr (.inl hc)
      · exact decidedState_mem ..

/-- R160: the judgement and its report. -/
theorem ClockLine.judge_eq {l : ClockLine} (hst : l.state = .running ∨ l.state = .catchup) (n e : Nat) (tb : Timebase) :
    (l.judge n e tb).1 = l.judged e tb.clockSeconds ∧
      (l.judge n e tb).2 =
        if (l.counted e).miss = 3 then
          [.clockLineFault n (l.counted e).indicated (lineTarget tb (l.judged e tb.clockSeconds)) l.polarity l.impulseSense]
        else stateChange n tb .impulse l (l.judged e tb.clockSeconds) := by
  have hbehind : (l.counted e).behind tb.clockSeconds = stepsBehind l.kind tb.clockSeconds (l.counted e).indicated :=
    ClockLine.behind_eq ..
  have hnot : l.state ≠ .unconfigured ∧ l.state ≠ .waiting := by rcases hst with h | h <;> rw [h] <;> decide
  unfold ClockLine.judge ClockLine.judged
  dsimp only
  rw [if_pos hst, ClockLine.count_eq, hbehind]
  by_cases h3 : (l.counted e).miss = 3
  · simp only [if_pos h3]
    refine ⟨trivial, ?_⟩
    rw [ClockLine.target_eq, lineTarget_of_driving (l := l.counted e) (m := { l.counted e with state := .faulted, pending := false }) rfl
      hnot ⟨(nofun), (nofun)⟩]
  · simp only [if_neg h3]
    by_cases h0 : stepsBehind l.kind tb.clockSeconds (l.counted e).indicated = 0
    · simp only [if_pos h0]
      exact ⟨trivial, stateReport_eq n tb l _ .impulse⟩
    · simp only [if_neg h0]
      by_cases hc : l.state = .catchup
      · simp only [if_pos hc]
        have hsame : l.state = ({ l.counted e with pending := true } : ClockLine).state := rfl
        exact ⟨trivial, (stateChange_self n tb .impulse hsame).symm⟩
      · simp only [if_neg hc]
        have hdec : (l.counted e).decided tb.clockSeconds false = { l.counted e with
            state := decidedState l.kind l.hold (stepsBehind l.kind tb.clockSeconds (l.counted e).indicated)
            pending := decidedState l.kind l.hold (stepsBehind l.kind tb.clockSeconds (l.counted e).indicated) == .catchup } := by
          have hne : (Decidable.decide ((l.counted e).state ≠ .catchup)) = true := decide_eq_true hc
          unfold ClockLine.decided
          rw [hbehind, decisionState_eq]
          dsimp only
          rw [hne, Bool.or_true, Bool.and_true]
          rfl
        unfold ClockLine.decideFor
        rw [show Decidable.decide ((ClockCause.impulse : ClockCause) = .configure) = false from rfl, hdec]
        exact ⟨rfl, stateReport_eq n tb (l.counted e) _ .impulse⟩

/-- R164: the line after the decision that a step event left to the end of the impulse. -/
def ClockLine.afterStep (e clock : Nat) (l : ClockLine) : ClockLine :=
  if l.decide = true then
    if l.state = .faulted then { l with decide := false } else decidedLine e clock { l with decide := false }
  else l

theorem ClockLine.lateDecision_eq {l : ClockLine} (hd : l.drive ≠ .idle) (hst : l.state = .faulted ∨ l.decidable = true)
    (n e : Nat) (tb : Timebase) : (l.lateDecision n tb).1 = l.afterStep e tb.clockSeconds ∧
      (l.lateDecision n tb).2 = stateChange n tb .step l (l.afterStep e tb.clockSeconds) := by
  unfold ClockLine.lateDecision ClockLine.afterStep
  by_cases hdec : l.decide = true
  · simp only [if_pos hdec]
    rcases hst with hf | hst
    · have hnot : ¬ l.decidable = true := by simp [ClockLine.decidable, hf]
      simp only [if_pos hf, if_neg hnot]
      exact ⟨trivial, (stateChange_self n tb .step rfl).symm⟩
    · have hf : l.state ≠ .faulted := fun hf => by simp [ClockLine.decidable, hf] at hst
      simp only [if_neg hf, if_pos hst]
      rw [decidedLine_eq, ClockLine.start_busy (l := ({ l with decide := false } : ClockLine).decided tb.clockSeconds false) hd]
      exact ⟨rfl, stateReport_eq n tb l _ .step⟩
  · simp only [if_neg hdec]
    exact ⟨trivial, (stateChange_self n tb .step rfl).symm⟩

theorem ClockLine.afterStep_keeps {l : ClockLine} (hd : l.drive ≠ .idle) (e clock : Nat) :
    (l.afterStep e clock).kept = l.kept ∧ (l.afterStep e clock).drive = l.drive ∧ (l.afterStep e clock).waiting = l.waiting := by
  unfold ClockLine.afterStep
  split
  · split
    · exact ⟨rfl, rfl, rfl⟩
    · rw [decidedLine_eq, ClockLine.start_busy (l := ({ l with decide := false } : ClockLine).decided clock false) hd]
      exact ⟨rfl, rfl, rfl⟩
  · exact ⟨rfl, rfl, rfl⟩

/-- The line at the end of an impulse, the section that waits apart. -/
def ClockLine.ended (e clock : Nat) (l : ClockLine) : ClockLine := (l.judged e clock).afterStep e clock

/-- R166: the reports of the judgement and of the decision left by a step event. -/
def ClockLine.endReports (n e : Nat) (tb : Timebase) (l : ClockLine) : List ReportBody :=
  (if (l.counted e).miss = 3 then
      [.clockLineFault n (l.counted e).indicated (lineTarget tb (l.judged e tb.clockSeconds)) l.polarity l.impulseSense]
    else stateChange n tb .impulse l (l.judged e tb.clockSeconds)) ++
    stateChange n tb .step (l.judged e tb.clockSeconds) (l.ended e tb.clockSeconds)

theorem ClockLine.afterStep_faulted {l : ClockLine} (h : l.state = .faulted) (e clock : Nat) : (l.afterStep e clock).state = .faulted := by
  unfold ClockLine.afterStep
  rw [if_pos h]
  split <;> exact h

/-- R160: the third miss is reported as a fault alone. -/
theorem ClockLine.endReports_fault {n e : Nat} {tb : Timebase} {l : ClockLine} (h3 : (l.counted e).miss = 3) :
    l.endReports n e tb =
      [.clockLineFault n (l.counted e).indicated (lineTarget tb (l.judged e tb.clockSeconds)) l.polarity l.impulseSense] := by
  have hj : (l.judged e tb.clockSeconds).state = .faulted :=
    (ClockLine.judged_state e tb.clockSeconds l).elim And.right fun h => absurd h3 h.1
  have hsame : (l.judged e tb.clockSeconds).state = (l.ended e tb.clockSeconds).state :=
    hj.trans (ClockLine.afterStep_faulted hj e tb.clockSeconds).symm
  rw [ClockLine.endReports, if_pos h3, stateChange_self n tb .step hsame, List.append_nil]

theorem ClockLine.endReports_class {n e : Nat} {tb : Timebase} {l : ClockLine} : ∀ r ∈ l.endReports n e tb, r.cls = .clockLine := by
  intro r hr
  rcases List.mem_append.mp hr with h | h
  · split at h
    · rw [List.mem_singleton.mp h]
      rfl
    · exact stateChange_class r h
  · exact stateChange_class r h

/-- R160, R164, R155: the end of an impulse at the line. -/
theorem ClockLine.impulseEnds_eq {l : ClockLine} (hdr : l.isDriving = true) (hst : l.state = .running ∨ l.state = .catchup)
    (n e : Nat) (tb : Timebase) :
    l.impulseEnds n e tb = (((l.ended e tb.clockSeconds).lateSection n e tb).1,
      l.endReports n e tb ++ ((l.ended e tb.clockSeconds).lateSection n e tb).2) := by
  obtain ⟨hj, hjr⟩ := ClockLine.judge_eq hst n e tb
  obtain ⟨-, hdrive, -, -⟩ := ClockLine.judged_keeps e tb.clockSeconds l
  have hstate : (l.judged e tb.clockSeconds).state = .faulted ∨ (l.judged e tb.clockSeconds).decidable = true :=
    (ClockLine.judged_state e tb.clockSeconds l).imp And.right And.right
  obtain ⟨hs, hsr⟩ := ClockLine.lateDecision_eq (by rw [hdrive]; simp) hstate n e tb
  unfold ClockLine.impulseEnds
  dsimp only
  rw [if_pos hdr, hj, hjr, hs, hsr]
  rfl


theorem ClockLine.lateSection_none {l : ClockLine} (h : l.waiting = none) (n e : Nat) (tb : Timebase) :
    l.lateSection n e tb = (l, []) := by
  unfold ClockLine.lateSection
  rw [h]

theorem ClockLine.lateSection_some {l : ClockLine} {x : ClockSection} (h : l.waiting = some x) (n e : Nat) (tb : Timebase) :
    l.lateSection n e tb = l.apply n e tb x := by
  unfold ClockLine.lateSection
  rw [h]

/-- R155, R166: the section that waited is applied and answered at the end of the impulse. -/
theorem State.endImpulse_some {s : State} {n : Nat} {l : ClockLine} {x : ClockSection} (hl : s.scd[n]? = some l)
    (hdr : l.isDriving = true) (hw : l.waiting = some x) :
    s.endImpulse n = (s.oneClock n (ClockLine.impulseEnds n s.base.elapsed s.base.tbs)).mapHlu
      (Hlu.answerInService (clockReply x ((l.impulseEnds n s.base.elapsed s.base.tbs).1.view s.base.tbs))) := by
  have hself := State.clock_eq (oneClock_self (f := ClockLine.impulseEnds n s.base.elapsed s.base.tbs) hl)
  unfold State.endImpulse
  dsimp only
  rw [State.clock_eq hl, hw]
  dsimp only
  rw [if_pos hdr, hself]

theorem State.endImpulse_none {s : State} {n : Nat} {l : ClockLine} (hl : s.scd[n]? = some l) (hw : l.waiting = none) :
    s.endImpulse n = s.oneClock n (ClockLine.impulseEnds n s.base.elapsed s.base.tbs) := by
  unfold State.endImpulse
  dsimp only
  rw [State.clock_eq hl, hw]

/-- R160: what the end of an impulse leaves of the blocks. -/
theorem State.endImpulse_work (n : Nat) (s : State) : (s.endImpulse n).work = { s.work with hlu := (s.endImpulse n).work.hlu } := by
  have hone := (Work.raiseAll_work ((s.clock n).impulseEnds n s.base.elapsed s.base.tbs).2 s.work).1
  have hraise : (s.oneClock n (ClockLine.impulseEnds n s.base.elapsed s.base.tbs)).work =
      { s.work with hlu := (s.oneClock n (ClockLine.impulseEnds n s.base.elapsed s.base.tbs)).work.hlu } := hone
  unfold State.endImpulse
  dsimp only
  split
  · split
    · rw [State.mapHlu_work, hraise]
    · exact hraise
  · exact hraise

/-- Settles O40: the line after the judgement, after the decision that a step left, and after the section that waited, with the
reports of each. -/
theorem impulseEndJudgesTheImpulse : Obligations.ImpulseEndJudgesTheImpulse := by
  intro n l due s hl hdrive hst seen position miss d counted judged ended reports
  have hjudged : l.judged s.base.elapsed s.base.tbs.clockSeconds = judged := rfl
  have hended : l.ended s.base.elapsed s.base.tbs.clockSeconds = ended := by
    unfold ClockLine.ended ClockLine.afterStep
    rw [(ClockLine.judged_keeps s.base.elapsed s.base.tbs.clockSeconds l).2.2.1]
    rfl
  have hreports : l.endReports n s.base.elapsed s.base.tbs = reports := by
    unfold ClockLine.endReports
    rw [hended]
    rfl
  have hdr : l.isDriving = true := (l.isDriving_iff).mpr ⟨due, hdrive⟩
  obtain ⟨hjk, hjd, -, hjw⟩ := ClockLine.judged_keeps s.base.elapsed s.base.tbs.clockSeconds l
  have hgap : (l.judged s.base.elapsed s.base.tbs.clockSeconds).drive ≠ .idle := by rw [hjd]; simp
  obtain ⟨hek, hed, hew⟩ := ClockLine.afterStep_keeps hgap s.base.elapsed s.base.tbs.clockSeconds
  have hkept : ended.kept = counted.kept := hended ▸ hek.trans hjk
  have hdrive' : ended.drive = .gap (s.base.elapsed + l.gap) := hended ▸ hed.trans hjd
  have hwait : ended.waiting = l.waiting := hended ▸ hew.trans hjw
  have hends := ClockLine.impulseEnds_eq hdr hst n s.base.elapsed s.base.tbs
  rw [hended, hreports] at hends
  obtain ⟨hbase, hpending, hscd⟩ := s.endImpulse_rest n
  rw [State.clock_eq hl, hends] at hscd
  have hlt : n.val < s.scd.length := (List.getElem?_eq_some_iff.mp hl).1
  have hone : (s.oneClock n (ClockLine.impulseEnds n s.base.elapsed s.base.tbs)).work =
      s.work.raiseAll (reports ++ (ended.lateSection n s.base.elapsed s.base.tbs).2) := by
    rw [State.oneClock_work, State.clock_eq hl, hends]
  have hinbound := (Work.raiseAll_work (reports ++ (ended.lateSection n s.base.elapsed s.base.tbs).2) s.work).2
  have hclass : ∀ r ∈ reports, r.cls = .clockLine := hreports ▸ ClockLine.endReports_class
  refine ⟨s.endImpulse n, rfl, fun hcaught hw => ?_, hbase, hpending, s.endImpulse_work n, fun k hk => ?_, fun hw => ?_, fun x hw => ?_⟩
  · refine serveWaiting_caughtUp _ ?_
    rw [State.caughtUp, State.endImpulse_none hl hw, hone, hinbound]
    exact hcaught
  · rw [hscd, List.getElem?_set_ne hk.symm]
  · have hlate := ClockLine.lateSection_none (hwait.trans hw) n s.base.elapsed s.base.tbs
    rw [hlate] at hone hinbound hscd
    rw [List.append_nil] at hone hinbound
    have hu := State.endImpulse_none hl hw
    refine ⟨?_, ?_, ?_, fun h3 => ?_⟩
    · rw [hscd, List.getElem?_set_self hlt]
    · rw [hu, hone, hinbound]
    · rw [State.raisedOf, hu, hone]
      exact (raises_raiseAll hclass s.work).reports
    · have hfault : reports = [.clockLineFault n position (judged.target s.base.tbs) l.polarity l.impulseSense] := by
        rw [← hreports, ClockLine.endReports_fault h3, ClockLine.target_eq]
        rfl
      rw [State.reported, hu, hone, hfault]
      exact fun hm hroom => Work.raise_last hm hroom
  · have hlate := ClockLine.lateSection_some (hwait.trans hw) n s.base.elapsed s.base.tbs
    obtain ⟨ak, ast, adec, -, abusy, arest, arep⟩ := ClockLine.apply_effect n s.base.elapsed s.base.tbs x ended
    rw [hlate] at hone hinbound hscd
    have hu := State.endImpulse_some hl hdr hw
    have hview : (l.impulseEnds n s.base.elapsed s.base.tbs).1 = (ended.apply n s.base.elapsed s.base.tbs x).1 := by
      rw [hends, hlate]
    have hstate : (ended.store x).stateBy s.base.tbs x = (if x.active = false then .unconfigured
          else if s.base.tbs.state = .unset then .waiting
          else decidedState x.kind x.hold (stepsBehind x.kind s.base.tbs.clockSeconds (x.position.getD position))) := by
      have hi : ended.indicated = position := (congrArg ClockLine.indicated hkept :)
      rw [ClockLine.stateBy, ← hi]
      rfl
    refine ⟨(ended.apply n s.base.elapsed s.base.tbs x).1, ?_, ?_, ?_, ast.trans hstate, ?_, adec, ?_, ?_⟩
    · rw [hscd, List.getElem?_set_self hlt]
    · by_cases hc : (ended.store x).stateBy s.base.tbs x = .catchup
      · exact (abusy hc (by rw [hdrive']; simp)).1.trans hdrive'
      · exact (arest hc).1.trans hdrive'
    · exact ak.trans (ClockLine.store_kept hkept)
    · rw [ast]
      by_cases hc : (ended.store x).stateBy s.base.tbs x = .catchup
      · exact ⟨fun _ => hc, fun _ => (abusy hc (by rw [hdrive']; simp)).2⟩
      · refine ⟨fun hp => ?_, fun h => absurd h hc⟩
        rw [(arest hc).2] at hp
        cases hp
    · have hall := (raises_raiseAll (c := .clockLine) (rs := reports ++ (ended.apply n s.base.elapsed s.base.tbs x).2) ?_ s.work).reports
      · rw [State.raisedOf, hu, State.mapHlu_work, hone, ← arep]
        exact hall
      · intro r hr
        rcases List.mem_append.mp hr with h | h
        · exact hclass r h
        · rw [arep] at h
          exact stateChange_class r h
    · rw [hu, State.mapHlu_work, hone, hview]
      unfold Hlu.answerInService
      dsimp only
      rw [hinbound]
      rfl

end Sys2Proof.Machine
end

section
/-!
PROOF. Two entries with one enqueue sequence, the second on a link that is IDLE: selection holds the first back by the interlock
and, by its sequence, the second with it, which then waits. No reachable part has such a queue; the statements here allow it, and
each of them promises that some waiting cue is gone.
-/

namespace Sys2Proof.Machine

set_option Elab.async false

/-- The board's one row, on string 0. -/
def twinBoard : Board where
  record :=
    { enabled := true, string := 0, first := 1, rows := 1, kind := .list, platforms := [], classes := [], horizon := 120
      fixed := 0, period := 10, showDue := true, showExpected := true, showCoaches := false }
  eligible := []
  presentation := .normal
  banner := .none
  page := 0
  pageCount := 1
  timer := 0

/-- The keys A and B. -/
def keyA : Key := [0x41]
def keyB : Key := [0x42]

/-- A service at platform 12 that departs at `k`. -/
def twinService (key : Key) (k : Int) : Service :=
  { key := key, seq := 41, cls := 0, destination := 0, via := none, scheduled := k, expected := none, status := .scheduled
    current := some ⟨12, 0⟩, previous := none, staged := none, changeTime := none, calling := [], coaches := none
    actual := none, lastUpdate := 0, stale := false, unsettled := false, timer := none, held := [], conf := [0], flash := 0 }

/-- A cue of a template, for the service A, with the one sequence. -/
def twinCue (source : CueSource) (state : CueState) (key : Option Key) (shown clears : Bool) (latest : Int) : CueEntry :=
  { number := 12
    template := { items := [.phrase 1], priority := 5, validity := 240, zones := .fixed [1], needsShown := shown
                  requiresFeed := false, withdrawOnClear := clears, deadline := false }
    key := key, serviceSeq := some 41, priority := 5, source := source, state := state, seq := 1, latest := latest
    resolved := none, unobserved := false }

/-- A part that holds services, with an ONLINE board of one row that shows none of them, and a cue link that is IDLE. -/
def twins (tb : Timebase) (xs : List Service) (cues : List CueEntry) : State :=
  { State.reset with
    base := { State.reset.base with tbs := tb }
    work :=
      { State.reset.work with
        svt := { State.reset.work.svt with services := xs, counter := 41 }
        bcp := { State.reset.work.bcp with boards := State.reset.work.bcp.boards.set 0 (some twinBoard) }
        wsc := State.reset.work.wsc.set 0 { WallString.reset with enabled := true }
        cuc := { Cuc.reset with link := .idle, queue := cues } } }

/-- The part with its board derived, its cues apart. -/
def derived (s : State) : State := s.mapWork fun w => { w.deriveAll s.base with cuc := w.cuc }

/-- The timebase FREE at `t`. -/
def freeAt (t : Int) : Timebase := { Timebase.reset with state := .free, t := t, tHigh := t }

/-- The two cues of one sequence: the first held back by the interlock, the second on the link. -/
def lateTwins : List CueEntry :=
  [twinCue .host .queued (some keyA) true false 100000, twinCue .host .playing none false false (-100000)]

/-- Whether an outcome leaves a waiting cue that satisfies `p`. -/
def leavesWaiting (p : State → CueEntry → Bool) : Host.Outcome State Fault Refusal → Bool
  | .next t => t.work.cuc.queue.any fun e => (e.state == .queued || e.state == .held) && p t e
  | _ => false

theorem waiting_of_leaves {p : State → CueEntry → Bool} {o : Host.Outcome State Fault Refusal} {t : State}
    (h : leavesWaiting p o = true) (ho : o = .next t) : ∃ e ∈ t.work.cuc.queue, e.waits ∧ p t e = true := by
  subst ho
  obtain ⟨e, he, hp⟩ := List.any_eq_true.mp h
  rw [Bool.and_eq_true, Bool.or_eq_true, beq_iff_eq, beq_iff_eq] at hp
  exact ⟨e, he, hp⟩

/-- A waiting cue whose latest start has passed. -/
def isLate (t : State) (e : CueEntry) : Bool := e.latest < t.base.tbs.t

theorem late_of_leaves {o : Host.Outcome State Fault Refusal} {t : State} (h : leavesWaiting isLate o = true) (ho : o = .next t)
    (hall : ∀ e ∈ t.work.cuc.queue, e.waits → t.base.tbs.t ≤ e.latest) : False := by
  obtain ⟨e, he, hw, hl⟩ := waiting_of_leaves h ho
  exact absurd (hall e he hw) (not_le.mpr (by simpa [isLate] using hl))

theorem ready_of_empty {s : State} (h : s.work.hlu.inbound = []) : s.ready := by
  refine ⟨by rw [h]; decide, fun e he => ?_⟩
  rw [h] at he
  cases he

/-- A head whose payload fits. -/
def plainHead : ReqHead := ⟨7, none⟩

/-! ### Late cues (R137) -/

theorem firstTimeSet_leavesLate : leavesWaiting isLate
    (exec (.timeSet plainHead 17 0 0 0) (twins Timebase.reset [twinService keyA 54600] lateTwins)) = true := by decide +kernel

/-- Refutes O2: of two entries with one sequence the second, on the IDLE link, is HELD after the first TIME SET. -/
theorem not_firstTimeSetPlacesTheDay : ¬ Obligations.FirstTimeSetPlacesTheDay := by
  intro h
  obtain ⟨t, ht, -, -, -, -, -, ⟨hlate, -⟩, -⟩ := h plainHead 17 0 0 0 (twins Timebase.reset [twinService keyA 54600] lateTwins)
    (ready_of_empty rfl) rfl (by decide) (by decide) (by decide) (by decide) rfl (by decide)
  exact late_of_leaves firstTimeSet_leavesLate ht hlate

theorem timeSet_leavesLate : leavesWaiting isLate
    (exec (.timeSet plainHead 17 0 0 0) (twins (freeAt 54000) [twinService keyA 54600] lateTwins)) = true := by decide +kernel

/-- Refutes O3: the same two entries at a step. -/
theorem not_timeSetStepsTheClock : ¬ Obligations.TimeSetStepsTheClock := by
  intro h
  obtain ⟨t, ht, -, -, -, hrest⟩ := h plainHead 17 0 0 0 (twins (freeAt 54000) [twinService keyA 54600] lateTwins) (-1800000)
    (ready_of_empty rfl) rfl (by decide) (by decide) (by decide) (by decide) (by decide) (by decide) (by decide) (by decide +kernel)
  rw [if_neg (by decide)] at hrest
  obtain ⟨-, -, ⟨hlate, -⟩, -⟩ := hrest
  exact late_of_leaves timeSet_leavesLate ht hlate

theorem second_leavesLate : leavesWaiting isLate
    (exec .secondEvent (twins (freeAt 54000) [twinService keyA 54600] lateTwins)) = true := by decide +kernel

/-- Refutes O4: the same two entries at a second event. -/
theorem not_secondEventAdvancesTime : ¬ Obligations.SecondEventAdvancesTime := by
  intro h
  obtain ⟨t, ht, hbase, -, -, -, -, -, -, hlate, -⟩ := h (twins (freeAt 54000) [twinService keyA 54600] lateTwins) (by decide)
  refine late_of_leaves second_leavesLate ht fun e he hw => ?_
  rw [hbase]
  exact hlate e he hw

/-- A part with a SYNC line whose pulses have been rejected twice, 2001 ms off. -/
def twinPulse : State :=
  let s := twins { freeAt 2 with secPos := 1, rejected := [2001, 2001] } [twinService keyA 600] lateTwins
  s.setLine 2 fun l => { l with role := .sync }

theorem pulse_leavesLate : leavesWaiting isLate (exec (.edge 2 .high) twinPulse) = true := by decide +kernel

/-- Refutes O5: the same two entries at an agreement step. -/
theorem not_syncPulseMeasured : ¬ Obligations.SyncPulseMeasured := by
  intro h
  obtain ⟨t, ht, -, -, -, -, -, -, -, -, hlate, -⟩ := h 2 .high twinPulse (by decide +kernel) (by decide +kernel) (by decide +kernel)
    (by decide +kernel) (by decide +kernel)
  have hagreed : ∃ x y : Int, twinPulse.base.tbs.rejected = [x, y] ∧ |pulseOffset twinPulse.base.tbs - x| ≤ 100 ∧
      |pulseOffset twinPulse.base.tbs - y| ≤ 100 := ⟨2001, 2001, by decide +kernel⟩
  have hidle : ¬ (twinPulse.base.tbs.state = .unset ∨ ∃ p, twinPulse.base.tbs.lastPulse = some p ∧
      2 * twinPulse.base.elapsed < 2 * p + periodMillis twinPulse.base.tbs.period) := by
    rintro (hu | ⟨p, hp, -⟩)
    · exact absurd hu (by decide +kernel)
    · cases hp
  exact late_of_leaves pulse_leavesLate ht (hlate hidle (by decide +kernel) hagreed).1

/-! ### Withdrawn cues (R33, R113) -/

/-- The two cues of one sequence, the second for the service B and withdrawn with it. -/
def clearTwins : List CueEntry :=
  [twinCue .host .queued (some keyA) true false 100000, twinCue .host .playing (some keyB) false true 100000]

/-- A waiting cue of the service B that is withdrawn when the service goes. -/
def isOfB (_ : State) (e : CueEntry) : Bool := e.key == some keyB && e.template.withdrawOnClear

theorem ofB_of_leaves {o : Host.Outcome State Fault Refusal} {t : State} (h : leavesWaiting isOfB o = true) (ho : o = .next t)
    (hall : ∀ e ∈ t.work.cuc.queue, e.key = some keyB → e.template.withdrawOnClear = true → ¬ e.waits) : False := by
  obtain ⟨e, he, hw, hp⟩ := waiting_of_leaves h ho
  obtain ⟨hk, hc⟩ : e.key = some keyB ∧ e.template.withdrawOnClear = true := by simpa [isOfB] using hp
  exact hall e he hk hc hw

/-- The services A and B. -/
def twinPair : State := derived (twins (freeAt 54000) [twinService keyA 54600, twinService keyB 54700] clearTwins)

theorem twinPair_ready : twinPair.ready := ready_of_empty (by decide +kernel)

theorem drop_leavesB : leavesWaiting isOfB (exec (.serviceDrop plainHead keyB) twinPair) = true := by decide +kernel

/-- What O12 says of a service that is held and whose key is well-formed. -/
theorem clears_of_drop (h : Obligations.DropFreesTheRecord) {key : Key} {s : State} (hr : s.ready) (hk : ¬ keyForm key = false)
    (hf : ¬ s.work.svt.find key = none) : ∃ t, exec (.serviceDrop plainHead key) s = .next t ∧
      ∀ e ∈ t.work.cuc.queue, e.key = some key → e.template.withdrawOnClear = true → ¬ e.waits := by
  have hdrop := h plainHead key s hr rfl
  rw [if_neg hk, if_neg hf] at hdrop
  obtain ⟨t, ht, -, -, -, -, -, hclear, -⟩ := hdrop
  exact ⟨t, ht, hclear⟩

/-- Refutes O12: of two entries with one sequence the second, of the service that goes, is HELD after the drop. -/
theorem not_dropFreesTheRecord : ¬ Obligations.DropFreesTheRecord := by
  intro h
  obtain ⟨t, ht, hclear⟩ := clears_of_drop h twinPair_ready (key := keyB) (by decide) (by decide +kernel)
  exact ofB_of_leaves drop_leavesB ht hclear

/-- A full table: 191 records of the service A, and B, which has ended. -/
def twinFull : State :=
  derived (twins (freeAt 54000)
    (List.replicate 191 (twinService keyA 54600) ++ [{ twinService keyB 54700 with status := .departed }]) clearTwins)

theorem twinFull_ready : twinFull.ready := ready_of_empty (by decide +kernel)

/-- A SERVICE PUT that creates a service C. -/
def putC : PutReq :=
  { key := [0x43], cls := .absent, destination := .value 0, via := .absent, scheduled := .value ⟨17, 40, 0, 0⟩, expected := .absent
    status := .absent, platform := .absent, effective := .absent, calling := .absent, coaches := .absent, actual := .absent }

theorem put_leavesB : leavesWaiting isOfB (exec (.servicePut plainHead putC) twinFull) = true := by decide +kernel

/-- The record that the creation evicts. -/
theorem twinFull_evicts :
    (twinFull.work.svt.ordered.find? fun x => x.status == .departed || x.status == .cancelled).or
        (twinFull.work.svt.ordered.find? fun x => decide (60 * (twinFull.work.svt.overdue : Int) < twinFull.base.tbs.t - x.k)) =
      some { twinService keyB 54700 with status := .departed, conf := [] } := by decide +kernel

/-- What O11 says of the record that a creation evicts. -/
theorem clears_of_put (h : Obligations.FullTableEvictsOrRefuses) {r : PutReq} {s : State} {x : Service} (hr : s.ready)
    (hok : putRefusal s r = none) (hf : s.work.svt.find r.key = none) (hfull : 192 ≤ s.work.svt.services.length)
    (hx : (s.work.svt.ordered.find? fun x => x.status == .departed || x.status == .cancelled).or
      (s.work.svt.ordered.find? fun x => decide (60 * (s.work.svt.overdue : Int) < s.base.tbs.t - x.k)) = some x) :
    ∃ t, exec (.servicePut plainHead r) s = .next t ∧
      ∀ e ∈ t.work.cuc.queue, e.key = some x.key → e.template.withdrawOnClear = true → ¬ e.waits := by
  have hput := h plainHead r s hr rfl hok hf hfull
  dsimp only at hput
  rw [hx] at hput
  obtain ⟨t, ht, -, -, -, -, -, hclear, -⟩ := hput
  exact ⟨t, ht, hclear⟩

/-- Refutes O11: the second of the two entries, of the record evicted, is HELD after the creation. -/
theorem not_fullTableEvictsOrRefuses : ¬ Obligations.FullTableEvictsOrRefuses := by
  intro h
  obtain ⟨t, ht, hclear⟩ := clears_of_put h (r := putC) twinFull_ready (by decide +kernel) (by decide +kernel) (by decide +kernel) twinFull_evicts
  exact ofB_of_leaves put_leavesB ht hclear

/-- A HEAD that does not hold, with a cue. -/
def idleHead : Rule :=
  { kind := .head, enabled := false
    preds := { status := none, cls := none, platform := none, destination := none, calling := none, delay := none, countdown := none
               changed := none, stale := none, unsettled := none, actual := none }
    terms := [], priority := 0, notice := none, banner := none, cue := some 12, watch := none, report := false }

/-- The services A and B, B in the held set of the HEAD, which is about to fall. -/
def twinFalls : Work :=
  let s := derived (twins (freeAt 54000) [twinService keyA 54600, { twinService keyB 54700 with held := [0] }] clearTwins)
  { s.work with nre := { s.work.nre with rules := s.work.nre.rules.set 0 (some idleHead) } }

theorem fall_leavesB :
    ((twinFalls.evaluateChange (twins (freeAt 54000) [] []).base keyB).cuc.queue.any fun e =>
      (e.state == .queued || e.state == .held) && (e.number == 12 && e.key == some keyB && e.template.withdrawOnClear)) = true := by
  decide +kernel

/-- What O29 says of the waiting cues of a HEAD that falls while none rises. -/
theorem clears_of_fall (h : Obligations.RuleLoadsBringHeldSetsIntoLine) {b : Base} {key : Key} {x : Service} {w : Work} {i c : Nat}
    {r : Rule} (hf : w.svt.find key = some x) (hi : i < 64) (hr : w.nre.rule i = some r) (hheld : i ∈ x.held) (hc : r.cue = some c)
    (hnone : ∀ g q, g < 64 → w.nre.rule g = some q → ¬ w.nre.headHolds b.tbs.t w.nre.ruleTime w.nre.ruleTime q x = true) :
    ∀ e ∈ (w.evaluateChange b key).cuc.queue, e.number = c → e.key = some key → e.template.withdrawOnClear = true → ¬ e.waits := by
  obtain ⟨-, hloud, -⟩ := h
  obtain ⟨-, -, hfalls⟩ := hloud b key x w hf
  exact (hfalls i r hi hr hheld fun hh => hnone i r hi hr hh.2.2).2 (fun g q hh => absurd hh.2.2 (hnone g q hh.1 hh.2.1)) c hc

/-- B in the held set of the HEAD. -/
def fallingB : Service := { twinService keyB 54700 with held := [0], conf := [] }

theorem twinFalls_find : twinFalls.svt.find keyB = some fallingB := by decide +kernel

/-- Refutes O29: of two entries with one sequence the second, of the service for which the HEAD falls, is HELD afterwards. -/
theorem not_ruleLoadsBringHeldSetsIntoLine : ¬ Obligations.RuleLoadsBringHeldSetsIntoLine := by
  intro h
  have hrules : ∀ g, g < 64 → ∀ q, twinFalls.nre.rule g = some q → q.enabled = false := by
    have hall : ∀ g, g < 64 → ((twinFalls.nre.rule g).all fun q => !q.enabled) = true := by decide +kernel
    intro g hg q hq
    have := hall g hg
    rw [hq] at this
    simpa using this
  have hclear := clears_of_fall h (b := (twins (freeAt 54000) [] []).base) twinFalls_find (i := 0) (r := idleHead) (c := 12) (by decide)
    (by decide +kernel) (by decide) rfl fun g q hg hq => by
      have := hrules g hg q hq
      simp [Nre.headHolds, this]
  obtain ⟨e, he, hp⟩ := List.any_eq_true.mp fall_leavesB
  simp only [Bool.and_eq_true, Bool.or_eq_true, beq_iff_eq] at hp
  obtain ⟨hw, ⟨hn, hk⟩, hcl⟩ := hp
  exact hclear e he hn hk hcl hw

/-! ### The override's cues (R148) -/

/-- The two cues of one sequence, the second the override's. -/
def overrideTwins : List CueEntry :=
  [twinCue .host .queued (some keyA) true false 100000, twinCue .override .playing none false false 100000]

/-- A part with override active, with the field lines' state as given. -/
def overriding (fiu : Fiu) : State :=
  let s := derived (twins (freeAt 54000) [twinService keyA 54600] overrideTwins)
  { s with base := { s.base with fiu := fiu } }

/-- Override by the forced flag. -/
def forcedFiu : Fiu := { Fiu.reset with forced := true, override := true }

/-- Override by a key line that is active. -/
def keyedFiu : Fiu :=
  { Fiu.reset with
    lines := Fiu.reset.lines.set 5 { FieldLine.reset with role := .overrideKey, raw := .high, filtered := .high }
    keys := true, override := true }

/-- A section that leaves a line unused. -/
def unusedLine : LineReq := { role := .is .unused, active := .omitted, filter := .omitted, reports := .omitted, lockout := none }

/-- A waiting cue of the override. -/
def isOverrides (_ : State) (e : CueEntry) : Bool := e.source == .override

theorem overrides_of_leaves {o : Host.Outcome State Fault Refusal} {t : State} (h : leavesWaiting isOverrides o = true) (ho : o = .next t)
    (hall : ∀ e ∈ t.work.cuc.queue, e.waits → e.source ≠ .override) : False := by
  obtain ⟨e, he, hw, hp⟩ := waiting_of_leaves h ho
  exact hall e he hw (by simpa [isOverrides] using hp)

/-- Whether an outcome leaves override active. -/
def overrideLeft : Host.Outcome State Fault Refusal → Bool
  | .next t => t.base.fiu.override
  | _ => true

theorem override_of_left {o : Host.Outcome State Fault Refusal} {t : State} (h : overrideLeft o = false) (ho : o = .next t) :
    t.base.fiu.override = false := by
  subst ho
  exact h

theorem overriding_ready (fiu : Fiu) : (overriding fiu).ready := by
  refine ready_of_empty ?_
  show (derived (twins (freeAt 54000) [twinService keyA 54600] overrideTwins)).work.hlu.inbound = []
  decide +kernel

theorem unforce_leavesOverrides : leavesWaiting isOverrides (exec (.overrideSet plainHead (some false)) (overriding forcedFiu)) = true ∧
    overrideLeft (exec (.overrideSet plainHead (some false)) (overriding forcedFiu)) = false := by decide +kernel

/-- Refutes O47: of two entries with one sequence the second, the override's, is HELD after the forcing is cleared. -/
theorem not_overrideSetForcesTheOverride : ¬ Obligations.OverrideSetForcesTheOverride := by
  intro h
  obtain ⟨t, ht, -, -, -, -, -, -, -, -, -, ⟨-, hexit⟩, -⟩ := h plainHead false (overriding forcedFiu) (overriding_ready _) rfl
  obtain ⟨hleaves, hleft⟩ := unforce_leavesOverrides
  exact overrides_of_leaves hleaves ht (hexit rfl (override_of_left hleft ht)).2.1

theorem keyOff_leavesOverrides : leavesWaiting isOverrides (exec (.edge 5 .low) (overriding keyedFiu)) = true ∧
    overrideLeft (exec (.edge 5 .low) (overriding keyedFiu)) = false := by decide +kernel

/-- Refutes O45: the same two entries when the key line becomes inactive. -/
theorem not_edgesAreMarkedReportedDelivered : ¬ Obligations.EdgesAreMarkedReportedDelivered := by
  intro h
  obtain ⟨t, lockout, ht, -, -, -, -, -, -, -, -, -, -, -, -, -, hfollows, -⟩ := h 5 .low
    { FieldLine.reset with role := .overrideKey, raw := .high, filtered := .high } (overriding keyedFiu) rfl (by decide)
  obtain ⟨hleaves, hleft⟩ := keyOff_leavesOverrides
  exact overrides_of_leaves hleaves ht ((hfollows rfl).2 rfl (override_of_left hleft ht)).2.1

theorem unkey_leavesOverrides :
    leavesWaiting isOverrides (exec (.configureLine plainHead 5 unusedLine) (overriding keyedFiu)) = true ∧
      overrideLeft (exec (.configureLine plainHead 5 unusedLine) (overriding keyedFiu)) = false := by decide +kernel

/-- Refutes O44: the same two entries when the key line is configured as unused. -/
theorem not_configureLineStoresTheSection : ¬ Obligations.ConfigureLineStoresTheSection := by
  intro h
  obtain ⟨t, ht, -, -, -, -, -, -, -, ⟨-, hexit⟩, -⟩ := h plainHead 5 unusedLine
    { FieldLine.reset with role := .overrideKey, raw := .high, filtered := .high } (overriding keyedFiu) (overriding_ready _) rfl
    (by decide +kernel) rfl
  obtain ⟨hleaves, hleft⟩ := unkey_leavesOverrides
  exact overrides_of_leaves hleaves ht (hexit rfl (override_of_left hleft ht)).2.1

end Sys2Proof.Machine
end

section
/-!
PROOF. Offers on a wall string and the characters of a row frame (R94 to R96).
-/

namespace Sys2Proof.Machine

/-! ### Offers (R94, R95) -/

/-- R95: the transmission that starts on an IDLE line of a string that may send. -/
theorem WallString.start_idle {e : Nat} {s : WallString} (hon : s.enabled = true) (hd : s.drain = false) (hi : s.activity = .idle) :
    s.start e = (match s.queue with
      | [] => s
      | f :: q =>
        { s with
          queue := q, seq := s.seq + 1, inFlight := some (f, s.seq + 1), sent := s.sent + 1
          activity := .sending (1000 * e + frameLength f.content * wallCharMicros s.opRate) }) := by
  unfold WallString.start
  rw [hon, hd, hi, if_pos (by decide)]
  cases hq : s.queue with
  | nil => rfl
  | cons f q =>
    dsimp only
    rw [frameChars_length]

theorem WallString.start_busy {e : Nat} {s : WallString} (h : s.activity ≠ .idle) : s.start e = s := by
  unfold WallString.start
  rw [if_neg]
  simp [h]

/-- R94: what an offer leaves of a string that may send, before a transmission starts. -/
def WallString.answered (a : Nat) (c : RowContent) (s : WallString) : WallString × OfferAnswer :=
  if ∃ f ∈ s.queue, f.address = a then
    ({ s with queue := s.queue.map fun f => if f.address = a then ⟨a, c⟩ else f, coalesced := s.coalesced + 1 }, .replaced)
  else if s.queue.length < 48 then
    ({ s with queue := s.queue ++ [⟨a, c⟩], peak := max s.peak (s.queue.length + 1) }, .queued)
  else ({ s with refused := s.refused + 1 }, .refused)

theorem WallString.offer_refused {e a : Nat} {c : RowContent} {s : WallString} (h : s.enabled = false ∨ s.drain = true) :
    s.offer e a c = ({ s with refused := s.refused + 1 }, .refused) := by
  unfold WallString.offer
  rw [if_pos]
  rcases h with h | h <;> simp [h]

theorem WallString.offer_answered {e a : Nat} {c : RowContent} {s : WallString} (hon : s.enabled = true) (hd : s.drain = false) :
    s.offer e a c = ((s.answered a c).1.start e, (s.answered a c).2) := by
  have hany : (s.queue.any fun f => f.address == a) = true ↔ ∃ f ∈ s.queue, f.address = a := by simp
  unfold WallString.offer WallString.answered
  rw [if_neg (by simp [hon, hd])]
  by_cases hq : ∃ f ∈ s.queue, f.address = a
  · rw [if_pos (hany.mpr hq), if_pos hq]
    simp only [replaceFrame, beq_iff_eq]
  · rw [if_neg fun h => hq (hany.mp h), if_neg hq]
    by_cases hl : s.queue.length < 48
    · rw [if_pos hl, if_pos hl]
    · rw [if_neg hl, if_neg hl]

theorem WallString.answered_keeps (a : Nat) (c : RowContent) (s : WallString) :
    (s.answered a c).1.enabled = s.enabled ∧ (s.answered a c).1.drain = s.drain ∧ (s.answered a c).1.activity = s.activity ∧
      (s.answered a c).1.seq = s.seq ∧ (s.answered a c).1.sent = s.sent ∧ (s.answered a c).1.opRate = s.opRate := by
  unfold WallString.answered
  split
  · exact ⟨rfl, rfl, rfl, rfl, rfl, rfl⟩
  · split <;> exact ⟨rfl, rfl, rfl, rfl, rfl, rfl⟩

/-! ### Characters (R96) -/

/-- Two bytes spell a 16-bit check, the first the more significant. -/
theorem check_bytes (v : BitVec 16) : 256 * (v.extractLsb' 8 8).toNat + (v.extractLsb' 0 8).toNat = v.toNat := by
  have := v.isLt
  simp only [BitVec.extractLsb'_toNat, Nat.shiftRight_eq_div_pow]
  omega

theorem platformText_some {p : Designator} (h3 : p.suffix ≤ 2) :
    platformText (some p) = (if p.num < 10 then [] else [digitChar (p.num / 10)]) ++ [digitChar p.num] ++
      (if p.suffix = 0 then [] else if p.suffix = 1 then [0x41] else [0x42]) := by
  have hs : p.suffix = 0 ∨ p.suffix = 1 ∨ p.suffix = 2 := by omega
  show figureText p.num ++ (if p.suffix = 0 then [] else [BitVec.ofNat 8 (0x40 + p.suffix)]) = _
  unfold figureText
  rcases hs with hs | hs | hs <;> rw [hs] <;> split <;> rfl

/-- Settles O26: the offer's answers and the transmission; the frame's characters; and the fields, one by one. -/
theorem offersAreAnsweredInOrder : Obligations.OffersAreAnsweredInOrder := by
  refine ⟨?_, ?_, ?_⟩
  · intro e a c s p answered
    by_cases hr : s.enabled = false ∨ s.drain = true
    · rw [if_pos hr]
      exact WallString.offer_refused hr
    · obtain ⟨hon, hd⟩ : s.enabled = true ∧ s.drain = false := by simpa using hr
      have hanswer : s.answered a c = answered := rfl
      obtain ⟨kon, kd, kact, kseq, ksent, krate⟩ := WallString.answered_keeps a c s
      have hp : p = ((s.answered a c).1.start e, (s.answered a c).2) := WallString.offer_answered hon hd
      rw [if_neg hr, hp]
      by_cases hi : s.activity = .idle
      · rw [if_pos hi, WallString.start_idle (kon.trans hon) (kd.trans hd) (kact.trans hi), ← kseq, ← ksent, ← krate, hanswer]
        cases hq : answered.1.queue with
        | nil => rfl
        | cons f rest => rfl
      · rw [if_neg hi, WallString.start_busy (by rw [kact]; exact hi), hanswer]
  · intro f q s covered
    refine ⟨⟨_, _, rfl, check_bytes _⟩, frameChars_length f q, fun due hact hfly => ?_⟩
    unfold WallString.onLine
    rw [hact, hfly]
  · intro field digit hhmm
    refine ⟨rfl, fun txt => rfl, fun k ps => ?_, fun r => ?_⟩
    · simp only [contentFields, List.flatMap_def]
      rfl
    · refine ⟨remarkValue r.remark, platformText r.platform, dueColumn r.due, ?_, fun hp => by rw [hp]; rfl, fun p hp _ _ h3 => ?_,
        fun x d hx _ => by rw [hx]; rfl, fun hx => ?_, ?_⟩
      · simp only [contentFields, wallOption]
        cases r.expected <;> cases r.via <;> cases r.notice <;> cases r.coaches <;> simp [field, hhmm, digit, wallField, hourMinText, digitChar]
      · rw [hp, platformText_some h3]
        rfl
      · cases hr : r.remark with
        | expected x d => exact absurd hr (hx x d)
        | _ => rfl
      · cases r.due with
        | figure c =>
          show figureText c = (if c < 10 then [] else [digit (c / 10)]) ++ [digit c]
          unfold figureText
          split <;> rfl
        | _ => rfl

end Sys2Proof.Machine
end

section
/-!
PROOF. What is read of strings, boards and rows after a write; what derivations keep of them; and completions (R98 to R100).
-/

namespace Sys2Proof.Machine

/-! ### One place of a list changed -/

theorem getD_modify {α : Type} (l : List α) (n m : Nat) (f : α → α) (d : α) :
    (l.modify n f).getD m d = if m = n ∧ m < l.length then f (l.getD m d) else l.getD m d := by
  rw [List.getD_eq_getElem?_getD, List.getD_eq_getElem?_getD, List.getElem?_modify]
  by_cases hm : m < l.length
  · rw [List.getElem?_eq_getElem hm]
    by_cases hn : m = n
    · subst hn
      simp [hm]
    · simp [hn, Ne.symm hn]
  · rw [List.getElem?_eq_none (Nat.not_lt.mp hm)]
    simp [hm]

theorem Work.string_setString (w : Work) (n m : Nat) (f : WallString → WallString) :
    (w.setString n f).string m = if m = n ∧ m < w.wsc.length then f (w.string m) else w.string m := getD_modify ..

theorem Work.string_setString_other {w : Work} {n m : Nat} {f : WallString → WallString} (h : m ≠ n) :
    (w.setString n f).string m = w.string m := by
  rw [Work.string_setString, if_neg fun k => h k.1]

theorem Work.string_setString_self {w : Work} {n : Nat} {f : WallString → WallString} (h : n < w.wsc.length) :
    (w.setString n f).string n = f (w.string n) := by
  rw [Work.string_setString, if_pos ⟨rfl, h⟩]

/-- A cell after one cell is changed. -/
theorem Work.cell_setCell (w : Work) (s a s' a' : Nat) (f : Cell → Cell) : (w.setCell s a f).cell s' a' =
    if (s' = s ∧ a' - 1 = a - 1) ∧ s' < w.bcp.cells.length ∧ a' - 1 < (w.bcp.cells.getD s' []).length then f (w.cell s' a')
    else w.cell s' a' := by
  unfold Work.cell Work.setCell
  dsimp only
  rw [getD_modify]
  by_cases hs : s' = s ∧ s' < w.bcp.cells.length
  · rw [if_pos hs, getD_modify]
    by_cases ha : a' - 1 = a - 1 ∧ a' - 1 < (w.bcp.cells.getD s' []).length
    · rw [if_pos ha, if_pos ⟨⟨hs.1, ha.1⟩, hs.2, ha.2⟩]
    · rw [if_neg ha, if_neg fun k => ha ⟨k.1.2, k.2.2⟩]
  · rw [if_neg hs, if_neg fun k => hs ⟨k.1.1, k.2.1⟩]

theorem Work.cell_setCell_self {w : Work} {s a : Nat} {f : Cell → Cell} (hs : s < w.bcp.cells.length)
    (ha : a - 1 < (w.bcp.cells.getD s []).length) : (w.setCell s a f).cell s a = f (w.cell s a) := by
  rw [Work.cell_setCell, if_pos ⟨⟨rfl, rfl⟩, hs, ha⟩]

theorem Work.cell_setCell_other {w : Work} {s a s' a' : Nat} {f : Cell → Cell} (h : ¬ (s' = s ∧ a' - 1 = a - 1)) :
    (w.setCell s a f).cell s' a' = w.cell s' a' := by
  rw [Work.cell_setCell, if_neg fun k => h k.1]

/-- A field of every cell that the change of one keeps. -/
theorem Work.cell_setCell_keeps {α : Type} {g : Cell → α} {f : Cell → Cell} (h : ∀ c, g (f c) = g c) (w : Work) (s a s' a' : Nat) :
    g ((w.setCell s a f).cell s' a') = g (w.cell s' a') := by
  rw [Work.cell_setCell]
  split
  · exact h _
  · rfl

/-- The addresses of each string that the rows stand at. -/
def Work.shape (w : Work) : List Nat := w.bcp.cells.map List.length

/-- The address has a cell of its own. -/
def Work.HasCell (w : Work) (s a : Nat) : Prop := s < w.bcp.cells.length ∧ a - 1 < (w.bcp.cells.getD s []).length

theorem Work.HasCell.of_shape {w u : Work} {s a : Nat} (h : w.HasCell s a) (k : u.shape = w.shape) : u.HasCell s a := by
  have row : ∀ v : Work, (v.bcp.cells.getD s []).length = v.shape.getD s 0 := fun v => by
    rw [Work.shape, List.getD_eq_getElem?_getD, List.getD_eq_getElem?_getD, List.getElem?_map]
    cases v.bcp.cells[s]? <;> rfl
  have all : ∀ v : Work, v.bcp.cells.length = v.shape.length := fun v => (List.length_map ..).symm
  obtain ⟨hs, ha⟩ := h
  rw [all, ← k, ← all] at hs
  rw [row, ← k, ← row] at ha
  exact ⟨hs, ha⟩

theorem Work.shape_setCell (s a : Nat) (f : Cell → Cell) (w : Work) : (w.setCell s a f).shape = w.shape :=
  map_modify_same _ _ (fun _ => List.length_modify ..) _ _

theorem Work.cell_setCell_of {w : Work} {s a : Nat} {f : Cell → Cell} (h : w.HasCell s a) :
    (w.setCell s a f).cell s a = f (w.cell s a) := Work.cell_setCell_self h.1 h.2

/-! ### What derivations keep of the rows and of a busy line -/

/-- R80: an outstanding list after the answer to an offer. -/
def Cell.offered (c : RowContent) (x : OfferAnswer) (k : Cell) : Cell :=
  match x with
  | .queued => { k with outstanding := k.outstanding ++ [c] }
  | .replaced => { k with outstanding := k.outstanding.dropLast ++ [c] }
  | .refused => k

theorem Cell.offered_keeps (c : RowContent) (x : OfferAnswer) (k : Cell) :
    (k.offered c x).desired = k.desired ∧ (k.offered c x).onWall = k.onWall ∧ (k.offered c x).released = k.released ∧
      (k.offered c x).heldBack = k.heldBack := by
  cases x <;> exact ⟨rfl, rfl, rfl, rfl⟩

theorem Work.setCell_id (s a : Nat) (w : Work) : w.setCell s a (fun k => k) = w := by
  have hc : (w.bcp.cells.modify s fun cs => cs.modify (a - 1) fun k => k) = w.bcp.cells := by
    have : (fun cs : List Cell => cs.modify (a - 1) fun k => k) = id := funext fun cs => List.modify_id _ cs
    rw [this]
    exact List.modify_id ..
  rw [Work.setCell, hc]

/-- R80, R94: an offer, its answer recorded in the outstanding list of its address. -/
theorem Work.offer_eq (b : Base) (s a : Nat) (c : RowContent) (w : Work) : w.offer b s a c =
    ((w.setString s fun _ => ((w.string s).offer b.elapsed a c).1).setCell s a
        (Cell.offered c ((w.string s).offer b.elapsed a c).2), ((w.string s).offer b.elapsed a c).2) := by
  unfold Work.offer
  dsimp only
  cases ((w.string s).offer b.elapsed a c).2 with
  | queued | replaced => rfl
  | refused => exact congrArg (·, OfferAnswer.refused) (Work.setCell_id s a _).symm

theorem offer_onWall (b : Base) (s a : Nat) (c : RowContent) (w : Work) (s' a' : Nat) :
    ((w.offer b s a c).1.cell s' a').onWall = (w.cell s' a').onWall := by
  rw [Work.offer_eq]
  exact Work.cell_setCell_keeps (g := Cell.onWall) (fun k => (k.offered_keeps c _).2.1) (w.setString s _) s a s' a'

/-- R81: only a completion or a forgotten row changes what is on the wall. -/
theorem onWallKept (s' a' : Nat) : DeriveMoves fun w u => (u.cell s' a').onWall = (w.cell s' a').onWall where
  refl _ := rfl
  trans h k := k.trans h
  offer b s a c w := offer_onWall b s a c w s' a'
  cell s a _ w h := Work.cell_setCell_keeps (g := Cell.onWall) (fun c => (h c).1) w s a s' a'
  board _ _ _ _ := rfl
  conf _ := rfl
  confirm _ _ _ _ := rfl
  select b w := by rw [Work.cell, (cuesOnly_select b w).bcp, Work.cell]

theorem shapeKept : DeriveMoves fun w u => u.shape = w.shape where
  refl _ := rfl
  trans h k := k.trans h
  offer b s a c w := by
    rw [Work.offer_eq]
    exact Work.shape_setCell s a _ (w.setString s _)
  cell s a f w _ := Work.shape_setCell s a f w
  board _ _ _ _ := rfl
  conf _ := rfl
  confirm _ _ _ _ := rfl
  select b w := by rw [Work.shape, (cuesOnly_select b w).bcp, Work.shape]

theorem growsKept : DeriveMoves (Work.Grows fun _ => True) where
  refl := grows_refl
  trans := grows_trans
  offer b s a c w := w.offer_grows b s a c
  cell _ _ _ _ _ := grows_of_hlu rfl
  board _ _ _ _ := grows_of_hlu rfl
  conf _ := grows_of_hlu rfl
  confirm _ _ _ _ := grows_of_hlu rfl
  select := Work.select_grows trivial

theorem WallString.answered_inFlight (a : Nat) (c : RowContent) (u : WallString) : (u.answered a c).1.inFlight = u.inFlight := by
  unfold WallString.answered
  split
  · rfl
  · split <;> rfl

/-- The line of a string whose line is not IDLE stays as it is. -/
def LineKept (u v : WallString) : Prop := u.activity ≠ .idle → v.activity = u.activity ∧ v.inFlight = u.inFlight

theorem WallString.offer_busy {e a : Nat} {c : RowContent} {u : WallString} : LineKept u (u.offer e a c).1 := by
  intro h
  by_cases hr : u.enabled = false ∨ u.drain = true
  · rw [WallString.offer_refused hr]
    exact ⟨rfl, rfl⟩
  · obtain ⟨hon, hd⟩ : u.enabled = true ∧ u.drain = false := by simpa using hr
    have hact := (u.answered_keeps a c).2.2.1
    rw [WallString.offer_answered hon hd, WallString.start_busy (by rw [hact]; exact h)]
    exact ⟨hact, u.answered_inFlight a c⟩

theorem lineKept_moves (n : Nat) : DeriveMoves fun w u => LineKept (w.string n) (u.string n) where
  refl _ _ := ⟨rfl, rfl⟩
  trans h k hi := by
    obtain ⟨hact, hfly⟩ := h hi
    obtain ⟨kact, kfly⟩ := k (by rwa [hact])
    exact ⟨kact.trans hact, kfly.trans hfly⟩
  offer b s a c w := by
    have hstr : (w.offer b s a c).1.string n = (w.setString s fun _ => ((w.string s).offer b.elapsed a c).1).string n := by
      rw [Work.offer_eq]
      rfl
    rw [hstr, Work.string_setString]
    split
    · next h =>
      obtain ⟨rfl, -⟩ := h
      exact WallString.offer_busy
    · exact fun _ => ⟨rfl, rfl⟩
  cell _ _ _ _ _ _ := ⟨rfl, rfl⟩
  board _ _ _ _ _ := ⟨rfl, rfl⟩
  conf _ _ := ⟨rfl, rfl⟩
  confirm _ _ _ _ _ := ⟨rfl, rfl⟩
  select b w := by
    rw [Work.string, Work.string, (cuesOnly_select b w).wsc]
    exact fun _ => ⟨rfl, rfl⟩

/-! ### What is settled of the strings -/

/-- A change of one string, as far as it is settled. -/
theorem setString_settled_at {n : Nat} {f g : WallString → WallString} {w : Work} (h : (f (w.string n)).kept = g (w.string n).kept) :
    (w.setString n f).settled = { w.settled with wsc := w.settled.wsc.modify n g } := by
  have hmap : (w.wsc.modify n f).map WallString.kept = (w.wsc.map WallString.kept).modify n g := by
    refine List.ext_getElem? fun i => ?_
    rw [List.getElem?_map, List.getElem?_modify, List.getElem?_modify, List.getElem?_map]
    by_cases hi : n = i
    · subst hi
      rw [Work.string, List.getD_eq_getElem?_getD] at h
      cases hu : w.wsc[n]? with
      | none => rfl
      | some u =>
        rw [hu] at h
        simpa using h
    · simp [hi]
  exact congrArg (fun l : List WallString => { w.settled with wsc := l }) hmap

theorem setString_settled {n : Nat} {f g : WallString → WallString} (h : ∀ u, (f u).kept = g u.kept) (w : Work) :
    (w.setString n f).settled = { w.settled with wsc := w.settled.wsc.modify n g } := setString_settled_at (h _)

/-- A change of one string that leaves that string as it is. -/
theorem setString_same {n : Nat} {f : WallString → WallString} {w : Work} (h : f (w.string n) = w.string n) : w.setString n f = w := by
  have hw : w.wsc.modify n f = w.wsc := (Work.modify_string (g := id) fun _ => h).trans (List.modify_id n w.wsc)
  rw [Work.setString, hw]

/-! ### Completions (R98 to R100) -/

/-- R65: the recomposition settles that the boards no longer wait for it, and nothing else. -/
theorem recomposeBoards_settled (b : Base) (w : Work) : (w.recomposeBoards b).settled =
    { w.settled with bcp := { w.settled.bcp with recompose := false } } := by
  unfold Work.recomposeBoards
  dsimp only
  rw [kept_settled (Work.deriveAll_kept ..), kept_settled (kept_foldl _ (fun v n => ?_) _ _)]
  · rfl
  · split
    · split
      · exact kept_foldl _ (fun v r => v.setCell_kept ..) _ v
      · rfl
    · rfl

/-- R106: the end of the drains settles whether the boards wait for a recomposition, and nothing else. -/
theorem drainCheck_settled (b : Base) (w : Work) : ∃ r, (w.drainCheck b).settled =
    { w.settled with bcp := { w.settled.bcp with recompose := r } } := by
  unfold Work.drainCheck
  split
  · exact ⟨false, recomposeBoards_settled b w⟩
  · exact ⟨w.bcp.recompose, rfl⟩

/-- R100 step 3: the drain of a string ends. -/
theorem endDrain_settled (b : Base) (n : Nat) (w : Work) : ∃ r, ((w.string n).drain = false → r = w.bcp.recompose) ∧ (w.endDrain b n).settled =
    { w.settled with
      bcp := { w.settled.bcp with recompose := r }
      wsc := w.settled.wsc.modify n fun u => { u with drain := false } } := by
  have ended : (w.setString n fun u => { u with drain := false }).settled =
      { w.settled with wsc := w.settled.wsc.modify n fun u => { u with drain := false } } :=
    setString_settled (g := fun u => { u with drain := false }) (fun _ => rfl) w
  unfold Work.endDrain
  split
  · next h =>
    obtain ⟨r, hr⟩ := drainCheck_settled b (w.setString n fun u => { u with drain := false })
    exact ⟨r, fun hd => absurd h (by simp [hd]), by rw [hr, ended]⟩
  · next h =>
    have hsame : (w.setString n fun u => { u with drain := false }) = w := setString_same (by
      have : (w.string n).drain = false := by simpa using h
      rw [← this])
    rw [hsame] at ended
    exact ⟨w.bcp.recompose, fun _ => rfl, ended⟩

/-- R106: the answer to a drain's own completion leaves the drain ended. -/
theorem answerAfter_settled (b : Base) (n a : Nat) {drained : Bool} {w : Work}
    (h : w.settled = { w.settled with wsc := w.settled.wsc.modify n fun u => { u with drain := false } }) :
    (w.answerAfter b n a drained).settled = w.settled := by
  unfold Work.answerAfter
  split
  · unfold Work.setDrain
    rw [setString_settled (g := fun u => { u with drain := false }) (fun _ => rfl), kept_settled (Work.answerCompletion_kept ..),
      setString_settled (g := fun u => { u with drain := true }) (fun _ => rfl)]
    dsimp only
    rw [List.modify_modify_eq]
    exact h.symm
  · exact kept_settled (Work.answerCompletion_kept ..)

theorem complete_eq {b : Base} {n : Nat} {res : FrameResult} {w : Work} {f : WallFrame} {q : Byte}
    (h : (w.string n).inFlight = some (f, q)) : w.complete b n res =
      ((((((w.setString n (WallString.finishFrame res f)).raiseAll (healthReport n f q res (w.string n))).endDrain b n).recordCompletion
        n f.address f.content).setString n (WallString.start b.elapsed)).answerAfter b n f.address (w.string n).drain) := by
  unfold Work.complete
  rw [h]

/-- What steps 1 and 2 of a completion settle of its string. -/
def WallString.resulted (res : FrameResult) (f : WallFrame) (u : WallString) : WallString :=
  ({ u with health := u.health.set (f.address - 1) res.health } : WallString).countResult res

theorem WallString.resulted_eq (res : FrameResult) (f : WallFrame) (u : WallString) :
    { u.resulted res f with drain := false } =
      { u with
        drain := false
        health := u.health.set (f.address - 1) res.health
        repliesOk := if res = .ok then u.repliesOk + 1 else u.repliesOk
        repliesFault := match res with | .fault _ => u.repliesFault + 1 | _ => u.repliesFault
        timeouts := if res = .noReply then u.timeouts + 1 else u.timeouts } := by
  cases res <;> rfl

theorem WallString.finishFrame_kept (res : FrameResult) (f : WallFrame) (u : WallString) :
    (u.finishFrame res f).kept = u.kept.resulted res f := by
  cases res <;> rfl

theorem finished_keeps (n : Nat) (f : WallFrame) (q : Byte) (res : FrameResult) (w : Work) :
    (((w.setString n (WallString.finishFrame res f)).raiseAll (healthReport n f q res (w.string n))).string n).drain =
        (w.string n).drain ∧
      ((w.setString n (WallString.finishFrame res f)).raiseAll (healthReport n f q res (w.string n))).bcp.recompose =
        w.bcp.recompose := by
  rw [(Work.raiseAll_work ..).1]
  refine ⟨?_, rfl⟩
  show ((w.setString n (WallString.finishFrame res f)).string n).drain = _
  rw [Work.string_setString]
  split
  · cases res <;> rfl
  · rfl

/-- R100: what a completion leaves settled; the boards may be recomposed where a drain ends. -/
theorem complete_settled {b : Base} {n : Nat} {res : FrameResult} {w : Work} {f : WallFrame} {q : Byte}
    (h : (w.string n).inFlight = some (f, q)) : ∃ r, ((w.string n).drain = false → r = w.bcp.recompose) ∧ (w.complete b n res).settled =
      { w.settled with
        bcp := { w.settled.bcp with recompose := r }
        wsc := w.settled.wsc.modify n fun u => { u.resulted res f with drain := false } } := by
  have finished : ((w.setString n (WallString.finishFrame res f)).raiseAll (healthReport n f q res (w.string n))).settled =
      { w.settled with wsc := w.settled.wsc.modify n (WallString.resulted res f) } := by
    rw [raiseAll_settled]
    exact setString_settled (WallString.finishFrame_kept res f) w
  obtain ⟨hdrain, hrec⟩ := finished_keeps n f q res w
  rw [complete_eq h]
  generalize (w.setString n (WallString.finishFrame res f)).raiseAll (healthReport n f q res (w.string n)) = v at finished hdrain hrec
  obtain ⟨r, hkeep, hr⟩ := endDrain_settled b n v
  generalize v.endDrain b n = x at hr
  have started : ((x.recordCompletion n f.address f.content).setString n (WallString.start b.elapsed)).settled = x.settled :=
    kept_settled ((Work.setString_kept n _ (WallString.start_kept b.elapsed) _).trans (Work.setCell_kept ..))
  have ended : x.settled = { x.settled with wsc := x.settled.wsc.modify n fun u => { u with drain := false } } := by
    rw [hr]
    dsimp only
    rw [List.modify_modify_eq]
    rfl
  refine ⟨r, fun hd => (hkeep (hdrain.trans hd)).trans hrec, ?_⟩
  rw [answerAfter_settled b n f.address (started.trans (by rw [started]; exact ended)), started, hr, finished]
  dsimp only
  rw [List.modify_modify_eq]
  rfl

theorem forgetRows_moves {R : Work → Work → Prop} (k : WallMoves R) (hf : ∀ s a w, R w (w.setCell s a fun c => { c with onWall := none }))
    (rec : BoardRec) (w : Work) : R w (w.forgetRows rec) := k.foldl (fun w _ => hf _ _ w) _ w

/-- A relation that derivations and forgotten rows respect is respected by a recomposition. -/
theorem drainCheck_moves {R : Work → Work → Prop} (k : DeriveMoves R) (hf : ∀ s a w, R w (w.setCell s a fun c => { c with onWall := none }))
    (hr : ∀ w : Work, R w { w with bcp := { w.bcp with recompose := false } }) (b : Base) (w : Work) : R w (w.drainCheck b) := by
  unfold Work.drainCheck
  refine k.ite (k.trans (k.trans (hr w) (k.foldl (fun u m => ?_) _ _)) (k.deriveAll ..))
  split
  · split
    · exact forgetRows_moves k.toWallMoves hf _ u
    · exact k.refl u
  · exact k.refl u

/-- A relation that derivations, forgotten rows and the flags of a drain respect is respected by the end of a drain. -/
theorem endDrain_moves {R : Work → Work → Prop} (k : DeriveMoves R) (hf : ∀ s a w, R w (w.setCell s a fun c => { c with onWall := none }))
    (hs : ∀ n w, R w (w.setString n fun t => { t with drain := false }))
    (hr : ∀ w : Work, R w { w with bcp := { w.bcp with recompose := false } }) (b : Base) (n : Nat) (w : Work) :
    R w (w.endDrain b n) := k.ite (k.trans (hs n w) (drainCheck_moves k hf hr b _))

theorem endDrain_shape (b : Base) (n : Nat) (w : Work) : (w.endDrain b n).shape = w.shape :=
  endDrain_moves shapeKept (fun s a w => Work.shape_setCell s a _ w) (fun _ _ => rfl) (fun _ => rfl) b n w

theorem endDrain_grows (b : Base) (n : Nat) (w : Work) : w.Grows (fun _ => True) (w.endDrain b n) :=
  endDrain_moves growsKept (fun _ _ _ => grows_of_hlu rfl) (fun _ _ => grows_of_hlu rfl) (fun _ => grows_of_hlu rfl) b n w

theorem answerAfter_moves {R : Work → Work → Prop} (k : DeriveMoves R) (hs : ∀ n v w, R w (Work.setDrain n v w)) (b : Base) (n a : Nat)
    (drained : Bool) (w : Work) : R w (w.answerAfter b n a drained) := by
  unfold Work.answerAfter
  split
  · exact k.trans (k.trans (hs n true w) (k.answerCompletion ..)) (hs n false _)
  · exact k.answerCompletion ..

theorem answerAfter_onWall (b : Base) (n a : Nat) (drained : Bool) (w : Work) (s' a' : Nat) :
    ((w.answerAfter b n a drained).cell s' a').onWall = (w.cell s' a').onWall :=
  answerAfter_moves (onWallKept s' a') (fun _ _ _ => rfl) b n a drained w

/-- R81: a completed frame is on the wall. -/
theorem complete_onWall {b : Base} {n : Nat} {res : FrameResult} {w : Work} {f : WallFrame} {q : Byte}
    (h : (w.string n).inFlight = some (f, q)) (hn : n < w.bcp.cells.length)
    (ha : f.address - 1 < (w.bcp.cells.getD n []).length) : ((w.complete b n res).cell n f.address).onWall = some f.content := by
  rw [complete_eq h]
  have hraised : ((w.setString n (WallString.finishFrame res f)).raiseAll (healthReport n f q res (w.string n))).shape = w.shape := by
    rw [(Work.raiseAll_work ..).1]
    rfl
  generalize (w.setString n (WallString.finishFrame res f)).raiseAll (healthReport n f q res (w.string n)) = v at hraised
  have hcell : (v.endDrain b n).HasCell n f.address :=
    Work.HasCell.of_shape ⟨hn, ha⟩ ((endDrain_shape b n v).trans hraised)
  rw [answerAfter_onWall]
  exact congrArg Cell.onWall (Work.cell_setCell_of hcell)

/-- R95: the next frame starts when one completes, unless the string drains. -/
theorem complete_next {b : Base} {n : Nat} {res : FrameResult} {w : Work} {f g : WallFrame} {q : Byte} {rest : List WallFrame}
    (h : (w.string n).inFlight = some (f, q)) (hn : n < w.wsc.length) (hd : (w.string n).drain = false)
    (hon : (w.string n).enabled = true) (hq : (w.string n).queue = g :: rest) :
    ((w.complete b n res).string n).inFlight = some (g, (w.string n).seq + 1) := by
  rw [complete_eq h]
  have hlen : n < (w.setString n (WallString.finishFrame res f)).wsc.length := by
    rw [Work.setString_wsc, List.length_modify]
    exact hn
  have hstr : ((w.setString n (WallString.finishFrame res f)).raiseAll (healthReport n f q res (w.string n))).string n =
      (w.string n).finishFrame res f := by
    rw [(Work.raiseAll_work ..).1]
    exact Work.string_setString_self hn
  have hlen' : n < ((w.setString n (WallString.finishFrame res f)).raiseAll (healthReport n f q res (w.string n))).wsc.length := by
    rw [(Work.raiseAll_work ..).1]
    exact hlen
  generalize (w.setString n (WallString.finishFrame res f)).raiseAll (healthReport n f q res (w.string n)) = v at hstr hlen'
  have fields : v.endDrain b n = v := by
    rw [Work.endDrain, if_neg]
    rw [hstr]
    cases res <;> simp [WallString.finishFrame, WallString.countResult, hd]
  have started : ((v.recordCompletion n f.address f.content).setString n (WallString.start b.elapsed)).string n =
      (((w.string n).finishFrame res f).start b.elapsed) := by
    rw [Work.string_setString_self (w := v.recordCompletion n f.address f.content) hlen', ← hstr]
    rfl
  obtain ⟨hfly, hbusy⟩ : (((w.string n).finishFrame res f).start b.elapsed).inFlight = some (g, (w.string n).seq + 1) ∧
      (((w.string n).finishFrame res f).start b.elapsed).activity ≠ .idle := by
    rw [WallString.start_idle (by cases res <;> exact hon) (by cases res <;> exact hd) (by cases res <;> rfl),
      show ((w.string n).finishFrame res f).queue = g :: rest by cases res <;> exact hq]
    cases res <;> exact ⟨rfl, nofun⟩
  rw [fields, hd]
  have kept := (lineKept_moves n).answerCompletion b n f.address
    ((v.recordCompletion n f.address f.content).setString n (WallString.start b.elapsed))
  rw [started] at kept
  exact (kept hbusy).2.trans hfly

/-- R101: the report of a completion that changes the health entry. -/
theorem complete_report {b : Base} {n : Nat} {res : FrameResult} {w : Work} {f : WallFrame} {q : Byte}
    (h : (w.string n).inFlight = some (f, q)) (hne : (w.string n).healthOf f.address ≠ res.health)
    (hm : w.hlu.mask.contains .moduleState = true) (hroom : w.hlu.reports.length < 24) :
    ∃ rep ∈ (w.complete b n res).hlu.reports, rep.body = .moduleState n f.address ((w.string n).healthOf f.address) res.health q := by
  rw [complete_eq h, healthReport, if_neg hne]
  have grown : ∀ r (v : Work), Work.Grows (fun _ => True) (v.raise r)
      (((((v.raiseAll [r]).endDrain b n).recordCompletion n f.address f.content).setString n (WallString.start b.elapsed)).answerAfter
        b n f.address (w.string n).drain) := fun r v =>
    have started : Work.Grows (fun _ => True) (v.raise r)
        ((((v.raiseAll [r]).endDrain b n).recordCompletion n f.address f.content).setString n (WallString.start b.elapsed)) :=
      grows_trans (endDrain_grows b n (v.raise r)) (grows_of_hlu rfl)
    grows_trans started (answerAfter_moves growsKept (fun _ _ _ => grows_of_hlu rfl) b n f.address _ _)
  exact grows_stands (grown _ (w.setString n (WallString.finishFrame res f))) hm hroom

/-- Settles O28: the completion of the frame on the line. -/
theorem completionsAreRecorded : Obligations.CompletionsAreRecorded := by
  intro c n f q due res s hn hact hfly hc health old
  have hexec : exec c s = (s.mapWork (fun w => w.complete s.base n res)).done := by
    rcases hc with ⟨rfl, rfl⟩ | ⟨r, rfl, hr⟩
    · show (s.mapWork (Work.replyTimeout s.base n.val)).done = _
      rw [State.mapWork, State.mapWork, Work.replyTimeout, hact]
    · have hacc : (s.work.string n).accepts ⟨f.address, q, r, true⟩ = true :=
        (WallString.accepts_iff ..).mpr ⟨due, f, q, hact, hfly, rfl, rfl, rfl⟩
      have hres : frameResult r = res := by cases r <;> exact hr.symm
      show (s.mapWork (Work.moduleReply s.base n.val ⟨f.address, q, r, true⟩)).done = _
      rw [State.mapWork, State.mapWork, Work.moduleReply, if_pos hacc]
      exact congrArg (fun x => State.done { s with work := s.work.complete s.base n x }) hres
  have hhealth : res.health = health := by cases res <;> rfl
  obtain ⟨r, hkeep, hsettled⟩ := complete_settled (b := s.base) (res := res) hfly
  have hrec : (s.work.complete s.base n res).bcp.recompose = r := (congrArg Bcp.recompose (congrArg Work.bcp hsettled :) :)
  refine ⟨(s.mapWork (fun w => w.complete s.base n res)).finish, hexec, rfl, rfl, rfl, ?_, ?_, ?_, ?_, ?_⟩
  · have key := hsettled
    rw [← hrec, funext (WallString.resulted_eq res f), hhealth] at key
    rw [finish_settled, State.mapWork_work]
    cases res <;> exact key
  · intro hd
    rw [State.finish_work, State.mapWork_work, hrec]
    exact hkeep hd
  · exact fun hs ha => complete_onWall hfly hs ha
  · exact fun hd hon g rest hq => complete_next hfly hn hd hon hq
  · intro hne hm hroom
    rw [← hhealth] at hne ⊢
    obtain ⟨rep, hrep, hbody⟩ := complete_report (b := s.base) (res := res) hfly hne hm hroom
    exact ⟨rep, by rw [State.finish_work, State.mapWork_work, pump_reports]; exact hrep, hbody⟩

end Sys2Proof.Machine
end

section
/-!
PROOF. The boards after a derivation, and accepted CONFIGURE BOARD sections (R61, R62).
-/

namespace Sys2Proof.Machine

/-! ### Boards after a write and after a derivation -/

theorem Work.board_setBoard (w : Work) (n m : Nat) (f : Board → Board) :
    (w.setBoard n f).board m = if m = n then (w.board m).map f else w.board m := by
  unfold Work.board Work.setBoard
  dsimp only
  rw [getD_modify]
  by_cases hm : m < w.bcp.boards.length
  · simp [hm]
  · rw [if_neg fun h => hm h.2, List.getD_eq_default _ _ (Nat.not_lt.mp hm)]
    simp

theorem boardsKept : RowMoves fun w u => u.bcp.boards = w.bcp.boards where
  refl _ := rfl
  trans h k := k.trans h
  offer b s a c w := by
    rw [Work.offer_eq]
    rfl
  cell _ _ _ _ _ := rfl

theorem board_of_boards {w u : Work} (h : u.bcp.boards = w.bcp.boards) (n : Nat) : u.board n = w.board n := by
  rw [Work.board, h, Work.board]

/-- R67 steps 1 and 2: the boards after one derivation. -/
theorem deriveBoard_board (b : Base) (e : Bool) (n m : Nat) (w : Work) :
    (w.deriveBoard b none e n).board m = if m = n then (w.board m).map (Board.refresh b w n) else w.board m := by
  cases hb : w.board n with
  | none =>
    unfold Work.deriveBoard
    rw [hb]
    by_cases hm : m = n
    · simp [hm, hb]
    · simp [hm]
  | some bd =>
    have hrows : (w.deriveBoard b none e n).bcp.boards = (w.setBoard n fun _ => bd.refresh b w n).bcp.boards := by
      unfold Work.deriveBoard
      rw [hb]
      exact boardsKept.trans (boardsKept.trans (boardsKept.foldl (boardsKept.deriveRow b _ none) _ _)
        (boardsKept.foldl (boardsKept.releaseRow _ e _) _ _)) (boardsKept.offerRows ..)
    rw [board_of_boards hrows, Work.board_setBoard]
    by_cases hm : m = n
    · simp [hm, hb]
    · simp [hm]

theorem confirmChanges_cuesOnly (b : Base) (evs : List (Key × BitVec 32 × Bool)) (w : Work) : w.CuesOnly (w.confirmChanges b evs) := by
  unfold Work.confirmChanges
  split
  · exact cuesOnly_refl w
  · exact (cuesOnly_select b _).after (cuesOnly_foldl (fun _ _ => cuesOnly_mapCuc ..) evs w)

/-- R84: bringing the confirmation sets up to date leaves rows, boards and strings as they are. -/
theorem refreshConfirmations_keeps (b : Base) (evs : List (Key × BitVec 32 × Bool)) (w : Work) :
    (w.refreshConfirmations b evs).bcp = w.bcp ∧ (w.refreshConfirmations b evs).wsc = w.wsc :=
  ⟨(confirmChanges_cuesOnly b _ _).bcp, (confirmChanges_cuesOnly b _ _).wsc⟩

/-- What the derivations of an event keep of a board keeps its place. -/
theorem deriveWith_board {P : Board → Prop} {n : Nat} (hP : ∀ b (w : Work) bd, P bd → P (bd.refresh b w n)) (b : Base) (expired : List Nat)
    (evs : List (Key × BitVec 32 × Bool)) (p : Nat → Bool) {w : Work} (h : ∃ bd, w.board n = some bd ∧ P bd) :
    ∃ bd, (w.deriveWith b none expired evs p).board n = some bd ∧ P bd := by
  have one : ∀ (v : Work) e m, (∃ bd, v.board n = some bd ∧ P bd) → ∃ bd, (v.deriveBoard b none e m).board n = some bd ∧ P bd := by
    rintro v e m ⟨bd, hbd, hp⟩
    rw [deriveBoard_board]
    by_cases hn : n = m
    · subst hn
      rw [if_pos rfl, hbd]
      exact ⟨_, rfl, hP b v bd hp⟩
    · rw [if_neg hn]
      exact ⟨bd, hbd, hp⟩
  have many : ∀ (l : List Nat) (v : Work), (∃ bd, v.board n = some bd ∧ P bd) →
      ∃ bd, (l.foldl (fun v m => if v.online m && p m then v.deriveBoard b none (expired.contains m) m else v) v).board n = some bd ∧
        P bd := by
    intro l
    induction l with
    | nil => exact fun v hv => hv
    | cons m l ih =>
      intro v hv
      refine ih _ ?_
      dsimp only
      split
      · exact one v _ m hv
      · exact hv
  obtain ⟨bd, hbd, hp⟩ := many (List.range 16) w h
  refine ⟨bd, ?_, hp⟩
  unfold Work.deriveWith
  rw [Work.board, (refreshConfirmations_keeps ..).1]
  exact hbd

/-- A derivation of boards that are not ONLINE brings the confirmation sets up to date and does nothing else. -/
theorem derive_offline {b : Base} {p : Nat → Bool} {w : Work} (h : ∀ n, p n = true → w.online n = false) :
    w.derive b p = w.refreshConfirmations b [] := by
  have stays : ∀ l : List Nat, l.foldl (fun v m => if v.online m && p m then v.deriveBoard b none (List.contains [] m) m else v) w = w := by
    intro l
    induction l with
    | nil => rfl
    | cons m l ih =>
      have : (w.online m && p m) = false := by
        cases hp : p m
        · simp
        · simp [h m hp]
      rw [List.foldl_cons, this]
      exact ih
  unfold Work.derive Work.deriveWith
  rw [stays]

/-! ### Offers to a string with room (R94) -/

theorem WallString.start_queue (e : Nat) (u : WallString) :
    (u.start e).queue.length ≤ u.queue.length ∧ (u.start e).enabled = u.enabled ∧ (u.start e).drain = u.drain := by
  unfold WallString.start
  split
  · split
    · exact ⟨Nat.le_refl _, rfl, rfl⟩
    · next h =>
      rw [h]
      exact ⟨by simp, rfl, rfl⟩
  · exact ⟨Nat.le_refl _, rfl, rfl⟩

/-- R94: a string that may send and has room accepts an offer. -/
theorem WallString.offer_room {e a : Nat} {c : RowContent} {u : WallString} (hon : u.enabled = true) (hd : u.drain = false)
    (hroom : u.queue.length < 48) : (u.offer e a c).2 ≠ .refused ∧ (u.offer e a c).1.enabled = true ∧
      (u.offer e a c).1.drain = false ∧ (u.offer e a c).1.queue.length ≤ u.queue.length + 1 := by
  obtain ⟨kon, kd, -⟩ := u.answered_keeps a c
  obtain ⟨hq, son, sd⟩ := WallString.start_queue e (u.answered a c).1
  have hlen : (u.answered a c).2 ≠ .refused ∧ (u.answered a c).1.queue.length ≤ u.queue.length + 1 := by
    unfold WallString.answered
    split
    · exact ⟨nofun, by simp⟩
    · exact ⟨nofun, by simp⟩
  rw [WallString.offer_answered hon hd]
  exact ⟨hlen.1, son.trans (kon.trans hon), sd.trans (kd.trans hd), Nat.le_trans hq hlen.2⟩

/-! ### CONFIGURE BOARD (R61, R62) -/

/-- An offered BLANK frame stays newest at its address while only BLANK frames are offered. -/
theorem offer_blank_stays (b : Base) (s a s' a' : Nat) {w : Work} (h : (w.cell s' a').outstanding.getLast? = some .blank) :
    ((w.offer b s a .blank).1.cell s' a').outstanding.getLast? = some .blank := by
  rw [Work.offer_eq]
  show (((w.setString s _).setCell s a _).cell s' a').outstanding.getLast? = _
  rw [Work.cell_setCell]
  split
  · generalize ((w.string s).offer b.elapsed a .blank).2 = x
    cases x with
    | queued | replaced => exact List.getLast?_concat
    | refused => exact h
  · exact h

theorem offer_blank_last {b : Base} {s a : Nat} {w : Work} (hon : (w.string s).enabled = true) (hd : (w.string s).drain = false)
    (hroom : (w.string s).queue.length < 48) (hcell : w.HasCell s a) :
    ((w.offer b s a .blank).1.cell s a).outstanding.getLast? = some .blank := by
  have hans := (WallString.offer_room (e := b.elapsed) (a := a) (c := .blank) hon hd hroom).1
  rw [Work.offer_eq]
  show (((w.setString s _).setCell s a _).cell s a).outstanding.getLast? = _
  rw [Work.cell_setCell_of (w := w.setString s _) hcell]
  generalize ((w.string s).offer b.elapsed a .blank).2 = x at hans
  cases x with
  | queued | replaced => exact List.getLast?_concat
  | refused => exact absurd rfl hans

/-- R62: BLANK frames offered to rows with room for each stand newest at their addresses. -/
theorem blankRows_last {b : Base} {rec : BoardRec} {w : Work} (hs : rec.string < w.wsc.length) (hon : (w.string rec.string).enabled = true)
    (hd : (w.string rec.string).drain = false) {rows : List Nat} (hroom : (w.string rec.string).queue.length + rows.length ≤ 48)
    (hcell : ∀ r ∈ rows, w.HasCell rec.string (rec.address r)) {r : Nat} (hr : r ∈ rows) :
    ((rows.foldl (fun w r => (w.offer b rec.string (rec.address r) .blank).1) w).cell rec.string (rec.address r)).outstanding.getLast? =
      some .blank := by
  have stays : ∀ (l : List Nat) (v : Work), (v.cell rec.string (rec.address r)).outstanding.getLast? = some .blank →
      ((l.foldl (fun w r => (w.offer b rec.string (rec.address r) .blank).1) v).cell rec.string (rec.address r)).outstanding.getLast? =
        some .blank := by
    intro l
    induction l with
    | nil => exact fun v hv => hv
    | cons q l ih => exact fun v hv => ih _ (offer_blank_stays b _ _ _ _ hv)
  induction rows generalizing w with
  | nil => exact absurd hr List.not_mem_nil
  | cons q rows ih =>
    rw [List.length_cons] at hroom
    rw [List.foldl_cons]
    rcases List.mem_cons.mp hr with rfl | hr
    · exact stays rows _ (offer_blank_last hon hd (by omega) (hcell r (List.mem_cons_self ..)))
    · obtain ⟨-, kon, kd, klen⟩ := WallString.offer_room (e := b.elapsed) (a := rec.address q) (c := .blank) hon hd (by omega)
      have hstr : (w.offer b rec.string (rec.address q) .blank).1.string rec.string =
          ((w.string rec.string).offer b.elapsed (rec.address q) .blank).1 := by
        rw [Work.offer_eq]
        exact Work.string_setString_self hs
      have hlen : (w.offer b rec.string (rec.address q) .blank).1.wsc.length = w.wsc.length := by
        rw [Work.offer_eq]
        exact List.length_modify ..
      refine ih (by rw [hlen]; exact hs) (by rw [hstr]; exact kon) (by rw [hstr]; exact kd) (by rw [hstr]; omega) (fun q' hq' => ?_) hr
      exact (hcell q' (List.mem_cons_of_mem _ hq')).of_shape (shapeKept.offer ..)

theorem boardRecord_eq (r : BoardReq) : boardRecord r =
    { enabled := argOr true r.enabled, string := r.string.getD 0, first := r.first.getD 1, rows := r.rows.getD 1
      kind := argOr .list r.kind, platforms := asSet (r.platforms.getD []), classes := asSet (r.classes.getD [])
      horizon := r.horizon.getD 120, fixed := r.fixed.getD 0
      period := if r.period.getD 10 < 5 then 5 else if 60 < r.period.getD 10 then 60 else r.period.getD 10
      showDue := r.showDue.getD true, showExpected := r.showExpected.getD true
      showCoaches := r.showCoaches.getD false } := by
  rw [boardRecord, clamp_eq (by decide)]

/-- R62: the rows of a board that is being taken OFFLINE, offered BLANK. -/
def Work.vacated (b : Base) (n : Nat) (rec : BoardRec) (w : Work) : Work :=
  match w.board n with
  | some old => if w.online n && !rec.enabled then w.blankRows b old.record else w
  | none => w

/-- R61: the board with a new record, as it stands until it is derived. -/
def BoardRec.board (b : Base) (rec : BoardRec) : Board :=
  { record := rec, eligible := [], presentation := presentationOf b, banner := .none, page := 0, pageCount := 1, timer := 0 }

theorem putBoard_eq (b : Base) (n : Nat) (rec : BoardRec) (w : Work) : w.putBoard b n rec =
    (({ w.vacated b n rec with bcp := { (w.vacated b n rec).bcp with
        boards := (w.vacated b n rec).bcp.boards.set n (some (rec.board b)) } } : Work).claimRows rec).derive b (· == n) := rfl

theorem vacated_moves {R : Work → Work → Prop} (k : RowMoves R) (b : Base) (n : Nat) (rec : BoardRec) (w : Work) :
    R w (w.vacated b n rec) := by
  unfold Work.vacated
  split
  · exact k.ite (k.foldl (fun w r => k.offer ..) _ w)
  · exact k.refl w

theorem vacated_kept (b : Base) (n : Nat) (rec : BoardRec) (w : Work) : (w.vacated b n rec).kept = w.kept := by
  unfold Work.vacated
  split
  · split
    · exact kept_foldl _ (fun w r => Work.offer_kept ..) _ w
    · rfl
  · rfl

theorem claimRows_kept (rec : BoardRec) (w : Work) : (w.claimRows rec).kept = w.kept :=
  kept_foldl _ (fun w _ => w.setCell_kept ..) _ w

theorem putBoard_settled (b : Base) (n : Nat) (rec : BoardRec) (w : Work) : (w.putBoard b n rec).settled =
    { w.settled with bcp := { w.settled.bcp with boards := w.settled.bcp.boards.set n (some (rec.board b).kept) } } := by
  rw [putBoard_eq, kept_settled (Work.derive_kept ..), kept_settled (claimRows_kept ..)]
  have hset : (((w.vacated b n rec).bcp.boards.set n (some (rec.board b))).map (Option.map Board.kept)) =
      ((w.vacated b n rec).bcp.boards.map (Option.map Board.kept)).set n (some (rec.board b).kept) := List.map_set
  have hv := kept_settled (vacated_kept b n rec w)
  rw [← hv]
  exact congrArg (fun l => { (w.vacated b n rec).settled with bcp := { (w.vacated b n rec).settled.bcp with boards := l } }) hset

theorem setBoards_length {w u : Work} (h : u.settled = w.settled) : u.bcp.boards.length = w.bcp.boards.length := by
  have := congrArg (fun v : Bcp => v.boards.length) (settled_bcp h)
  simpa [Bcp.kept] using this

theorem cell_of_hasCell {w : Work} {s a : Nat} (h : ¬ w.HasCell s a) : w.cell s a = Cell.reset := by
  unfold Work.cell
  by_cases hlen : s < w.bcp.cells.length
  · exact List.getD_eq_default _ _ (Nat.not_lt.mp fun k => h ⟨hlen, k⟩)
  · rw [List.getD_eq_default w.bcp.cells _ (Nat.not_lt.mp hlen)]
    rfl

/-- Rows set to unknown stay unknown while rows are set to unknown. -/
theorem forget_stays {f : Cell → Cell} (hf : ∀ c, (f c).onWall = none) (rec : BoardRec) (rows : List Nat) {w : Work} {s a : Nat}
    (h : (w.cell s a).onWall = none) :
    ((rows.foldl (fun w r => w.setCell rec.string (rec.address r) f) w).cell s a).onWall = none := by
  induction rows generalizing w with
  | nil => exact h
  | cons r rows ih =>
    refine ih ?_
    rw [Work.cell_setCell]
    split
    · exact hf _
    · exact h

theorem forget_rows {f : Cell → Cell} (hf : ∀ c, (f c).onWall = none) (rec : BoardRec) {rows : List Nat} {r : Nat} (hr : r ∈ rows)
    (w : Work) : ((rows.foldl (fun w r => w.setCell rec.string (rec.address r) f) w).cell rec.string (rec.address r)).onWall = none := by
  induction rows generalizing w with
  | nil => exact absurd hr List.not_mem_nil
  | cons q rows ih =>
    rcases List.mem_cons.mp hr with rfl | hr
    · refine forget_stays hf rec rows ?_
      by_cases hc : w.HasCell rec.string (rec.address r)
      · rw [Work.cell_setCell_of hc]
        exact hf _
      · rw [cell_of_hasCell fun k => hc (k.of_shape (Work.shape_setCell ..).symm)]
        rfl
    · exact ih hr _

/-- Rows claimed by a new record: what is outstanding stays. -/
theorem claimRows_outstanding (rec : BoardRec) (w : Work) (s a : Nat) :
    ((w.claimRows rec).cell s a).outstanding = (w.cell s a).outstanding := by
  unfold Work.claimRows
  have one : ∀ (v : Work) r, ((v.setCell rec.string (rec.address r) fun c =>
      { c with desired := .blank, onWall := none, released := false, heldBack := false }).cell s a).outstanding =
        (v.cell s a).outstanding := fun v r => by
    rw [Work.cell_setCell]
    split <;> rfl
  generalize rec.rowList = rows
  induction rows generalizing w with
  | nil => rfl
  | cons r rows ih => exact (ih _).trans (one w r)

/-- The board before its derivation. -/
theorem claimed_board (b : Base) {n : Nat} (rec : BoardRec) {w : Work} (hn : n < w.bcp.boards.length) :
    (({ w.vacated b n rec with bcp := { (w.vacated b n rec).bcp with
        boards := (w.vacated b n rec).bcp.boards.set n (some (rec.board b)) } } : Work).claimRows rec).board n =
      some (rec.board b) := by
  have hlen : n < (w.vacated b n rec).bcp.boards.length := by
    rw [vacated_moves boardsKept]
    exact hn
  have hclaim : ∀ v : Work, (v.claimRows rec).bcp.boards = v.bcp.boards := fun v => by
    unfold Work.claimRows
    exact boardsKept.foldl (fun v r => (rfl : (v.setCell rec.string (rec.address r) _).bcp.boards = v.bcp.boards)) _ v
  rw [board_of_boards (hclaim _)]
  exact List.getD_eq_getElem?_getD .. |>.trans (by simp [hlen])

theorem offline_of_disabled {w : Work} {n : Nat} {bd : Board} (h : w.board n = some bd) (hd : bd.record.enabled = false) :
    w.online n = false := by
  rw [Work.online, h]
  dsimp only
  rw [hd]
  rfl

theorem putBoard_board (b : Base) {n : Nat} (rec : BoardRec) {w : Work} (hn : n < w.bcp.boards.length) :
    ∃ bd, (w.putBoard b n rec).board n = some bd ∧ bd.record = rec ∧ bd.page = 0 ∧ bd.timer = 0 := by
  rw [putBoard_eq]
  refine deriveWith_board (P := fun bd => bd.record = rec ∧ bd.page = 0 ∧ bd.timer = 0) (fun b w bd => ?_) b [] [] _
    ⟨rec.board b, ?_, rfl, rfl, rfl⟩
  · rintro ⟨hrec, hpage, htimer⟩
    refine ⟨hrec, ?_, ?_⟩
    · unfold Board.refresh
      dsimp only
      rw [hpage, ite_self]
    · unfold Board.refresh
      dsimp only
      rw [htimer, ite_self]
  · exact claimed_board b rec hn

theorem putBoard_onWall (b : Base) (n : Nat) (rec : BoardRec) (w : Work) {row : Nat} (h1 : 1 ≤ row) (h2 : row ≤ rec.rows) :
    ((w.putBoard b n rec).cell rec.string (rec.first + row - 1)).onWall = none := by
  rw [putBoard_eq, (onWallKept rec.string (rec.first + row - 1)).derive]
  exact forget_rows (f := fun c => { c with desired := .blank, onWall := none, released := false, heldBack := false })
    (fun _ => rfl) rec (mem_rowList.mpr ⟨h1, h2⟩) _

/-- R62: each row of the board taken OFFLINE has a BLANK frame newest at its address. -/
theorem putBoard_blank {b : Base} {n : Nat} {rec : BoardRec} {w : Work} {old : Board} (hoff : rec.enabled = false)
    (hon : w.online n = true) (hold : w.board n = some old) (hcells : old.record.string < w.bcp.cells.length)
    (hfirst : 1 ≤ old.record.first) (hlast : old.record.first + old.record.rows - 1 ≤ (w.bcp.cells.getD old.record.string []).length)
    (hd : (w.string old.record.string).drain = false) (hroom : (w.string old.record.string).queue.length + old.record.rows ≤ 48)
    {row : Nat} (h1 : 1 ≤ row) (h2 : row ≤ old.record.rows) :
    ((w.putBoard b n rec).cell old.record.string (old.record.first + row - 1)).outstanding.getLast? = some .blank := by
  have henabled := ((Work.online_iff hold).mp hon).2
  have hstring : old.record.string < w.wsc.length := by
    by_contra hno
    rw [Work.string, List.getD_eq_default _ _ (Nat.not_lt.mp hno)] at henabled
    exact absurd henabled Bool.false_ne_true
  have hn : n < w.bcp.boards.length := by
    by_contra hno
    rw [Work.board, List.getD_eq_default _ _ (Nat.not_lt.mp hno)] at hold
    cases hold
  have hvacated : w.vacated b n rec = w.blankRows b old.record := by
    rw [Work.vacated, hold]
    dsimp only
    rw [hon, hoff]
    rfl
  have hrows : old.record.rowList.length = old.record.rows := by simp [BoardRec.rowList]
  have hblank := blankRows_last (b := b) hstring henabled hd (rows := old.record.rowList) (by rw [hrows]; exact hroom)
    (fun r hr => by
      obtain ⟨hr1, hr2⟩ := mem_rowList.mp hr
      exact ⟨hcells, by unfold BoardRec.address; omega⟩) (mem_rowList.mpr ⟨h1, h2⟩)
  have hoffline : ∀ m, (m == n) = true → (({ w.vacated b n rec with bcp := { (w.vacated b n rec).bcp with
        boards := (w.vacated b n rec).bcp.boards.set n (some (rec.board b)) } } : Work).claimRows rec).online m = false := by
    intro m hm
    cases beq_iff_eq.mp hm
    exact offline_of_disabled (claimed_board b rec hn) hoff
  rw [putBoard_eq, derive_offline hoffline, Work.cell, (refreshConfirmations_keeps ..).1, ← Work.cell, claimRows_outstanding,
    hvacated]
  exact hblank

/-- Settles O21: the record is replaced, its rows forgotten, and those of a board taken OFFLINE offered BLANK. -/
theorem configureBoardStoresTheRecord : Obligations.ConfigureBoardStoresTheRecord := by
  intro h n r s hr hm hok hn period stored
  have hstored : boardRecord r = stored := boardRecord_eq r
  have hok' : boardRefusal (s.arrives h (.configureBoard n r)) n r = none :=
    (refusalOf_arrives h (.configureBoard n r) (.configureBoard n r) s).trans hok
  have hreply : Reply.clampedOr (clampNote .pagePeriod r.period stored.period) .nothing =
      if stored.period = period then ⟨.ok, [], .nothing⟩ else ⟨.clamped, [(.pagePeriod, stored.period)], .nothing⟩ := by
    cases hv : r.period with
    | none => simp [clampNote, Reply.clampedOr, stored, period, hv]
    | some v =>
      have hval : period = v := by simp [period, hv]
      rw [hval]
      by_cases he : stored.period = v
      · simp [clampNote, Reply.clampedOr, he]
      · simp [clampNote, Reply.clampedOr, he, Ne.symm he]
  obtain ⟨t, h1, h2, hb, hs, hp, hw⟩ := request_answers (q := .configureBoard n r) hr hm (by
    simp only [Request.owner, ownBoard, guarded_eq hok', hstored, hreply]
    rfl)
  have harrive : (s.arrives h (.configureBoard n r)).work.bcp.boards.length = s.work.bcp.boards.length :=
    setBoards_length (arrives_settled ..)
  have hsettled := answers_settled hw
  rw [State.mapWork_work, State.arrives_base] at hw hsettled
  have hcells : t.work.bcp = ((s.arrives h (.configureBoard n r)).work.putBoard s.base n stored).bcp := by rw [hw]
  obtain ⟨bd, hbd, hrec, hpage, htimer⟩ := putBoard_board s.base stored (by rw [harrive]; exact hn)
  have hboard : t.work.board n = some bd := by rw [Work.board, hcells]; exact hbd
  rw [State.mapWork_base, State.arrives_base] at hb
  rw [State.mapWork_scd, State.arrives_scd] at hs
  rw [State.mapWork_pending, State.arrives_pending] at hp
  refine ⟨t, bd, h1, h2, hb, hs, hp, hboard, hrec, hpage, htimer, fun row hrow1 hrow2 => ?_, fun old hoff hon hold => ⟨?_, ?_⟩, ?_⟩
  · rw [Work.cell, hcells]
    exact putBoard_onWall s.base n stored _ hrow1 hrow2
  · exact offline_of_disabled hboard (by rw [hrec]; exact hoff)
  · intro hdeg hstr hfirst hlast hd hroom row hrow1 hrow2
    have hfresh := arrives_fresh h (.configureBoard n r) s hr.1 hdeg
    rw [Work.cell, hcells]
    refine putBoard_blank hoff ?_ ?_ ?_ hfirst ?_ ?_ ?_ hrow1 hrow2
    · rw [hfresh]; exact hon
    · rw [hfresh]; exact hold
    · rw [hfresh]; exact hstr
    · rw [hfresh]; exact hlast
    · rw [hfresh]; exact hd
    · rw [hfresh]; exact hroom
  · rw [hsettled, putBoard_settled, arrives_settled]
    have hkept : (stored.board s.base).kept = bd.kept := by rw [Board.kept, Board.kept, hrec]; rfl
    rw [hkept]

end Sys2Proof.Machine
end

section
/-!
PROOF. Accepted CONFIGURE STRING sections (R91, R103, R104).
-/

namespace Sys2Proof.Machine

/-! ### Disable (R83, R104) -/

/-- R83: what the discarded frames leave in an outstanding list. -/
theorem dropDiscarded_cell (n : Nat) {fs : List WallFrame} (hfs : ∀ f ∈ fs, 1 ≤ f.address) {a : Nat} (ha : 1 ≤ a) (w : Work) :
    (w.dropDiscarded n fs).cell n a = { w.cell n a with
      outstanding := (w.cell n a).outstanding.take ((w.cell n a).outstanding.length - fs.countP fun f => f.address == a) } := by
  unfold Work.dropDiscarded
  induction fs generalizing w with
  | nil => simp
  | cons f fs ih =>
    rw [List.foldl_cons, ih fun g hg => hfs g (List.mem_cons_of_mem _ hg)]
    by_cases hf : f.address = a
    · have hcell : (w.setCell n f.address fun c => { c with outstanding := c.outstanding.dropLast }).cell n a =
          { w.cell n a with outstanding := (w.cell n a).outstanding.dropLast } := by
        rw [hf]
        by_cases hc : w.HasCell n a
        · exact Work.cell_setCell_of hc
        · rw [cell_of_hasCell hc, cell_of_hasCell fun k => hc (k.of_shape (Work.shape_setCell ..).symm)]
          rfl
      have hmin : ∀ l k : Nat, min (min (l - 1) l - k) (l - 1) = l - (k + 1) := by omega
      rw [hcell, List.countP_cons_of_pos (by simpa using hf), List.dropLast_eq_take, List.take_take, List.length_take, hmin]
    · have h1 := hfs f (List.mem_cons_self ..)
      have hne : ¬ (n = n ∧ a - 1 = f.address - 1) := fun k => hf (by omega)
      rw [Work.cell_setCell_other hne, List.countP_cons_of_neg (by simpa using hf)]

theorem disableString_eq (b : Base) (n : Nat) (w : Work) :
    (w.disableString b n).wsc = (w.setString n WallString.disable).wsc ∧
      (w.disableString b n).bcp = ((w.setString n WallString.disable).dropDiscarded n (w.string n).queue).bcp := by
  have hwsc : ∀ (fs : List WallFrame) (v : Work), (v.dropDiscarded n fs).wsc = v.wsc := by
    intro fs
    induction fs with
    | nil => exact fun v => rfl
    | cons f fs ih => exact fun v => ih _
  unfold Work.disableString
  obtain ⟨hb, hw⟩ := refreshConfirmations_keeps b [] ((w.setString n WallString.disable).dropDiscarded n (w.string n).queue)
  exact ⟨hw.trans (hwsc ..), hb⟩

/-! ### Enable (R64, R103) -/

theorem bringOnline_kept (n : Nat) (w : Work) : (w.bringOnline n).kept = w.kept := by
  unfold Work.bringOnline
  split
  · next bd _ =>
    have forgotten : (w.forgetRows bd.record).kept = w.kept := kept_foldl _ (fun v _ => v.setCell_kept ..) _ w
    exact (Work.setBoard_kept n (fun bd => { bd with page := 0, timer := 0 }) (fun _ => rfl) _).trans forgotten
  · rfl

theorem enableString_kept (b : Base) (n : Nat) (w : Work) : (w.enableString b n).kept = (w.setString n WallString.enable).kept := by
  unfold Work.enableString
  dsimp only
  rw [Work.derive_kept]
  refine kept_foldl _ (fun v m => ?_) _ _
  split
  · exact bringOnline_kept m v
  · rfl

/-- A board brought ONLINE keeps its record, and so do the others. -/
theorem bringOnline_record (n m : Nat) (w : Work) : ((w.bringOnline n).board m).map Board.record = (w.board m).map Board.record :=
  settled_record (kept_settled (bringOnline_kept n w)) m

/-- R64: what is on the wall at the rows of a board that is brought ONLINE is forgotten; rows that are unknown stay unknown. -/
theorem bringOnline_onWall {n : Nat} {w : Work} {s a : Nat}
    (h : (w.cell s a).onWall = none ∨ ∃ bd row, w.board n = some bd ∧ row ∈ bd.record.rowList ∧ s = bd.record.string ∧
      a = bd.record.address row) : ((w.bringOnline n).cell s a).onWall = none := by
  unfold Work.bringOnline
  rcases h with h | ⟨bd, row, hbd, hrow, rfl, rfl⟩
  · split
    · exact forget_stays (f := fun c => { c with onWall := none }) (fun _ => rfl) _ _ h
    · exact h
  · rw [hbd]
    exact forget_rows (f := fun c => { c with onWall := none }) (fun _ => rfl) _ hrow w

theorem enableString_onWall (b : Base) {n m row : Nat} {bd : Board} {w : Work} (hm : m < 16) (hbd : w.board m = some bd)
    (hon : bd.record.enabled = true) (hs : bd.record.string = n) (hrow : row ∈ bd.record.rowList) :
    ((w.enableString b n).cell n (bd.record.address row)).onWall = none := by
  have henabled : (w.setString n WallString.enable).enabledOn n m = true := by
    rw [Work.enabledOn, show (w.setString n WallString.enable).board m = some bd from hbd]
    simp [hon, hs]
  unfold Work.enableString
  dsimp only
  rw [(onWallKept n (bd.record.address row)).derive]
  have many : ∀ (l : List Nat) (v : Work), (v.board m).map Board.record = some bd.record →
      ((v.cell n (bd.record.address row)).onWall = none ∨ m ∈ l) →
      ((l.foldl (fun w' k => if (w.setString n WallString.enable).enabledOn n k then w'.bringOnline k else w') v).cell n
        (bd.record.address row)).onWall = none := by
    intro l
    induction l with
    | nil => exact fun v _ h => h.resolve_right List.not_mem_nil
    | cons k l ih =>
      intro v hv h
      refine ih _ ?_ ?_
      · dsimp only
        split
        · exact (bringOnline_record k m v).trans hv
        · exact hv
      · rcases h with h | h
        · refine Or.inl ?_
          dsimp only
          split
          · exact bringOnline_onWall (.inl h)
          · exact h
        · rcases List.mem_cons.mp h with rfl | h
          · refine Or.inl ?_
            dsimp only
            rw [if_pos henabled]
            obtain ⟨bd', hbd', hrec⟩ := Option.map_eq_some_iff.mp hv
            exact bringOnline_onWall (.inr ⟨bd', row, hbd', by rw [hrec]; exact hrow, by rw [hrec, hs], by rw [hrec]⟩)
          · exact Or.inr h
  exact many (List.range 16) (w.setString n WallString.enable) (by rw [show (w.setString n WallString.enable).board m = some bd from hbd]; rfl)
    (.inr (List.mem_range.mpr hm))

/-! ### CONFIGURE STRING -/

theorem disableString_kept (b : Base) (n : Nat) (w : Work) : (w.disableString b n).kept = (w.setString n WallString.disable).kept := by
  unfold Work.disableString
  rw [Work.refreshConfirmations_kept]
  exact kept_foldl _ (fun w _ => w.setCell_kept ..) _ _

/-- R91, R103, R104: what a section leaves settled of the string. -/
theorem putString_settled (b : Base) (n : Nat) (on : Bool) (rate : WallRate) (w : Work) : (w.putString b n on rate).settled =
    { w.settled with wsc := w.settled.wsc.modify n fun u =>
      { u with enabled := on, rate := rate, opRate := if (w.string n).enabled = false ∧ on = true then rate else u.opRate } } := by
  have one : ∀ F : WallString → WallString, (F (w.string n)).kept = { (w.string n).kept with
      enabled := on, rate := rate, opRate := if (w.string n).enabled = false ∧ on = true then rate else (w.string n).opRate } →
      (w.setString n F).settled = { w.settled with wsc := w.settled.wsc.modify n fun u =>
        { u with enabled := on, rate := rate, opRate := if (w.string n).enabled = false ∧ on = true then rate else u.opRate } } :=
    fun F hF => setString_settled_at hF
  have twice : ∀ F : WallString → WallString, (w.setString n fun u => { u with rate := rate }).setString n F =
      w.setString n fun u => F { u with rate := rate } := fun F => by
    unfold Work.setString
    dsimp only
    rw [List.modify_modify_eq]
    rfl
  unfold Work.putString
  dsimp only
  cases hwas : (w.string n).enabled <;> rw [hwas] at one <;> cases on
  · exact one _ (by simp [WallString.kept, hwas])
  · dsimp only
    rw [kept_settled (enableString_kept ..), twice]
    exact one _ rfl
  · dsimp only
    rw [kept_settled (disableString_kept ..), twice]
    exact one _ rfl
  · exact one _ (by simp [WallString.kept, hwas])

theorem putString_disabled {b : Base} {n : Nat} {on : Bool} {rate : WallRate} {w : Work} (hwas : (w.string n).enabled = true)
    (hon : on = false) : w.putString b n on rate = (w.setString n fun u => { u with rate := rate }).disableString b n := by
  subst hon
  unfold Work.putString
  dsimp only
  rw [hwas]

theorem putString_enabled {b : Base} {n : Nat} {on : Bool} {rate : WallRate} {w : Work} (hwas : (w.string n).enabled = false)
    (hon : on = true) : w.putString b n on rate = (w.setString n fun u => { u with rate := rate }).enableString b n := by
  subst hon
  unfold Work.putString
  dsimp only
  rw [hwas]

/-- R83, R104: what a disable leaves of the string's line and of its outstanding lists. -/
theorem putString_discards {b : Base} {n : Nat} {on : Bool} {rate : WallRate} {w : Work} (hn : n < w.wsc.length)
    (hwas : (w.string n).enabled = true) (hon : on = false) :
    let u := w.putString b n on rate
    ((u.string n).enabled = false ∧ (u.string n).queue = [] ∧ (u.string n).activity = (w.string n).activity ∧
        (u.string n).inFlight = (w.string n).inFlight) ∧
      ((∀ f ∈ (w.string n).queue, 1 ≤ f.address) → ∀ a, 1 ≤ a → u.cell n a = { w.cell n a with
        outstanding := (w.cell n a).outstanding.take
          ((w.cell n a).outstanding.length - (w.string n).queue.countP fun f => f.address == a) }) := by
  intro u
  have hu : u = (w.setString n fun t => { t with rate := rate }).disableString b n := putString_disabled hwas hon
  have hlen : n < (w.setString n fun t => { t with rate := rate }).wsc.length := by
    rw [Work.setString_wsc, List.length_modify]
    exact hn
  have hrated : (w.setString n fun t => { t with rate := rate }).string n = { w.string n with rate := rate } :=
    Work.string_setString_self hn
  obtain ⟨hwsc, hbcp⟩ := disableString_eq b n (w.setString n fun t => { t with rate := rate })
  have hstr : u.string n = { w.string n with rate := rate, enabled := false, queue := [] } := by
    rw [hu, Work.string, hwsc, ← Work.string, Work.string_setString_self hlen, hrated]
    rfl
  rw [hrated] at hbcp
  refine ⟨by rw [hstr]; exact ⟨rfl, rfl, rfl, rfl⟩, fun haddr a ha => ?_⟩
  rw [hu, Work.cell, hbcp, ← Work.cell, dropDiscarded_cell n haddr ha]
  rfl

/-- Settles O25: the stored record, the discarded queue, and the rows of boards brought ONLINE. -/
theorem configureStringStoresTheRecord : Obligations.ConfigureStringStoresTheRecord := by
  intro h n r s hr hm hok hn on rate was
  obtain ⟨t, h1, h2, hb, hs, hp, hw⟩ := request_answers (q := .configureString n r) hr hm (by
    simp only [Request.owner, ownString, guarded_eq hok]
    rfl)
  have hsettled := answers_settled hw
  have harrive := arrives_settled h (.configureString n r) s
  rw [State.mapWork_base, State.arrives_base] at hb
  rw [State.mapWork_scd, State.arrives_scd] at hs
  rw [State.mapWork_pending, State.arrives_pending] at hp
  rw [State.mapWork_work, State.arrives_base] at hw hsettled
  have hwas : ((s.arrives h (.configureString n r)).work.string n).enabled = was := settled_enabled harrive n
  rw [putString_settled, hwas, harrive] at hsettled
  have hbcp : t.work.bcp = ((s.arrives h (.configureString n r)).work.putString s.base n on rate).bcp := by rw [hw]
  have hwsc : t.work.wsc = ((s.arrives h (.configureString n r)).work.putString s.base n on rate).wsc := by rw [hw]
  refine ⟨t, h1, h2, hb, hs, hp, hsettled, fun hyes hoff hdeg => ?_, fun hno hyes m bd row hm hbd hen hstr hrow1 hrow2 => ?_⟩
  · have hfresh := arrives_fresh h (.configureString n r) s hr.1 hdeg
    have hlen : n < (s.arrives h (.configureString n r)).work.wsc.length := by rw [hfresh]; exact hn
    obtain ⟨⟨hen, hq, hact, hfly⟩, hcells⟩ := putString_discards (b := s.base) (rate := rate) hlen (hwas.trans hyes) hoff
    have hstr : t.work.string n = ((s.arrives h (.configureString n r)).work.putString s.base n on rate).string n := by
      rw [Work.string, hwsc, Work.string]
    have hold : (s.arrives h (.configureString n r)).work.string n = s.work.string n := by
      rw [hfresh]
      rfl
    rw [hold] at hact hfly hcells
    refine ⟨by rw [hstr]; exact hq, by rw [hstr]; exact hact, by rw [hstr]; exact hfly, fun haddr a ha => ?_, fun m bd hbd hrec => ?_⟩
    · have hcell : (s.arrives h (.configureString n r)).work.cell n a = s.work.cell n a := by
        rw [hfresh]
        rfl
      have := hcells haddr a ha
      rw [hcell] at this
      rw [Work.cell, hbcp, ← Work.cell]
      exact this
    · rw [Work.online, hbd]
      dsimp only
      rw [hrec, hstr, hen, Bool.and_false]
  · obtain ⟨bd', hbd', hrec⟩ := Option.map_eq_some_iff.mp ((settled_record harrive m).trans (by rw [hbd]; rfl))
    rw [Work.cell, hbcp, ← Work.cell, putString_enabled (hwas.trans hno) hyes]
    have := enableString_onWall s.base (n := n) (row := row) (bd := bd')
      (w := ((s.arrives h (.configureString n r)).work.setString n fun u => { u with rate := rate })) hm hbd' (by rw [hrec]; exact hen)
      (by rw [hrec]; exact hstr) (by rw [hrec]; exact mem_rowList.mpr ⟨hrow1, hrow2⟩)
    rw [hrec] at this
    exact this

end Sys2Proof.Machine
end

section
/-!
PROOF. The cue link: what a selection that cannot be made leaves, and the ends of its intervals (R139, R144 to R147, R149, R150).
-/

namespace Sys2Proof.Machine

/-! ### Selections that take nothing (R139) -/

theorem Cuc.maySelect_iff (c : Cuc) : c.maySelect = true ↔
    c.link = .idle ∧ c.disablePending = false ∧ c.paOverride = false ∧ c.resume = 0 := by
  simp [Cuc.maySelect, and_assoc]

theorem select_of_still {b : Base} {w : Work} (h : w.cuc.maySelect = false) : w.select b = w := by
  unfold Work.select
  rw [h]
  rfl

/-- R139: a selection is made only while the link is IDLE. -/
theorem select_of_link {b : Base} {w : Work} (h : w.cuc.link ≠ .idle) : w.select b = w :=
  select_of_still (Bool.eq_false_iff.mpr fun k => h ((Cuc.maySelect_iff _).mp k).1)

theorem select_of_empty {b : Base} {w : Work} (h : ∀ q ∈ w.cuc.queue, q.state ≠ .queued) : w.select b = w := by
  have hnone : w.cuc.queue.filter (selectable b) = [] :=
    List.filter_eq_nil_iff.mpr fun q hq k => h q hq (by simp only [selectable, Bool.and_eq_true, beq_iff_eq] at k; exact k.1)
  unfold Work.select
  rw [hnone]
  exact ite_self _

/-- A selection admits no entry. -/
theorem select_seqs (b : Base) (w : Work) : ∀ q ∈ (w.select b).cuc.queue, ∃ p ∈ w.cuc.queue, p.seq = q.seq := by
  have updated : ∀ (seq : BitVec 32) (f : CueEntry → CueEntry) (c : Cuc), (∀ e, (f e).seq = e.seq) →
      ∀ q ∈ (c.updateEntry seq f).queue, ∃ p ∈ c.queue, p.seq = q.seq := by
    intro seq f c hf q hq
    obtain ⟨p, hp, rfl⟩ := List.mem_map.mp hq
    refine ⟨p, hp, ?_⟩
    split
    · exact (hf p).symm
    · rfl
  have freed : ∀ (e : CueEntry) (r : DropReason) (w : Work), ∀ q ∈ (w.dropEntry e r).cuc.queue, ∃ p ∈ w.cuc.queue, p.seq = q.seq :=
    fun e r w q hq => ⟨q, (List.mem_filter.mp hq).1, rfl⟩
  have take : ∀ e (w : Work), ∀ q ∈ (w.takeEntry b e).cuc.queue, ∃ p ∈ w.cuc.queue, p.seq = q.seq := by
    intro e w
    unfold Work.takeEntry
    split
    · exact freed e .degraded w
    · split
      · exact updated e.seq (fun e => { e with state := .held }) w.cuc fun _ => rfl
      · split
        · exact freed e .unresolved w
        · exact updated e.seq _ w.cuc fun _ => rfl
  have many : ∀ es (w : Work), ∀ q ∈ (Work.selectFrom b es w).cuc.queue, ∃ p ∈ w.cuc.queue, p.seq = q.seq := by
    intro es
    induction es with
    | nil => exact fun w q hq => ⟨q, hq, rfl⟩
    | cons e es ih =>
      intro w q hq
      unfold Work.selectFrom at hq
      split at hq
      · obtain ⟨p, hp, hpq⟩ := ih _ q hq
        obtain ⟨o, ho, hop⟩ := take e w p hp
        exact ⟨o, ho, hop.trans hpq⟩
      · exact ⟨q, hq, rfl⟩
  unfold Work.select
  split
  · exact many _ w
  · exact fun q hq => ⟨q, hq, rfl⟩

theorem select_absent {b : Base} {w : Work} {seq : BitVec 32} (h : ∀ q ∈ w.cuc.queue, q.seq ≠ seq) :
    ∀ q ∈ (w.select b).cuc.queue, q.seq ≠ seq := fun q hq => by
  obtain ⟨p, hp, hpq⟩ := select_seqs b w q hq
  exact hpq ▸ h p hp

/-! ### The entry on the link freed (R144 to R146, R150) -/

theorem Work.endEntry_eq {r : CueEntry → ReportBody} {next : LinkState} {w : Work} {e : CueEntry} (h : w.cuc.onLink = some e) :
    w.endEntry r next = { w with
      cuc := { w.cuc with link := next, frame := none, queue := w.cuc.queue.filter fun q => q.seq != e.seq }
      hlu := w.hlu.raise (r e) } := by
  unfold Work.endEntry
  rw [h]
  rfl

theorem freed_absent (l : List CueEntry) (seq : BitVec 32) : ∀ q ∈ l.filter (fun q => q.seq != seq), q.seq ≠ seq := fun q hq => by
  simpa using (List.mem_filter.mp hq).2

/-- R182: the report of an entry freed stands in the queue, whatever a selection raises behind it. -/
theorem select_raised {b : Base} {v w : Work} {r : ReportBody} (hv : v.hlu = w.hlu.raise r)
    (hm : w.hlu.mask.contains r.cls = true) (hroom : w.hlu.reports.length < 24) :
    ∃ rep ∈ (v.select b).hlu.reports, rep.body = r :=
  grows_stands (w := w) (grows_trans (grows_of_hlu hv) (Work.select_grows (P := fun _ => True) trivial b v)) hm hroom

theorem Work.cueSent_awaits {b : Base} {w : Work} {due : Nat} {e : CueEntry} (hlink : w.cuc.link = .sending due)
    (he : w.cuc.onLink = some e) (hobs : e.unobserved = false) : w.cueSent b = { w with cuc := { w.cuc with
      link := .awaitAccept (b.elapsed + 500)
      queue := w.cuc.queue.map fun q => if q.state = .sending then { q with state := .awaitAccept } else q } } := by
  unfold Work.cueSent
  rw [hlink]
  dsimp only
  rw [if_neg (by rw [he]; simp [hobs]), select_of_link (fun h => by cases h)]
  simp only [Work.mapCuc, Cuc.mapQueue, beq_iff_eq]

theorem Work.cueSent_ends {b : Base} {w : Work} {due : Nat} {e : CueEntry} (hlink : w.cuc.link = .sending due)
    (he : w.cuc.onLink = some e) (hobs : e.unobserved = true) : w.cueSent b = ({ w with
      cuc := { w.cuc with
        link := if w.cuc.disablePending then .disabled else w.cuc.restLink
        frame := none, disablePending := false, queue := w.cuc.queue.filter fun q => q.seq != e.seq }
      hlu := w.hlu.raise (doneReport e .unobserved) } : Work).select b := by
  unfold Work.cueSent
  rw [hlink]
  dsimp only
  rw [if_pos (by rw [he]; simp [hobs]), Work.endEntry_eq he]
  rfl

/-- Settles O36: the frame sent awaits acceptance, or ends unobserved. -/
theorem cueFrameSentAwaitsAcceptance : Obligations.CueFrameSentAwaitsAcceptance := by
  intro due e s hlink he
  refine ⟨fun hobs => ?_, fun hobs => ?_⟩
  · refine ⟨(s.mapWork (Work.cueSent s.base)).finish, rfl, rfl, rfl, rfl, ?_⟩
    rw [State.finish_work, State.mapWork_work, Work.cueSent_awaits hlink he hobs]
  · refine ⟨(s.mapWork (Work.cueSent s.base)).finish, rfl, rfl, rfl, rfl, ?_⟩
    rw [State.finish_work, State.mapWork_work, Work.cueSent_ends hlink he hobs]
    generalize hv : ({ s.work with cuc := _, hlu := _ } : Work) = v
    have hcuc : (v.select s.base).cuc.kept = v.cuc.kept := settled_cuc (kept_settled (Work.select_kept ..))
    refine ⟨?_, ?_, fun hd => ?_, fun hd hbusy => ?_, fun hm hroom => ?_⟩
    · exact (congrArg Cuc.disablePending hcuc :).trans (by rw [← hv]; rfl)
    · exact select_absent (by rw [← hv]; exact freed_absent _ _)
    · have hlink' : v.cuc.link = .disabled := by rw [← hv]; exact if_pos hd
      rw [select_of_link (by rw [hlink']; nofun)]
      exact hlink'
    · have hlink' : v.cuc.link = .blocked := by
        rw [← hv]
        show (if s.work.cuc.disablePending then LinkState.disabled else s.work.cuc.restLink) = _
        rw [hd, Cuc.restLink, hbusy]
        rfl
      rw [select_of_link (by rw [hlink']; nofun)]
      exact hlink'
    · rw [pump_reports]
      exact select_raised (w := s.work) (by rw [← hv]; rfl) hm hroom

/-! ### CONFIGURE CUE LINK (R132, R149, R150) -/

theorem CueConfig.put_eq (r : CueLinkReq) (c : CueConfig) : c.put r =
    { enabled := argOr c.enabled r.enabled, rate := argOr c.rate r.rate, width := argOr c.width r.width
      numberBase := r.numberBase.getD c.numberBase, hourBase := r.hourBase.getD c.hourBase
      minuteBase := r.minuteBase.getD c.minuteBase, suffixA := r.suffixA.getD c.suffixA
      suffixB := r.suffixB.getD c.suffixB, truncation := r.truncation.getD c.truncation
      zones := (r.zones.getD []).foldl (fun m e => m.set (e.1 - 1) (asSet e.2)) c.zones
      overrideTemplate := r.overrideTemplate.getD c.overrideTemplate
      resumeDelay := if 30 < r.resumeDelay.getD c.resumeDelay then 30 else r.resumeDelay.getD c.resumeDelay } := by
  have hmin : ∀ d : Nat, min 30 d = if 30 < d then 30 else d := fun d => by split <;> omega
  unfold CueConfig.put orHeld
  rw [hmin]
  rfl

/-- R150: what a disable leaves of the Cue Controller. -/
theorem disableLink_effect (w : Work) : match w.cuc.link with
    | .sending due => w.disableLink.cuc = { w.cuc with
        disablePending := true
        queue := w.cuc.queue.map fun q => if q.state = .sending then { q with unobserved := true } else q } ∧
        w.cuc.link = .sending due
    | .awaitAccept _ | .playing _ => w.disableLink = w.endEntry (fun e => doneReport e .unobserved) .disabled
    | .disabled | .idle | .blocked => w.disableLink.cuc = { w.cuc with link := .disabled } := by
  have marked : w.cuc.markUnobserved = { w.cuc with
      queue := w.cuc.queue.map fun q => if q.state = .sending then { q with unobserved := true } else q } := by
    simp only [Cuc.markUnobserved, Cuc.mapQueue, beq_iff_eq]
  cases hl : w.cuc.link with
  | disabled =>
    have hsame : w.disableLink = w := by
      unfold Work.disableLink
      rw [hl]
    show w.disableLink.cuc = _
    rw [hsame, ← hl]
  | idle | blocked =>
    show w.disableLink.cuc = _
    unfold Work.disableLink
    rw [hl]
    rfl
  | sending due =>
    refine ⟨?_, rfl⟩
    unfold Work.disableLink
    rw [hl]
    exact congrArg (fun c : Cuc => { c with disablePending := true }) marked
  | awaitAccept due | playing due =>
    show w.disableLink = _
    unfold Work.disableLink
    rw [hl]

theorem disableLink_settled (w : Work) : ∃ d, w.disableLink.settled =
    { w.settled with cuc := { w.settled.cuc with disablePending := d } } := by
  have ended : ∀ r next, (w.endEntry r next).settled = { w.settled with cuc := { w.settled.cuc with
      disablePending := w.cuc.disablePending } } := fun r next => kept_settled (Work.endEntry_kept r next w)
  unfold Work.disableLink
  split
  · exact ⟨w.cuc.disablePending, rfl⟩
  · exact ⟨w.cuc.disablePending, rfl⟩
  · exact ⟨w.cuc.disablePending, rfl⟩
  · exact ⟨true, rfl⟩
  · exact ⟨_, ended ..⟩
  · exact ⟨_, ended ..⟩

/-- R132, R149, R150: what a section leaves settled. -/
theorem putCueLink_settled (b : Base) (r : CueLinkReq) (w : Work) : ∃ d, (r.enabled ≠ .is false → d = w.cuc.disablePending) ∧
    (w.putCueLink b r).settled = { w.settled with cuc := { w.settled.cuc with
      cfg := w.cuc.cfg.put r
      opRate := if r.enabled = .is true ∧ w.cuc.link = .disabled then (w.cuc.cfg.put r).rate else w.cuc.opRate
      opWidth := if r.enabled = .is true ∧ w.cuc.link = .disabled then (w.cuc.cfg.put r).width else w.cuc.opWidth
      disablePending := d } } := by
  unfold Work.putCueLink
  dsimp only
  by_cases hon : r.enabled = .is true ∧ w.cuc.link = .disabled
  · refine ⟨w.cuc.disablePending, fun _ => rfl, ?_⟩
    rw [if_pos hon, if_pos hon, if_pos hon, Work.enableLink, kept_settled (Work.select_kept ..)]
    rfl
  · rw [if_neg hon, if_neg hon, if_neg hon]
    by_cases hoff : r.enabled = .is false
    · obtain ⟨d, hd⟩ := disableLink_settled (w.mapCuc fun c => { c with cfg := c.cfg.put r })
      rw [if_pos hoff]
      exact ⟨d, fun h => absurd hoff h, hd⟩
    · rw [if_neg hoff]
      exact ⟨w.cuc.disablePending, fun _ => rfl, rfl⟩

theorem putCueLink_disable (b : Base) {r : CueLinkReq} (h : r.enabled = .is false) (w : Work) :
    w.putCueLink b r = (w.mapCuc fun c => { c with cfg := c.cfg.put r }).disableLink := by
  unfold Work.putCueLink
  dsimp only
  rw [if_neg (fun k => by rw [h] at k; exact nomatch k.1), if_pos h]

theorem putCueLink_enable (b : Base) {r : CueLinkReq} {w : Work} (h : r.enabled = .is true ∧ w.cuc.link = .disabled) :
    w.putCueLink b r = (w.mapCuc fun c => { c with cfg := c.cfg.put r }).enableLink b := by
  unfold Work.putCueLink
  dsimp only
  rw [if_pos h]

/-- R150: what a disable leaves, by the state of the link. -/
theorem putCueLink_disables (b : Base) {r : CueLinkReq} (h : r.enabled = .is false) (w : Work) :
    let u := w.putCueLink b r
    match w.cuc.link with
    | .sending due => u.cuc.link = .sending due ∧ u.cuc.disablePending = true ∧ u.cuc.frame = w.cuc.frame ∧
        u.cuc.queue = w.cuc.queue.map fun q => if q.state = .sending then { q with unobserved := true } else q
    | .awaitAccept _ | .playing _ => u.cuc.link = .disabled ∧ u.cuc.disablePending = w.cuc.disablePending ∧ u.cuc.frame = none ∧
        ∀ e, w.cuc.onLink = some e → (u.cuc.queue = w.cuc.queue.filter fun q => q.seq != e.seq) ∧
          u.hlu = w.hlu.raise (doneReport e .unobserved)
    | .disabled | .idle | .blocked => u.cuc.link = .disabled ∧ u.cuc.disablePending = w.cuc.disablePending ∧
        u.cuc.queue = w.cuc.queue := by
  intro u
  have hu : u = (w.mapCuc fun c => { c with cfg := c.cfg.put r }).disableLink := putCueLink_disable b h w
  have effect := disableLink_effect (w.mapCuc fun c => { c with cfg := c.cfg.put r })
  rw [← hu] at effect
  have ended : u = (w.mapCuc fun c => { c with cfg := c.cfg.put r }).endEntry (fun e => doneReport e .unobserved) .disabled →
      u.cuc.link = .disabled ∧ u.cuc.disablePending = w.cuc.disablePending ∧ u.cuc.frame = none ∧
        ∀ e, w.cuc.onLink = some e → (u.cuc.queue = w.cuc.queue.filter fun q => q.seq != e.seq) ∧
          u.hlu = w.hlu.raise (doneReport e .unobserved) := by
    intro hend
    cases ho : w.cuc.onLink with
    | none =>
      have heq : u = (w.mapCuc fun c => { c with cfg := c.cfg.put r }).mapCuc fun c => { c with link := .disabled, frame := none } := by
        rw [hend, Work.endEntry, show (w.mapCuc fun c => { c with cfg := c.cfg.put r }).cuc.onLink = none from ho]
      rw [heq]
      exact ⟨rfl, rfl, rfl, fun _ k => (by cases k)⟩
    | some e =>
      rw [hend, Work.endEntry_eq (w := w.mapCuc fun c => { c with cfg := c.cfg.put r }) (e := e) ho]
      refine ⟨rfl, rfl, rfl, fun e' k => ?_⟩
      cases k
      exact ⟨rfl, rfl⟩
  rw [show (w.mapCuc fun c => { c with cfg := c.cfg.put r }).cuc.link = w.cuc.link from rfl] at effect
  cases hl : w.cuc.link with
  | disabled | idle | blocked =>
    rw [hl] at effect
    have heq : u.cuc = _ := effect
    show u.cuc.link = .disabled ∧ u.cuc.disablePending = w.cuc.disablePending ∧ u.cuc.queue = w.cuc.queue
    rw [heq]
    exact ⟨rfl, rfl, rfl⟩
  | sending due =>
    rw [hl] at effect
    obtain ⟨heq, hlink⟩ := effect
    show u.cuc.link = .sending due ∧ u.cuc.disablePending = true ∧ u.cuc.frame = w.cuc.frame ∧ u.cuc.queue = _
    rw [heq]
    exact ⟨hl, rfl, rfl, rfl⟩
  | awaitAccept due | playing due =>
    rw [hl] at effect
    exact ended effect

theorem putCueLink_rests (b : Base) {r : CueLinkReq} {w : Work} (h : r.enabled = .is true ∧ w.cuc.link = .disabled)
    (hq : ∀ e ∈ w.cuc.queue, e.state ≠ .queued) : (w.putCueLink b r).cuc.link = if w.cuc.busy then .blocked else .idle := by
  rw [putCueLink_enable b h, Work.enableLink]
  exact congrArg (fun v : Work => v.cuc.link) (select_of_empty (w := (w.mapCuc fun c => { c with cfg := c.cfg.put r }).mapCuc
    fun c => { c with opRate := c.cfg.rate, opWidth := c.cfg.width, link := c.restLink }) hq)

/-- Settles O35: the stored fields, and the enable or the disable of the link. -/
theorem configureCueLinkStoresTheFields : Obligations.ConfigureCueLinkStoresTheFields := by
  intro h r s hr hm hok hdeg c delay cfg enables
  have hok' : cueLinkRefusal (s.arrives h (.configureCueLink r)) r = none :=
    (refusalOf_arrives h (.configureCueLink r) (.configureCueLink r) s).trans hok
  have hfresh := arrives_fresh h (.configureCueLink r) s hr.1 hdeg
  have hcuc : (s.arrives h (.configureCueLink r)).work.cuc = c := by rw [hfresh]
  have hcfg : c.cfg.put r = cfg := CueConfig.put_eq r c.cfg
  have hreply : Reply.clampedOr (clampNote .resumeDelay r.resumeDelay cfg.resumeDelay) .nothing = (match r.resumeDelay with
      | some v => if 30 < v then ⟨.clamped, [(.resumeDelay, 30)], .nothing⟩ else Reply.ok
      | none => Reply.ok) := by
    cases hv : r.resumeDelay with
    | none => simp [clampNote, Reply.clampedOr, Reply.ok]
    | some v =>
      have hval : delay = v := by simp [delay, hv]
      by_cases hc : 30 < v
      · have : ¬ v = 30 := by omega
        simp [clampNote, Reply.clampedOr, cfg, hval, hc, this]
      · simp [clampNote, Reply.clampedOr, Reply.ok, cfg, hval, hc]
  obtain ⟨t, h1, h2, hb, hs, hp, hw⟩ := request_answers (q := .configureCueLink r) hr hm (by
    simp only [Request.owner, ownCueLink, guarded_eq hok', hcuc, hcfg, hreply]
    rfl)
  have hsettled := answers_settled hw
  rw [State.mapWork_base, State.arrives_base] at hb
  rw [State.mapWork_scd, State.arrives_scd] at hs
  rw [State.mapWork_pending, State.arrives_pending] at hp
  rw [State.mapWork_work, State.arrives_base] at hw hsettled
  obtain ⟨d, hkeep, hput⟩ := putCueLink_settled s.base r (s.arrives h (.configureCueLink r)).work
  rw [hput, hcuc, hcfg, arrives_settled] at hsettled
  have htcuc : t.work.cuc = ((s.arrives h (.configureCueLink r)).work.putCueLink s.base r).cuc := by rw [hw]
  have hd : t.work.cuc.disablePending = d := (congrArg Cuc.disablePending (congrArg Work.cuc hsettled :) :)
  have hhlu : ∀ r', ((s.arrives h (.configureCueLink r)).work.putCueLink s.base r).hlu =
      (s.arrives h (.configureCueLink r)).work.hlu.raise r' → t.raised r' := fun r' hr' hm hl =>
    grows_raised (w := (s.arrives h (.configureCueLink r)).work) (P := fun _ => True)
      (grows_of_rep (by rw [hw, Work.raise_hlu, ← hr']) (by rw [hw, Work.raise_hlu, ← hr']))
      (by rw [hw, hr'] at hm; rw [← Work.raise_mask r']; exact hm) hl
  refine ⟨t, h1, hb, hs, hp, h2, by rw [hd]; exact hsettled, fun hoff => ?_, fun hno => ?_, fun hen hq => ?_⟩
  · have effect := putCueLink_disables s.base hoff (s.arrives h (.configureCueLink r)).work
    rw [hcuc] at effect
    rw [htcuc]
    cases hl : c.link with
    | disabled | idle | blocked | sending =>
      rw [hl] at effect
      exact effect
    | awaitAccept | playing =>
      rw [hl] at effect
      obtain ⟨hlink, hpend, hframe, hon⟩ := effect
      exact ⟨hlink, hpend, hframe, fun e he => ⟨(hon e he).1, hhlu _ (hon e he).2⟩⟩
  · rw [hd, hkeep hno, hcuc]
  · rw [htcuc, putCueLink_rests s.base (by rw [hcuc]; exact hen) (by rw [hcuc]; exact hq), hcuc]

end Sys2Proof.Machine
end

section
/-!
PROOF. The ends of the cue link's intervals, and the edges of the PLAY_BUSY and PA_OVERRIDE lines (R145 to R147).
-/

namespace Sys2Proof.Machine

/-! ### The ends of the intervals -/

theorem Work.acceptEnd_eq {b : Base} {w : Work} {due : Nat} {e : CueEntry} (hlink : w.cuc.link = .awaitAccept due)
    (he : w.cuc.onLink = some e) : w.acceptEnd b = ({ w with
      cuc := { w.cuc with link := w.cuc.restLink, frame := none, queue := w.cuc.queue.filter fun q => q.seq != e.seq }
      hlu := w.hlu.raise (dropReport e .notAccepted) } : Work).select b := by
  unfold Work.acceptEnd
  rw [hlink]
  dsimp only
  rw [Work.endEntry_eq he]

theorem Work.playEnd_eq {b : Base} {w : Work} {due : Nat} {e : CueEntry} (hlink : w.cuc.link = .playing due)
    (he : w.cuc.onLink = some e) : w.playEnd b = { w with
      cuc := { w.cuc with link := .blocked, frame := none, queue := w.cuc.queue.filter fun q => q.seq != e.seq }
      hlu := w.hlu.raise (.cueStuck e.number e.key e.seq) } := by
  unfold Work.playEnd
  rw [hlink]
  dsimp only
  rw [Work.endEntry_eq he]
  exact select_of_link (fun h => by cases h)

theorem Work.acceptEnd_kept (b : Base) (w : Work) : (w.acceptEnd b).kept = w.kept := by
  unfold Work.acceptEnd
  split
  · exact (Work.select_kept ..).trans (Work.endEntry_kept ..)
  · rfl

theorem filter_notQueued {l : List CueEntry} {p : CueEntry → Bool} (h : ∀ q ∈ l, q.state ≠ .queued) :
    ∀ q ∈ l.filter p, q.state ≠ .queued := fun q hq => h q (List.mem_filter.mp hq).1

theorem acceptWindowEnds (due : Nat) (e : CueEntry) (s : State) (hlink : s.work.cuc.link = .awaitAccept due)
    (he : s.work.cuc.onLink = some e) :
    ∃ t, exec .acceptWindowEnd s = .next t ∧ t.base = s.base ∧ t.scd = s.scd ∧ t.pending = s.pending ∧
      t.work.settled = s.work.settled ∧ (∀ q ∈ t.work.cuc.queue, q.seq ≠ e.seq) ∧
      (s.work.cuc.busy = true → t.work.cuc.link = .blocked) ∧
      (s.work.cuc.busy = false → (∀ q ∈ s.work.cuc.queue, q.state ≠ .queued) → t.work.cuc.link = .idle) ∧
      (s.work.hlu.mask.contains .cue = true → s.work.hlu.reports.length < 24 →
        ∃ rep ∈ t.work.hlu.reports, rep.body = .cueDropped e.number e.key e.source .notAccepted (some e.seq)) := by
  refine ⟨(s.mapWork (Work.acceptEnd s.base)).finish, rfl, rfl, rfl, rfl, ?_, ?_⟩
  · rw [finish_settled, State.mapWork_work, kept_settled (Work.acceptEnd_kept ..)]
  · rw [State.finish_work, State.mapWork_work, Work.acceptEnd_eq hlink he]
    generalize hv : ({ s.work with cuc := _, hlu := _ } : Work) = v
    refine ⟨select_absent (by rw [← hv]; exact freed_absent _ _), fun hbusy => ?_, fun hbusy hnone => ?_, fun hm hroom => ?_⟩
    · have hlink' : v.cuc.link = .blocked := by
        rw [← hv]
        exact if_pos hbusy
      rw [select_of_link (by rw [hlink']; nofun)]
      exact hlink'
    · rw [select_of_empty (by rw [← hv]; exact filter_notQueued hnone), ← hv]
      exact if_neg (by rw [hbusy]; decide)
    · rw [pump_reports]
      exact select_raised (w := s.work) (by rw [← hv]; rfl) hm hroom

theorem Work.resumeDelayEnds_eq {b : Base} {w : Work} (h : 0 < w.cuc.resume) :
    w.resumeDelayEnds b = ({ w with cuc := { w.cuc with resume := 0 } } : Work).select b := by
  unfold Work.resumeDelayEnds
  rw [if_neg (Nat.ne_of_gt h)]
  rfl

/-! ### Edges (R171) -/

/-- R171: an edge, marked and reported, is delivered by the line. -/
theorem State.edge_delivered {s : State} {n : Nat} {v : Level} {l : FieldLine} (hl : s.base.fiu.lines[n]? = some l)
    (hne : l.filtered ≠ v) : ∃ u : State, s.edge n v = u.deliverEdge n ∧
      u.base.fiu.lines[n]? = some { l with raw := v, filtered := v, disagree := 0, mark := true } ∧
      (u.base.elapsed = s.base.elapsed ∧ u.base.tbs = s.base.tbs ∧ u.scd = s.scd ∧ u.pending = s.pending) ∧
      (u.work = s.work ∨ ∃ r, u.work = s.work.raise r) := by
  have hline : s.line n = l := State.line_eq hl
  have hlt := (List.getElem?_eq_some_iff.mp hl).1
  have hraw : (s.setLine n fun l => { l with raw := v }).base.fiu.lines[n]? = some { l with raw := v } := by
    rw [State.setLine_eq hl]
    exact List.getElem?_set_self hlt
  have hmarked : ((s.setLine n fun l => { l with raw := v }).setLine n fun l =>
      { l with filtered := v, disagree := 0, mark := true }).base.fiu.lines[n]? =
        some { l with raw := v, filtered := v, disagree := 0, mark := true } := by
    rw [State.setLine_eq hraw]
    refine List.getElem?_set_self ?_
    rw [State.setLine_lines, List.length_modify]
    exact hlt
  rw [State.edge, hline, if_neg hne, State.takeEdge_eq]
  dsimp only
  have hrest : ((s.setLine n fun l => { l with raw := v }).setLine n fun l =>
      { l with filtered := v, disagree := 0, mark := true }).base.elapsed = s.base.elapsed ∧
      ((s.setLine n fun l => { l with raw := v }).setLine n fun l =>
      { l with filtered := v, disagree := 0, mark := true }).base.tbs = s.base.tbs ∧
      ((s.setLine n fun l => { l with raw := v }).setLine n fun l =>
      { l with filtered := v, disagree := 0, mark := true }).scd = s.scd ∧
      ((s.setLine n fun l => { l with raw := v }).setLine n fun l =>
      { l with filtered := v, disagree := 0, mark := true }).pending = s.pending := ⟨rfl, rfl, rfl, rfl⟩
  have hwork : ((s.setLine n fun l => { l with raw := v }).setLine n fun l =>
      { l with filtered := v, disagree := 0, mark := true }).work = s.work := rfl
  generalize ((s.setLine n fun l => { l with raw := v }).setLine n fun l => { l with filtered := v, disagree := 0, mark := true }) = x
    at hmarked hrest hwork
  split
  · refine ⟨_, rfl, hmarked, hrest, .inr ⟨.inputEdge n (x.line n).role (x.line n).isActive x.base.tbs.edgeTime, ?_⟩⟩
    rw [State.mapWork_work, hwork]
  · exact ⟨x, rfl, hmarked, hrest, .inl hwork⟩

/-- R146: the outcome of a cue that has played, as the claims read it. -/
theorem playOutcome_eq (w : Work) (e : CueEntry) : w.playOutcome e = (match e.key with
    | none => DoneOutcome.played
    | some k =>
      match w.svt.services.find? fun x => x.key == k && some x.seq == e.serviceSeq with
      | some x => if e.resolved = some x.current then .played else .superseded
      | none => .superseded) := by
  unfold Work.playOutcome Work.entryService
  cases e.key with
  | none => rfl
  | some k =>
    dsimp only
    cases w.svt.services.find? fun x => x.key == k && some x.seq == e.serviceSeq with
    | none => rfl
    | some x =>
      by_cases h : some x.current = e.resolved
      · simp [h]
      · simp [h, Ne.symm h]

theorem endEntry_leaves (r : CueEntry → ReportBody) (next : LinkState) (w : Work) :
    (w.endEntry r next).cuc.link = next ∧ ∀ q ∈ (w.endEntry r next).cuc.queue, q ∈ w.cuc.queue := by
  unfold Work.endEntry
  split
  · exact ⟨rfl, fun q hq => (List.mem_filter.mp hq).1⟩
  · exact ⟨rfl, fun q hq => hq⟩

/-- R145 to R147: the link after the PLAY_BUSY level, already stored, has changed, and before a selection. -/
def Work.switched (b : Base) (level : Bool) (w : Work) : Work :=
  match w.cuc.link, level with
  | .awaitAccept _, true => { w with cuc := { w.cuc with
      link := .playing (b.elapsed + 120000)
      queue := w.cuc.queue.map fun q => if q.state = .awaitAccept then { q with state := .playing } else q } }
  | .playing _, false => w.endEntry (fun e => doneReport e (w.playOutcome e)) .idle
  | .idle, true => { w with cuc := { w.cuc with link := .blocked } }
  | .blocked, false => { w with cuc := { w.cuc with link := .idle } }
  | _, _ => w

theorem busyChange_eq {b : Base} {level : Bool} {w : Work} (hne : w.cuc.busy ≠ level) :
    w.busyChange b level = (({ w with cuc := { w.cuc with busy := level } } : Work).switched b level).select b := by
  have mapped : (fun q : CueEntry => if (q.state == CueState.awaitAccept) = true then { q with state := .playing } else q) =
      fun q => if q.state = .awaitAccept then { q with state := .playing } else q := by
    funext q
    simp only [beq_iff_eq]
  have hw : (w.mapCuc fun c => { c with busy := level }) = { w with cuc := { w.cuc with busy := level } } := rfl
  unfold Work.busyChange
  rw [if_neg hne]
  dsimp only
  rw [hw]
  generalize ({ w with cuc := { w.cuc with busy := level } } : Work) = v
  refine congrArg (Work.select b) ?_
  unfold Work.switched
  rw [← mapped]
  cases v.cuc.link <;> cases level <;> rfl

/-- R145 to R147: what a change of the PLAY_BUSY level does to the link. -/
theorem busyChange_effect (b : Base) (level : Bool) (w : Work) (hne : w.cuc.busy ≠ level) :
    let c := w.cuc
    let nothingQueued := ∀ q ∈ c.queue, q.state ≠ .queued
    let u := w.busyChange b level
    match c.link with
    | .awaitAccept _ =>
      if level = true then
        u.cuc = { c with
          busy := true, link := .playing (b.elapsed + 120000)
          queue := c.queue.map fun q => if q.state = .awaitAccept then { q with state := .playing } else q }
      else u.cuc = { c with busy := false }
    | .playing _ =>
      if level = true then u.cuc = { c with busy := true }
      else
        (nothingQueued → u.cuc.link = .idle) ∧
        ∀ e, c.onLink = some e → (∀ q ∈ u.cuc.queue, q.seq ≠ e.seq) ∧
          (w.raise (doneReport e (w.playOutcome e))).Grows (fun _ => True) u
    | .idle =>
      if level = true then u.cuc = { c with busy := true, link := .blocked }
      else nothingQueued → u.cuc = { c with busy := false }
    | .blocked =>
      if level = true then u.cuc = { c with busy := true }
      else nothingQueued → u.cuc = { c with busy := false, link := .idle }
    | .disabled | .sending _ => u.cuc = { c with busy := level } := by
  intro c nothingQueued u
  have hu : u = (({ w with cuc := { w.cuc with busy := level } } : Work).switched b level).select b := busyChange_eq hne
  generalize hv : ({ w with cuc := { w.cuc with busy := level } } : Work) = v at hu
  have hvc : v.cuc = { c with busy := level } := by rw [← hv]
  have hvl : v.cuc.link = c.link := by rw [hvc]
  have still : ∀ x : Work, v.switched b level = x → x.cuc.link ≠ .idle → u.cuc = x.cuc := fun x hx hi => by
    rw [hu, hx, select_of_link hi]
  have rested : ∀ x : Work, v.switched b level = x → (∀ q ∈ x.cuc.queue, q.state ≠ .queued) → u.cuc = x.cuc := fun x hx hq => by
    rw [hu, hx, select_of_empty hq]
  cases hl : c.link with
  | disabled | sending =>
    have hx : v.switched b level = v := by
      unfold Work.switched
      rw [hvl, hl]
    exact (still v hx (by rw [hvl, hl]; nofun)).trans (by rw [hvc, hl])
  | idle =>
    cases level with
    | true =>
      have hx : v.switched b true = { v with cuc := { v.cuc with link := .blocked } } := by
        unfold Work.switched
        rw [hvl, hl]
      exact (still _ hx nofun).trans (by rw [hvc])
    | false =>
      have hx : v.switched b false = v := by
        unfold Work.switched
        rw [hvl, hl]
      exact fun hq => (rested v hx (by rw [hvc]; exact hq)).trans (by rw [hvc, hl])
  | blocked =>
    cases level with
    | true =>
      have hx : v.switched b true = v := by
        unfold Work.switched
        rw [hvl, hl]
      exact (still v hx (by rw [hvl, hl]; nofun)).trans (by rw [hvc, hl])
    | false =>
      have hx : v.switched b false = { v with cuc := { v.cuc with link := .idle } } := by
        unfold Work.switched
        rw [hvl, hl]
      exact fun hq => (rested _ hx (by rw [hvc]; exact hq)).trans (by rw [hvc])
  | awaitAccept =>
    cases level with
    | true =>
      have hx : v.switched b true = { v with cuc := { v.cuc with
          link := .playing (b.elapsed + 120000)
          queue := v.cuc.queue.map fun q => if q.state = .awaitAccept then { q with state := .playing } else q } } := by
        unfold Work.switched
        rw [hvl, hl]
      exact (still _ hx nofun).trans (by rw [hvc])
    | false =>
      have hx : v.switched b false = v := by
        unfold Work.switched
        rw [hvl, hl]
      exact (still v hx (by rw [hvl, hl]; nofun)).trans (by rw [hvc, hl])
  | playing =>
    cases level with
    | true =>
      have hx : v.switched b true = v := by
        unfold Work.switched
        rw [hvl, hl]
      exact (still v hx (by rw [hvl, hl]; nofun)).trans (by rw [hvc, hl])
    | false =>
      have hx : v.switched b false = v.endEntry (fun e => doneReport e (v.playOutcome e)) .idle := by
        unfold Work.switched
        rw [hvl, hl]
      refine ⟨fun hq => ?_, fun e he => ?_⟩
      · have hend := endEntry_leaves (fun e => doneReport e (v.playOutcome e)) .idle v
        rw [rested _ hx (fun q hmem => hq q (by have := hend.2 q hmem; rw [hvc] at this; exact this))]
        exact hend.1
      · have he' : v.cuc.onLink = some e := by rw [hvc]; exact he
        have hout : v.playOutcome e = w.playOutcome e := by rw [← hv]; rfl
        rw [hx, Work.endEntry_eq he', hout] at hu
        rw [hu]
        refine ⟨select_absent (freed_absent _ _), grows_trans (grows_of_hlu ?_) (Work.select_grows trivial b _)⟩
        rw [← hv]
        rfl

theorem busyChange_mask (b : Base) (level : Bool) (w : Work) : (w.busyChange b level).hlu.mask = w.hlu.mask := by
  by_cases hne : w.cuc.busy = level
  · unfold Work.busyChange
    rw [if_pos hne]
  · have switched : ∀ v : Work, (v.switched b level).hlu.mask = v.hlu.mask := fun v => by
      unfold Work.switched
      split
      · rfl
      · exact kept_mask (Work.endEntry_kept ..)
      · rfl
      · rfl
      · rfl
    rw [busyChange_eq hne, kept_mask (Work.select_kept ..)]
    exact switched _

/-- R147: what a change of the PA_OVERRIDE level does where no selection can follow. -/
theorem paChange_effect {b : Base} {level : Bool} {w : Work} (hne : w.cuc.paOverride ≠ level)
    (h : level = true ∨ w.cuc.cfg.resumeDelay ≠ 0 ∨ w.cuc.link ≠ .idle ∨ ∀ q ∈ w.cuc.queue, q.state ≠ .queued) :
    (w.paChange b level).cuc = { w.cuc with paOverride := level, resume := if level = true then 0 else w.cuc.cfg.resumeDelay } := by
  have hw : (w.mapCuc fun c => { c with paOverride := level, resume := if level then 0 else c.cfg.resumeDelay }) =
      { w with cuc := { w.cuc with paOverride := level, resume := if level = true then 0 else w.cuc.cfg.resumeDelay } } := rfl
  unfold Work.paChange
  rw [if_neg hne, hw]
  generalize hv : ({ w with cuc := _ } : Work) = v
  have hvc : v.cuc = { w.cuc with paOverride := level, resume := if level = true then 0 else w.cuc.cfg.resumeDelay } := by rw [← hv]
  have stays : v.select b = v → (v.select b).cuc = _ := fun k => (congrArg Work.cuc k).trans hvc
  refine stays ?_
  have active : level = true → v.select b = v := fun hlevel =>
    select_of_still (Bool.eq_false_iff.mpr fun k => by
      have hpa := ((Cuc.maySelect_iff _).mp k).2.2.1
      rw [hvc, hlevel] at hpa
      exact nomatch hpa)
  rcases h with hlevel | hdelay | hlink | hq
  · exact active hlevel
  · cases level with
    | true => exact active rfl
    | false =>
      refine select_of_still (Bool.eq_false_iff.mpr fun k => hdelay ?_)
      have hresume := ((Cuc.maySelect_iff _).mp k).2.2.2
      rw [hvc] at hresume
      exact hresume
  · exact select_of_link (by rw [hvc]; exact hlink)
  · exact select_of_empty (by rw [hvc]; exact hq)

/-- Settles O37: the ends of the intervals, and the edges of PLAY_BUSY and PA_OVERRIDE. -/
theorem cueIntervalsEnd : Obligations.CueIntervalsEnd := by
  refine ⟨fun due e s => ⟨acceptWindowEnds due e s, fun hlink he => ?_, fun hres => ?_⟩, ?_⟩
  · refine ⟨(s.mapWork (Work.playEnd s.base)).finish, rfl, rfl, rfl, rfl, ?_⟩
    rw [State.finish_work, State.mapWork_work, Work.playEnd_eq hlink he]
  · refine ⟨(s.mapWork (Work.resumeDelayEnds s.base)).finish, rfl, rfl, rfl, rfl, ?_⟩
    rw [State.finish_work, State.mapWork_work, Work.resumeDelayEnds_eq hres]
    generalize hv : ({ s.work with cuc := { s.work.cuc with resume := 0 } } : Work) = v
    have kept : (v.select s.base).settled = v.settled := kept_settled (Work.select_kept ..)
    refine ⟨(congrArg Cuc.resume (settled_cuc kept) :).trans (by rw [← hv]; rfl), ?_, fun hlink => ?_⟩
    · have hloaded : v.loaded = s.work.loaded := by rw [← hv]; rfl
      rw [← hloaded, ← settled_loaded kept]
      exact settled_loaded (settled_hlu (pump_kept _).1 (pump_kept _).2.2.2.2)
    · rw [select_of_link (by rw [← hv]; exact hlink), ← hv]
  · intro n v l s hl hne c level nothingQueued
    obtain ⟨u, hu, hlines, ⟨helapsed, -⟩, hwork⟩ := State.edge_delivered hl hne
    have hline := State.line_eq hlines
    have hucuc : u.work.cuc = c := hwork.elim (fun h => congrArg Work.cuc h) fun ⟨_, h⟩ => (congrArg Work.cuc h :)
    have husvt : u.work.svt = s.work.svt := hwork.elim (fun h => congrArg Work.svt h) fun ⟨_, h⟩ => (congrArg Work.svt h :)
    have hactive : (u.line n).isActive = level := by
      rw [hline]
      show (v == l.active) = decide (l.active = v)
      by_cases hv : l.active = v
      · simp [hv]
      · simp [hv, Ne.symm hv]
    refine ⟨(s.edge n v).finish, rfl, fun hrole => ?_, fun hrole => ?_⟩
    · have hdeliver : (s.edge n v).work = u.work.busyChange u.base level := by
        rw [hu, State.deliverEdge, ← hactive, hline]
        dsimp only
        rw [hrole]
        rfl
      rw [State.finish_work, hdeliver]
      refine ⟨fun hb => ?_, fun hb => ?_⟩
      · unfold Work.busyChange
        rw [if_pos (by rw [hucuc]; exact hb)]
        exact hucuc
      · have effect := busyChange_effect u.base level u.work (by rw [hucuc]; exact hb)
        dsimp only at effect
        rw [hucuc, helapsed] at effect
        cases hlink : c.link with
        | disabled | idle | blocked | sending | awaitAccept =>
          rw [hlink] at effect
          exact effect
        | playing =>
          rw [hlink] at effect
          dsimp only at effect ⊢
          split at effect
          · next hlevel => rw [if_pos hlevel]; exact effect
          · next hlevel =>
            rw [if_neg hlevel]
            refine ⟨effect.1, fun e he => ⟨(effect.2 e he).1, ?_⟩⟩
            have hgrow := (effect.2 e he).2
            rw [playOutcome_eq, husvt] at hgrow
            intro hm hlost
            rw [State.finish_work, (pump_kept _).1, hdeliver, busyChange_mask] at hm
            rw [State.finish_work, (pump_kept _).2.1, hdeliver] at hlost
            rw [State.finish_work, hdeliver, pump_reports]
            exact grows_raised hgrow hm hlost
    · have hdeliver : (s.edge n v).work = u.work.paChange u.base level := by
        rw [hu, State.deliverEdge, ← hactive, hline]
        dsimp only
        rw [hrole]
        rfl
      rw [State.finish_work, hdeliver]
      refine ⟨fun hb => ?_, fun hb hcan => ?_⟩
      · unfold Work.paChange
        rw [if_pos (by rw [hucuc]; exact hb)]
        exact hucuc
      · exact (paChange_effect (by rw [hucuc]; exact hb) (by rw [hucuc]; exact hcan)).trans (by rw [hucuc])

end Sys2Proof.Machine
end

section
/-!
PROOF. What a CUE ASK comes to (R134, R135).
-/

namespace Sys2Proof.Machine

/-! ### The queue through a selection -/

/-- What every change of entries in place and every removal keeps, a selection keeps. -/
theorem select_queue {P : List CueEntry → Prop} (hmap : ∀ f l, KeepsPlace f → P l → P (l.map f))
    (hfilter : ∀ p l, P l → P (l.filter p)) (b : Base) (w : Work) (h : P w.cuc.queue) : P (w.select b).cuc.queue := by
  have take : ∀ e (w : Work), P w.cuc.queue → P (w.takeEntry b e).cuc.queue := by
    intro e w hw
    unfold Work.takeEntry
    split
    · exact hfilter _ _ hw
    · split
      · exact hmap _ _ (keepsPlace_update (f := fun e => { e with state := .held }) fun _ => ⟨rfl, rfl⟩) hw
      · split
        · exact hfilter _ _ hw
        · refine hmap _ _ (fun q => ?_) hw
          dsimp only
          split <;> exact ⟨rfl, rfl⟩
  have many : ∀ es (w : Work), P w.cuc.queue → P (Work.selectFrom b es w).cuc.queue := by
    intro es
    induction es with
    | nil => exact fun w hw => hw
    | cons e es ih =>
      intro w hw
      unfold Work.selectFrom
      split
      · exact ih _ (take e w hw)
      · exact hw
  unfold Work.select
  split
  · exact many _ w h
  · exact h

theorem cueOrder_map {f : CueEntry → CueEntry} (hf : KeepsPlace f) {l : List CueEntry} (h : l.Pairwise cueOrder) :
    (l.map f).Pairwise cueOrder := List.pairwise_map.mpr (h.imp fun {x y} => cueOrder_congr (hf x) (hf y))

theorem select_ordered (b : Base) (w : Work) : w.cuc.queue.Pairwise cueOrder → (w.select b).cuc.queue.Pairwise cueOrder :=
  select_queue (P := fun l => l.Pairwise cueOrder) (fun _ _ hf => cueOrder_map hf) (fun p _ hl => hl.filter p) b w

/-! ### The last waiting entry (R134 case 6) -/

theorem lastWaiting_mem {c : Cuc} {e : CueEntry} (h : c.lastWaiting = some e) : e ∈ c.queue ∧ e.isWaiting = true :=
  List.mem_filter.mp (List.mem_of_getLast? h)

/-- What holds of every entry and a later one holds of every waiting entry but the last, and the last. -/
theorem lastWaiting_last {c : Cuc} {r : CueEntry → CueEntry → Prop} (hr : c.queue.Pairwise r) {e q : CueEntry}
    (h : c.lastWaiting = some e) (hq : q ∈ c.queue) (hw : q.isWaiting = true) : q = e ∨ r q e := by
  obtain ⟨l, hl⟩ := List.getLast?_eq_some_iff.mp h
  have hmem : q ∈ l ++ [e] := hl ▸ List.mem_filter.mpr ⟨hq, hw⟩
  have hpair : (l ++ [e]).Pairwise r := hl ▸ hr.filter _
  rcases List.mem_append.mp hmem with hmem | hmem
  · exact .inr ((List.pairwise_append.mp hpair).2.2 q hmem e (List.mem_singleton_self e))
  · exact .inl (List.mem_singleton.mp hmem)

theorem lastWaiting_none {c : Cuc} (h : c.lastWaiting = none) {q : CueEntry} (hq : q ∈ c.queue) : q.isWaiting ≠ true := fun hw => by
  have hnil : c.queue.filter CueEntry.isWaiting = [] := List.getLast?_eq_none_iff.mp h
  exact List.filter_eq_nil_iff.mp hnil q hq hw

/-! ### The enqueue request (R134) -/

/-- R134: what a request of the host with template `tm` leaves before the selection that ends it, and its outcome. -/
inductive Enqueued (b : Base) (n : Nat) (key : Option Key) (tm : Template) (w : Work) : Work → EnqueueOutcome → Prop
  | override (h : b.fiu.override = true) : Enqueued b n key tm w (w.raise (refusal n key .host .override)) .refusedOverride
  | merged (h : b.fiu.override = false) (e : CueEntry)
      (he : w.cuc.queue.find? (fun e => e.isWaiting && e.hasKey n key) = some e) :
      Enqueued b n key tm w (w.mapCuc (Cuc.updateEntry e.seq (mergeEntry b.tbs.t (key.bind w.svt.find)))) (.merged e.seq)
  | late (h : b.fiu.override = false) (he : w.cuc.queue.find? (fun e => e.isWaiting && e.hasKey n key) = none)
      (hlate : latestStart b.tbs.t tm (key.bind w.svt.find) < b.tbs.t) :
      Enqueued b n key tm w (w.raise (refusal n key .host .expired)) .late
  | room (h : b.fiu.override = false) (he : w.cuc.queue.find? (fun e => e.isWaiting && e.hasKey n key) = none)
      (hlate : b.tbs.t ≤ latestStart b.tbs.t tm (key.bind w.svt.find)) (hroom : w.cuc.queue.length < 32) :
      Enqueued b n key tm w (w.enqueueNew b n key .host tm (key.bind w.svt.find)) (.admitted (w.cuc.counter + 1))
  | displaced (h : b.fiu.override = false) (he : w.cuc.queue.find? (fun e => e.isWaiting && e.hasKey n key) = none)
      (hlate : b.tbs.t ≤ latestStart b.tbs.t tm (key.bind w.svt.find)) (hroom : 32 ≤ w.cuc.queue.length) (e : CueEntry)
      (hlast : w.cuc.lastWaiting = some e) (hlow : e.priority < tm.priority) :
      Enqueued b n key tm w ((w.dropEntry e .displaced).enqueueNew b n key .host tm (key.bind w.svt.find))
        (.admitted (w.cuc.counter + 1))
  | full (h : b.fiu.override = false) (he : w.cuc.queue.find? (fun e => e.isWaiting && e.hasKey n key) = none)
      (hlate : b.tbs.t ≤ latestStart b.tbs.t tm (key.bind w.svt.find)) (hroom : 32 ≤ w.cuc.queue.length)
      (hlow : ∀ e, w.cuc.lastWaiting = some e → tm.priority ≤ e.priority) :
      Enqueued b n key tm w (w.raise (refusal n key .host .full)) .full

theorem enqueue_host {b : Base} {n : Nat} {key : Option Key} {tm : Template} {w : Work} (htm : w.cuc.template n = some tm) :
    ∃ x o, w.enqueue b n key .host = (x.select b, o) ∧ Enqueued b n key tm w x o := by
  unfold Work.enqueue
  dsimp only
  by_cases hov : b.fiu.override = true
  · rw [if_pos (by rw [hov]; rfl)]
    exact ⟨_, _, rfl, .override hov⟩
  · have hov' : b.fiu.override = false := by simpa using hov
    rw [if_neg (by rw [hov']; decide), htm]
    dsimp only
    cases he : w.cuc.queue.find? fun e => e.isWaiting && e.hasKey n key with
    | some e => exact ⟨_, _, rfl, .merged hov' e he⟩
    | none =>
      dsimp only
      by_cases hlate : latestStart b.tbs.t tm (key.bind w.svt.find) < b.tbs.t
      · rw [if_pos hlate]
        exact ⟨_, _, rfl, .late hov' he hlate⟩
      · have hlate' := Int.not_lt.mp hlate
        rw [if_neg hlate]
        by_cases hroom : w.cuc.queue.length < Config.maxCues
        · rw [if_pos hroom]
          exact ⟨_, _, rfl, .room hov' he hlate' hroom⟩
        · have hroom' : 32 ≤ w.cuc.queue.length := Nat.not_lt.mp hroom
          rw [if_neg hroom]
          cases hlast : w.cuc.lastWaiting with
          | none => exact ⟨_, _, rfl, .full hov' he hlate' hroom' fun e h => by rw [hlast] at h; cases h⟩
          | some e =>
            dsimp only
            by_cases hlow : e.priority < tm.priority
            · rw [if_pos (by exact hlow)]
              exact ⟨_, _, rfl, .displaced hov' he hlate' hroom' e hlast hlow⟩
            · rw [if_neg (by exact hlow)]
              refine ⟨_, _, rfl, .full hov' he hlate' hroom' fun e' h => ?_⟩
              rw [hlast] at h
              cases h
              exact Nat.not_lt.mp hlow

theorem enqueueNew_ordered (b : Base) (n : Nat) (key : Option Key) (src : CueSource) (tm : Template) (x : Option Service) {w : Work}
    (h : w.cuc.queue.Pairwise cueOrder) : (w.enqueueNew b n key src tm x).cuc.queue.Pairwise cueOrder :=
  pairwise_insertBy (before := CueEntry.before) (r := cueOrder) (fun _ _ _ => cueOrder_trans) (fun _ _ => CueEntry.order_of_before)
    (fun _ _ => CueEntry.order_of_not_before) _ h

theorem Enqueued.ordered {b : Base} {n : Nat} {key : Option Key} {tm : Template} {w x : Work} {o : EnqueueOutcome}
    (h : Enqueued b n key tm w x o) (hw : w.cuc.queue.Pairwise cueOrder) : x.cuc.queue.Pairwise cueOrder := by
  cases h with
  | override | late | full => exact hw
  | merged => exact cueOrder_map (keepsPlace_update (f := mergeEntry b.tbs.t (key.bind w.svt.find)) fun _ => ⟨rfl, rfl⟩) hw
  | room => exact enqueueNew_ordered _ _ _ _ _ _ hw
  | displaced => exact enqueueNew_ordered _ _ _ _ _ _ (hw.filter _)

theorem Enqueued.maySelect {b : Base} {n : Nat} {key : Option Key} {tm : Template} {w x : Work} {o : EnqueueOutcome}
    (h : Enqueued b n key tm w x o) : x.cuc.maySelect = w.cuc.maySelect := by
  cases h <;> rfl

theorem Enqueued.reply {b : Base} {n : Nat} {key : Option Key} {tm : Template} {w x : Work} {o : EnqueueOutcome}
    (h : Enqueued b n key tm w x o) (hp : w.cuc.queue.Pairwise fun a b => b.priority ≤ a.priority) : askReply o =
      if b.fiu.override = true then ⟨.state, [], .field .overrideReason⟩
      else match w.cuc.queue.find? (fun e => e.isWaiting && e.hasKey n key) with
        | some e => ⟨.ok, [], .merged e.seq⟩
        | none =>
          if latestStart b.tbs.t tm (key.bind w.svt.find) < b.tbs.t then ⟨.state, [], .field .expiredReason⟩
          else if w.cuc.queue.length < 32 ∨ (∃ e ∈ w.cuc.queue, e.isWaiting = true ∧ e.priority < tm.priority) then
            ⟨.ok, [], .admitted (w.cuc.counter + 1)⟩
          else ⟨.tableFull, [], .nothing⟩ := by
  cases h with
  | override h => rw [if_pos h]; rfl
  | merged h e he => rw [if_neg (by rw [h]; decide), he]; rfl
  | late h he hlate => rw [if_neg (by rw [h]; decide), he, if_pos hlate]; rfl
  | room h he hlate hroom =>
    rw [if_neg (by rw [h]; decide), he]
    dsimp only
    rw [if_neg (Int.not_lt.mpr hlate), if_pos (.inl hroom)]
    rfl
  | displaced h he hlate hroom e hlast hlow =>
    obtain ⟨hmem, hw⟩ := lastWaiting_mem hlast
    rw [if_neg (by rw [h]; decide), he]
    dsimp only
    rw [if_neg (Int.not_lt.mpr hlate), if_pos (.inr ⟨e, hmem, hw, hlow⟩)]
    rfl
  | full h he hlate hroom hlow =>
    rw [if_neg (by rw [h]; decide), he]
    dsimp only
    rw [if_neg (Int.not_lt.mpr hlate), if_neg]
    · rfl
    · rintro (hlen | ⟨q, hq, hw, hlt⟩)
      · omega
      · cases hlast : w.cuc.lastWaiting with
        | none => exact lastWaiting_none hlast hq hw
        | some e =>
          have := hlow e hlast
          rcases lastWaiting_last hp hlast hq hw with rfl | hle <;> omega

/-- R134 case 5: the entry that joins the queue `q`. -/
def Joins (b : Base) (n : Nat) (key : Option Key) (tm : Template) (w : Work) (q : List CueEntry) (c : Cuc) : Prop :=
  c.counter = w.cuc.counter + 1 ∧
    ∃ e, c.queue.Perm (e :: q) ∧ e.number = n ∧ e.template = tm ∧ e.key = key ∧
      e.serviceSeq = (key.bind w.svt.find).map Service.seq ∧ e.priority = tm.priority ∧ e.source = .host ∧
      e.seq = w.cuc.counter + 1 ∧ e.latest = latestStart b.tbs.t tm (key.bind w.svt.find) ∧ e.resolved = none ∧ e.unobserved = false ∧
      (e.state = if tm.needsShown = true ∧ ∃ x, key.bind w.svt.find = some x ∧ w.confirmation x ≠ [] then .held else .queued)

theorem enqueueNew_joins {b : Base} {n : Nat} {key : Option Key} {tm : Template} {w v : Work} {q : List CueEntry}
    (hcounter : v.cuc.counter = w.cuc.counter) (hqueue : v.cuc.queue = q) (hconf : v.confirmation = w.confirmation) :
    Joins b n key tm w q (v.enqueueNew b n key .host tm (key.bind w.svt.find)).cuc := by
  have hstate : ∀ x : Option Service, (if (tm.needsShown && (match x with | some x => !(v.confirmation x).isEmpty | none => false)) = true
      then CueState.held else .queued) =
        if tm.needsShown = true ∧ ∃ y, x = some y ∧ w.confirmation y ≠ [] then .held else .queued := by
    intro x
    rw [hconf]
    cases x with
    | none => simp
    | some y => simp
  subst hqueue
  refine ⟨congrArg (· + 1) hcounter, _, insertBy_perm CueEntry.before _ v.cuc.queue, rfl, rfl, rfl, rfl, rfl, rfl, congrArg (· + 1) hcounter, rfl, rfl, rfl,
    hstate _⟩

/-- R182: the report that the owner of a request raised stands in the queue, if its class is enabled and none is lost. -/
theorem raised_of_hlu {t : State} {u w : Work} {r : ReportBody}
    (hw : t.work = { u with hlu := { u.hlu with inbound := t.work.hlu.inbound, tx := t.work.hlu.tx } })
    (h : u.hlu = w.hlu.raise r) : t.raised r := fun hm hl =>
  grows_raised (w := w) (P := fun _ => True) (grows_of_rep (by rw [hw, Work.raise_hlu, ← h]) (by rw [hw, Work.raise_hlu, ← h]))
    (by rw [hw, h] at hm; rw [← Work.raise_mask r]; exact hm) hl

/-- Settles O34: the outcome of the request, and, where no selection follows, the queue it leaves. -/
theorem cueAskJoinsTheQueue : Obligations.CueAskJoinsTheQueue := by
  intro h n key tm s hr hm hok htm hdeg hpriority cuc service latest waiting same
  have hok' : askRefusal (s.arrives h (.cueAsk n key)) n key = none :=
    (refusalOf_arrives h (.cueAsk n key) (.cueAsk n key) s).trans hok
  have hfresh := arrives_fresh h (.cueAsk n key) s hr.1 hdeg
  have hwaiting : (fun e : CueEntry => waiting e && e.number == n && e.key == key) = fun e => e.isWaiting && e.hasKey n key :=
    funext fun e => Bool.and_assoc ..
  have hlatest : ∀ m, latest m = latestStart s.base.tbs.t m service := fun m => by
    show (match service with | some x => _ | none => _) = latestStart _ _ service
    cases service <;> rfl
  generalize hw : (s.arrives h (.cueAsk n key)).work = w at hfresh
  have hcuc : w.cuc = cuc := by rw [hfresh]
  have hservice : key.bind w.svt.find = service := by rw [hfresh]
  have hsame : w.cuc.queue.find? (fun e => e.isWaiting && e.hasKey n key) = same := by rw [hcuc, ← hwaiting]
  have hconf : w.confirmation = s.work.confirmation := by rw [hfresh]; rfl
  obtain ⟨x, o, henq, hcase⟩ := enqueue_host (b := s.base) (n := n) (key := key) (w := w) (by rw [hcuc]; exact htm)
  obtain ⟨t, h1, h2, hb, hs, hp, hwork⟩ := request_answers (q := .cueAsk n key) hr hm (by
    simp only [Request.owner, ownCueAsk, guarded_eq hok', hw, State.arrives_base, henq]
    rfl)
  have hsettled : t.work.settled = (x.select s.base).settled := answers_settled hwork
  have hwork : t.work = { x.select s.base with hlu :=
      { (x.select s.base).hlu with inbound := t.work.hlu.inbound, tx := t.work.hlu.tx } } := hwork
  have hb : t.base = s.base := hb
  have hs : t.scd = s.scd := hs.trans (State.arrives_scd h (.cueAsk n key) s)
  have hp : t.pending = s.pending := hp.trans (State.arrives_pending h (.cueAsk n key) s)
  have hreply := hcase.reply (by rw [hcuc]; exact hpriority)
  rw [hsame, hservice, hcuc, ← hlatest tm] at hreply
  have hqueue : t.work.cuc = (x.select s.base).cuc := by rw [hwork]
  have hstays : cuc.maySelect = false → x.select s.base = x := fun hstill =>
    select_of_still (hcase.maySelect.trans (by rw [hcuc]; exact hstill))
  have hraised : cuc.maySelect = false → ∀ (v : Work) r, x.hlu = v.hlu.raise r → t.raised r := fun hstill v r hx =>
    raised_of_hlu hwork (by rw [hstays hstill]; exact hx)
  refine ⟨t, h1, hb, hs, hp, ?_, ?_, fun hord => ?_, fun hstill hov => ?_, fun hstill hov => ?_⟩
  · have hkept : (x.select s.base).kept = w.kept := by
      have := Work.enqueue_kept s.base n key .host w
      rw [henq] at this
      exact this
    rw [hsettled, kept_settled hkept, hfresh]
    exact settled_hlu rfl rfl
  · rw [h2, hreply]
    split
    · rfl
    · cases same <;> rfl
  · rw [hqueue]
    exact select_ordered s.base x (hcase.ordered (by rw [hcuc]; exact hord))
  · rw [hqueue, hstays hstill]
    cases hcase with
    | override => exact ⟨congrArg Cuc.queue hcuc, hraised hstill w _ rfl⟩
    | merged h | late h | room h | displaced h | full h => exact absurd hov (by rw [h]; decide)
  · intro joins
    have hjoins : ∀ q : List CueEntry, Joins s.base n key tm w q t.work.cuc → joins q := by
      rintro q ⟨hcounter, e, hperm, h1, h2, h3, h4, h5, h6, h7, h8, h9, h10, h11⟩
      rw [hservice, ← hlatest] at h8
      rw [hservice] at h4 h11
      rw [hconf] at h11
      rw [hcuc] at hcounter h7
      exact ⟨hcounter, e, hperm, h1, h2, h3, h4, h5, h6, h7, h8, h9, h10, h11⟩
    have htcuc : t.work.cuc = x.cuc := by rw [hqueue, hstays hstill]
    cases hcase with
    | override h => exact absurd hov (by rw [h]; decide)
    | merged _ e he =>
      rw [← hsame, he]
      dsimp only
      rw [htcuc]
      show (w.cuc.queue.map fun q => if q.seq == e.seq then mergeEntry s.base.tbs.t (key.bind w.svt.find) q else q) = _
      rw [hservice, hcuc]
      refine List.map_congr_left fun q _ => ?_
      by_cases hq : q.seq = e.seq
      · rw [if_pos hq, if_pos (beq_iff_eq.mpr hq), hlatest]
        rfl
      · rw [if_neg hq, if_neg fun h => hq (beq_iff_eq.mp h)]
    | late _ he hlate =>
      rw [hservice, ← hlatest] at hlate
      rw [← hsame, he]
      refine ⟨fun _ => ⟨by rw [htcuc]; exact congrArg Cuc.queue hcuc, hraised hstill w _ rfl⟩, fun h => absurd hlate (Int.not_lt.mpr h),
        fun h => absurd hlate (Int.not_lt.mpr h)⟩
    | room _ he hlate hroom =>
      rw [hservice, ← hlatest] at hlate
      rw [hcuc] at hroom
      rw [← hsame, he]
      refine ⟨fun h => absurd h (Int.not_lt.mpr hlate), fun _ _ => hjoins _ ?_, fun _ h => absurd hroom (Nat.not_lt.mpr h)⟩
      rw [htcuc]
      exact enqueueNew_joins rfl (congrArg Cuc.queue hcuc) rfl
    | displaced _ he hlate hroom e hlast hlow =>
      rw [hservice, ← hlatest] at hlate
      rw [hcuc] at hroom hlast
      rw [← hsame, he]
      obtain ⟨hmem, hew⟩ := lastWaiting_mem hlast
      refine ⟨fun h => absurd h (Int.not_lt.mpr hlate), fun _ h => absurd h (Nat.not_lt.mpr hroom), fun _ _ => ⟨?_, fun hall => ?_⟩⟩
      · intro hord d hd hdw hdlow huniq hleast
        have hde : d = e := by
          rcases lastWaiting_last hord hlast hd hdw with hde | hbefore
          · exact hde
          · have hseq : e.seq = d.seq := BitVec.eq_of_toNat_eq (by
              rcases hleast e hmem hew with h | h <;> rcases hbefore with k | k <;> omega)
            exact (huniq e hmem hew hseq).symm
        subst hde
        refine ⟨hjoins _ ?_, hraised hstill w _ rfl⟩
        rw [htcuc]
        exact enqueueNew_joins rfl (congrArg (fun c : Cuc => c.queue.filter fun q : CueEntry => q.seq != d.seq) hcuc) rfl
      · exact absurd (hall e hmem hew) (Nat.not_le.mpr hlow)
    | full _ he hlate hroom hlow =>
      rw [hservice, ← hlatest] at hlate
      rw [hcuc] at hroom hlow
      rw [← hsame, he]
      refine ⟨fun h => absurd h (Int.not_lt.mpr hlate), fun _ h => absurd h (Nat.not_lt.mpr hroom),
        fun _ _ => ⟨fun _ d hd hdw hdlow _ _ => ?_, fun _ => ⟨?_, hraised hstill w _ rfl⟩⟩⟩
      · cases hlast : cuc.lastWaiting with
        | none => exact absurd hdw (lastWaiting_none hlast hd)
        | some e =>
          have := hlow e hlast
          rcases lastWaiting_last hpriority hlast hd hdw with rfl | hle <;> omega
      · rw [htcuc]
        exact congrArg Cuc.queue hcuc

end Sys2Proof.Machine
end

section
/-!
PROOF. What selection does to each entry it takes in hand (R139, R140), and what an entry resolves to (R141 to R143).
-/

namespace Sys2Proof.Machine

/-! ### Resolution (R141, R142) -/

theorem CueEntry.record_eq (w : Work) (e : CueEntry) : e.record w = w.entryService e := by
  unfold CueEntry.record Work.entryService
  cases e.key <;> rfl

/-- R141: the codes of several text entries: all of them, or none. -/
theorem textPhrases_eq (txs : List TextEntry) (l : List Nat) : textPhrases txs l =
    if ∀ i ∈ l, ((textEntry txs i).phrase).isSome = true then some (l.filterMap fun i => (textEntry txs i).phrase) else none := by
  induction l with
  | nil => rfl
  | cons i is ih =>
    rw [textPhrases, ih]
    cases hi : (textEntry txs i).phrase with
    | none => simp [hi]
    | some p =>
      by_cases hall : ∀ j ∈ is, ((textEntry txs j).phrase).isSome = true
      · rw [if_pos hall, if_pos (List.forall_mem_cons.mpr ⟨by rw [hi]; rfl, hall⟩),
          List.filterMap_cons_some (f := fun i => (textEntry txs i).phrase) hi]
      · rw [if_neg hall, if_neg fun h => hall (List.forall_mem_cons.mp h).2]

/-- R142: the phrases of the items: all of them in order, or none. -/
theorem allPhrases_eq (b : Base) (cfg : CueConfig) (x : Option Service) (l : List CueItem) : allPhrases b cfg x l =
    if ∀ i ∈ l, (itemPhrases b cfg x i).isSome = true then some (l.filterMap (itemPhrases b cfg x)).flatten else none := by
  induction l with
  | nil => rfl
  | cons i is ih =>
    rw [allPhrases, ih]
    cases hi : itemPhrases b cfg x i with
    | none => simp [hi]
    | some p =>
      by_cases hall : ∀ j ∈ is, (itemPhrases b cfg x j).isSome = true
      · rw [if_pos hall, if_pos (List.forall_mem_cons.mpr ⟨by rw [hi]; rfl, hall⟩), List.filterMap_cons_some hi]
        exact congrArg some List.flatten_cons.symm
      · rw [if_neg hall, if_neg fun h => hall (List.forall_mem_cons.mp h).2]

/-- R42, R141: the two figures of a displayed time are those of its minute of the day. -/
theorem timePhrases_displayed (cfg : CueConfig) (c0 : Nat) (m : Int) : timePhrases cfg (displayed c0 (60 * m)) =
    [cfg.hourBase + ((m + c0) % 1440).toNat / 60, cfg.minuteBase + ((m + c0) % 1440).toNat % 60] := by
  have hday : (60 * m + 60 * (c0 : Int)) % Config.day = 60 * ((m + c0) % 1440) := by
    show (60 * m + 60 * (c0 : Int)) % 86400 = _
    omega
  have hpos : 0 ≤ (m + c0) % 1440 := by omega
  simp only [timePhrases, displayed, hday]
  generalize (m + c0) % 1440 = r at hpos
  congr 2
  · omega
  · congr 1
    omega

theorem slotSpeech_eq (b : Base) (cfg : CueConfig) (x : Service) (k : CueSlot) : slotPhrases b cfg x k = slotSpeech b cfg x k := by
  have hplatform : ∀ d : Designator, platformPhrases cfg d =
      [cfg.numberBase + d.num] ++ (match d.suffix with | 1 => [cfg.suffixA] | 2 => [cfg.suffixB] | _ => []) := fun d => by
    unfold platformPhrases
    split
    · next h => rw [h]; rfl
    · next h =>
      split
      · next h' => rw [h']; rfl
      · next h' =>
        split
        · next hd => exact absurd hd h
        · next hd => exact absurd hd h'
        · rfl
  have hone : ∀ i, textPhrases b.txs [i] = (textEntry b.txs i).phrase.map ([·]) := fun i => by
    rw [textPhrases, textPhrases]
    cases (textEntry b.txs i).phrase <;> rfl
  cases k with
  | platform => exact congrArg (Option.map · x.current) (funext hplatform)
  | oldPlatform => exact congrArg (Option.map · x.previous) (funext hplatform)
  | dest => exact hone _
  | via =>
    show (match x.via with | some i => _ | none => _) = (x.via.bind _).map _
    cases x.via with
    | none => rfl
    | some i => exact hone i
  | schedTime => exact congrArg some (timePhrases_displayed ..)
  | expTime =>
    show (expText b.tbs.c0 x).map _ = x.expected.map _
    unfold expText
    rw [Option.map_map]
    exact congrArg (Option.map · x.expected) (funext fun e => timePhrases_displayed ..)
  | delayMin =>
    show (if x.delay = 0 ∨ 999 < x.delay then _ else _) = if 1 ≤ x.delay ∧ x.delay ≤ 999 then _ else _
    by_cases h : 1 ≤ x.delay ∧ x.delay ≤ 999
    · rw [if_pos h, if_neg (by omega)]
    · rw [if_neg h, if_pos (by omega)]
  | callingPoints => exact textPhrases_eq ..
  | coaches => rfl

/-- R141, R142: the phrases of an entry, as the rule has them. -/
theorem speech_eq (b : Base) (w : Work) (e : CueEntry) :
    allPhrases b w.cuc.cfg (w.entryService e) e.template.items = e.speech b w := by
  have hitem : itemPhrases b w.cuc.cfg (w.entryService e) = fun
      | .phrase c => some [c]
      | .slot k => (e.record w).bind fun x => slotSpeech b w.cuc.cfg x k := funext fun i => by
    cases i with
    | phrase c => rfl
    | slot k =>
      rw [CueEntry.record_eq]
      exact congrArg (Option.bind _) (funext fun x => slotSpeech_eq b w.cuc.cfg x k)
  rw [allPhrases_eq, hitem]
  rfl

theorem zoneSet_eq (w : Work) (e : CueEntry) : zoneSet w.cuc.cfg (w.entryService e) e.template.zones = e.zoneSet w := by
  unfold zoneSet CueEntry.zoneSet
  rw [CueEntry.record_eq]
  cases e.template.zones with
  | fixed zs => rfl
  | platform =>
    dsimp only
    cases (w.entryService e).bind Service.current with
    | none => rfl
    | some d =>
      dsimp only
      rw [List.getD_eq_getElem?_getD]
      cases w.cuc.cfg.zones[d.num - 1]? with
      | none => rfl
      | some zs => cases zs <;> rfl

theorem truncatePhrases_eq (cfg : CueConfig) (ps : List Nat) :
    truncatePhrases cfg ps = if 48 < ps.length then ps.take 47 ++ [cfg.truncation] else ps := rfl

theorem resolve_eq (b : Base) (w : Work) (e : CueEntry) : resolve b w e =
    match e.speech b w, e.zoneSet w with
    | some ps, some zs =>
      if ps = [] then none
      else some (cueFrame w.cuc.opWidth zs e.priority (truncatePhrases w.cuc.cfg ps))
    | _, _ => none := by
  unfold resolve
  dsimp only
  rw [speech_eq, zoneSet_eq]
  cases e.speech b w with
  | none => rfl
  | some ps =>
    cases e.zoneSet w with
    | none => rfl
    | some zs => cases ps <;> rfl

theorem resolve_shape {b : Base} {w : Work} {e : CueEntry} {f : CueFrame} (h : resolve b w e = some f) :
    ∃ zs p ps, f = cueFrame w.cuc.opWidth zs p ps := by
  rw [resolve_eq] at h
  cases hs : e.speech b w with
  | none => rw [hs] at h; cases h
  | some ps =>
    cases hz : e.zoneSet w with
    | none => rw [hs, hz] at h; cases h
    | some zs =>
      rw [hs, hz] at h
      dsimp only at h
      split at h
      · cases h
      · cases h
        exact ⟨zs, _, _, rfl⟩

/-! ### The characters of a cue frame (R143) -/

theorem zoneByte_eq (zs : List Nat) : zoneByte zs = BitVec.ofNat 8 (zs.map fun z => 2 ^ (z - 1)).sum := by
  unfold zoneByte
  rw [List.sum_eq_foldr, List.foldr_map]

/-- The number that characters spell, the first the most significant. -/
def spelled (v : Nat) (bs : List Byte) : Nat := bs.foldl (fun v x => 256 * v + x.toNat) v

theorem spelled_append (v : Nat) (bs cs : List Byte) : spelled v (bs ++ cs) = spelled (spelled v bs) cs := List.foldl_append

theorem wideBytes_spelled (ps : List Nat) (v : Nat) (h : ∀ p ∈ ps, p ≤ 4095) :
    spelled v (phraseBytes .wide ps) = ps.foldl (fun v p => 65536 * v + p) v := by
  induction ps generalizing v with
  | nil => rfl
  | cons p ps ih =>
    have hp := h p (List.mem_cons_self ..)
    have hstep : spelled v [BitVec.ofNat 8 (p / 256), BitVec.ofNat 8 (p % 256)] = 65536 * v + p := by
      simp only [spelled, List.foldl, BitVec.toNat_ofNat]
      omega
    show spelled v ([BitVec.ofNat 8 (p / 256), BitVec.ofNat 8 (p % 256)] ++ phraseBytes .wide ps) = _
    rw [spelled_append, hstep]
    exact ih _ fun q hq => h q (List.mem_cons_of_mem _ hq)

theorem narrowBytes_spelled : ∀ (ps : List Nat) (v : Nat), (∀ p ∈ ps, p ≤ 4095) →
    spelled v (narrowBytes ps) = (if ps.length % 2 = 1 then 16 else 1) * ps.foldl (fun v p => 4096 * v + p) v
  | [], v, _ => (Nat.one_mul v).symm
  | [p], v, h => by
    have hp := h p (List.mem_cons_self ..)
    simp only [spelled, narrowBytes, List.foldl, BitVec.toNat_ofNat, List.length_singleton, if_true, Nat.one_mod]
    omega
  | p :: q :: ps, v, h => by
    have hp := h p (by simp)
    have hq := h q (by simp)
    have hstep : spelled v [BitVec.ofNat 8 (p / 16), BitVec.ofNat 8 (p % 16 * 16 + q / 256), BitVec.ofNat 8 (q % 256)] =
        4096 * (4096 * v + p) + q := by
      simp only [spelled, List.foldl, BitVec.toNat_ofNat]
      omega
    have hodd : (p :: q :: ps).length % 2 = ps.length % 2 := by
      simp only [List.length_cons]
      omega
    show spelled v ([BitVec.ofNat 8 (p / 16), BitVec.ofNat 8 (p % 16 * 16 + q / 256), BitVec.ofNat 8 (q % 256)] ++ narrowBytes ps) = _
    rw [spelled_append, hstep, narrowBytes_spelled ps _ fun r hr => h r (by simp [hr]), hodd]
    rfl

theorem wideBytes_length (ps : List Nat) : (phraseBytes .wide ps).length = 2 * ps.length := by
  have h := cueFrameBytes_length .wide ⟨[], 0, ps, 0⟩
  simp only [cueFrameBytes, cueFrameChars, List.length_cons] at h
  omega

theorem cueFrameChars_eq (width : PhraseWidth) (f : CueFrame) : cueFrameChars width f =
    match width with
    | .wide => 6 + 2 * f.phrases.length
    | .narrow => 6 + 3 * (f.phrases.length / 2) + 2 * (f.phrases.length % 2) := by
  cases width with
  | wide => rfl
  | narrow => exact (Nat.add_assoc ..).symm

/-! ### Entries of the queue changed and freed -/

theorem mem_updateEntry {c : Cuc} (hn : (c.queue.map CueEntry.seq).Nodup) {e : CueEntry} (he : e ∈ c.queue)
    {f : CueEntry → CueEntry} {q : CueEntry} :
    q ∈ (c.updateEntry e.seq f).queue ↔ q = f e ∨ (q ∈ c.queue ∧ q.seq ≠ e.seq) := by
  have same : ∀ p ∈ c.queue, p.seq = e.seq → p = e := fun p hp h => List.inj_on_of_nodup_map hn hp he h
  show q ∈ c.queue.map (fun p => if p.seq == e.seq then f p else p) ↔ _
  rw [List.mem_map]
  constructor
  · rintro ⟨p, hp, rfl⟩
    by_cases h : p.seq = e.seq
    · rw [if_pos (beq_iff_eq.mpr h), same p hp h]
      exact .inl rfl
    · rw [if_neg (by simpa using h)]
      exact .inr ⟨hp, h⟩
  · rintro (rfl | ⟨hq, hne⟩)
    · exact ⟨e, he, if_pos (beq_self_eq_true _)⟩
    · exact ⟨q, hq, if_neg (by simpa using hne)⟩

theorem mem_free {c : Cuc} {seq : BitVec 32} {q : CueEntry} : q ∈ (c.free seq).queue ↔ q ∈ c.queue ∧ q.seq ≠ seq := by
  simp [Cuc.free]

/-! ### One entry taken in hand (R140) -/

/-- R140 step 1: whether an entry requires a feed that is DEGRADED. -/
def Work.starves (w : Work) (e : CueEntry) : Prop := w.hlu.degraded = true ∧ e.template.requiresFeed = true

/-- R140: the entry after it is held back. -/
def CueEntry.heldBack (e : CueEntry) : CueEntry := { e with state := .held }

/-- R140 step 4: the entry after it is sent for a record. -/
def CueEntry.sentFor (x : Option Service) (e : CueEntry) : CueEntry :=
  { e with state := .sending, resolved := some (x.bind Service.current) }

/-- R140: what becomes of an entry taken in hand, by the first condition that applies. -/
inductive Taken (b : Base) (e : CueEntry) (w : Work) : Work → Prop
  | starved (h : w.starves e) : Taken b e w (w.dropEntry e .degraded)
  | held (h : ¬ w.starves e) (hl : w.interlocked e = true) : Taken b e w (w.mapCuc (Cuc.updateEntry e.seq CueEntry.heldBack))
  | unresolved (h : ¬ w.starves e) (hl : w.interlocked e = false) (hr : resolve b w e = none) :
      Taken b e w (w.dropEntry e .unresolved)
  | sent (h : ¬ w.starves e) (hl : w.interlocked e = false) (f : CueFrame) (hr : resolve b w e = some f) :
      Taken b e w (w.send b e f)

theorem takeEntry_taken (b : Base) (e : CueEntry) (w : Work) : Taken b e w (w.takeEntry b e) := by
  unfold Work.takeEntry
  split
  · next h => exact .starved (by simpa [Work.starves] using h)
  · next h =>
    have hs : ¬ w.starves e := by simpa [Work.starves] using h
    split
    · next hl => exact .held hs hl
    · next hl =>
      have hl' := Bool.eq_false_iff.mpr hl
      split
      · next hr => exact .unresolved hs hl' hr
      · next f hr => exact .sent hs hl' f hr

/-- R140: the entry that is sent, and no other, changes at a transmission. -/
theorem send_queue (b : Base) (e : CueEntry) (f : CueFrame) (w : Work) :
    (w.send b e f).cuc.queue = (w.cuc.updateEntry e.seq fun q => CueEntry.sentFor (w.entryService q) q).queue := rfl

/-- What selection reads and does not change. -/
structure Work.Seen (w u : Work) : Prop where
  cues : w.CuesOnly u
  kept : u.cuc.kept = w.cuc.kept
  degraded : u.hlu.degraded = w.hlu.degraded
  mask : u.hlu.mask = w.hlu.mask

theorem seen_refl (w : Work) : w.Seen w := ⟨cuesOnly_refl w, rfl, rfl, rfl⟩

theorem Work.Seen.trans {w v u : Work} (h : w.Seen v) (k : v.Seen u) : w.Seen u :=
  ⟨k.cues.after h.cues, k.kept.trans h.kept, k.degraded.trans h.degraded, k.mask.trans h.mask⟩

theorem Hlu.raise_degraded (r : ReportBody) (v : Hlu) : (v.raise r).degraded = v.degraded := by
  unfold Hlu.raise
  split
  · split <;> rfl
  · rfl

theorem seen_dropEntry (e : CueEntry) (r : DropReason) (w : Work) : w.Seen (w.dropEntry e r) :=
  ⟨cuesOnly_dropEntry e r w, rfl, Hlu.raise_degraded .., Work.raise_mask ..⟩

theorem Taken.seen {b : Base} {e : CueEntry} {w u : Work} (h : Taken b e w u) : w.Seen u := by
  cases h with
  | starved | unresolved => exact seen_dropEntry ..
  | held | sent => exact ⟨⟨rfl, rfl, rfl, rfl⟩, rfl, rfl, rfl⟩

theorem Work.Seen.entryService {w u : Work} (h : w.Seen u) (e : CueEntry) : u.entryService e = w.entryService e := by
  unfold Work.entryService
  rw [h.cues.svt]

theorem Work.Seen.confirmation {w u : Work} (h : w.Seen u) (x : Service) : u.confirmation x = w.confirmation x := by
  have hrow : ∀ c r, u.rowCell c r = w.rowCell c r := fun c r => by
    unfold Work.rowCell Work.cell
    rw [h.cues.bcp]
  have hu : u.unconfirmed x = w.unconfirmed x := funext fun n => by
    have hon : u.online n = w.online n := by
      unfold Work.online Work.board Work.string
      rw [h.cues.bcp, h.cues.wsc]
    have hbd : u.board n = w.board n := by
      unfold Work.board
      rw [h.cues.bcp]
    unfold Work.unconfirmed
    rw [hon, hbd]
    simp only [hrow]
  unfold Work.confirmation
  rw [hu]

theorem Work.Seen.starves {w u : Work} (h : w.Seen u) (e : CueEntry) : u.starves e ↔ w.starves e := by
  unfold Work.starves
  rw [h.degraded]

theorem Work.Seen.interlocked {w u : Work} (h : w.Seen u) (e : CueEntry) : u.interlocked e = w.interlocked e := by
  unfold Work.interlocked
  rw [h.entryService]
  cases w.entryService e with
  | none => rfl
  | some x => dsimp only; rw [h.confirmation]

theorem Work.Seen.resolve {w u : Work} (h : w.Seen u) (b : Base) (e : CueEntry) : resolve b u e = resolve b w e := by
  have hcfg : u.cuc.cfg = w.cuc.cfg := (congrArg Cuc.cfg h.kept :)
  have hwidth : u.cuc.opWidth = w.cuc.opWidth := (congrArg Cuc.opWidth h.kept :)
  unfold Machine.resolve
  rw [h.entryService, hcfg, hwidth]

theorem interlocked_iff (w : Work) (e : CueEntry) : w.interlocked e = true ↔
    e.template.needsShown = true ∧ ∃ x, e.record w = some x ∧ w.confirmation x ≠ [] := by
  unfold Work.interlocked
  rw [CueEntry.record_eq, Bool.and_eq_true]
  cases w.entryService e with
  | none => simp
  | some x => simp

/-! ### The entries taken one after another (R139) -/

theorem selectFrom_still {b : Base} {w : Work} (h : w.cuc.maySelect = false) (es : List CueEntry) : Work.selectFrom b es w = w := by
  cases es with
  | nil => rfl
  | cons e es => rw [Work.selectFrom, h]; rfl

theorem selectFrom_cons {b : Base} {w : Work} (h : w.cuc.maySelect = true) (e : CueEntry) (es : List CueEntry) :
    Work.selectFrom b (e :: es) w = Work.selectFrom b es (w.takeEntry b e) := by
  rw [Work.selectFrom, h]
  rfl

/-- What each entry of `es`, taken in hand, keeps. -/
theorem selectFrom_keeps {b : Base} {P : Work → Prop} {es : List CueEntry}
    (h : ∀ e ∈ es, ∀ w u, Taken b e w u → P w → P u) {w : Work} (hw : P w) : P (Work.selectFrom b es w) := by
  induction es generalizing w with
  | nil => exact hw
  | cons e es ih =>
    unfold Work.selectFrom
    split
    · exact ih (fun q hq => h q (List.mem_cons_of_mem _ hq)) (h e (List.mem_cons_self ..) _ _ (takeEntry_taken b e w) hw)
    · exact hw

/-- An entry with another sequence stays as it is. -/
theorem Taken.other {b : Base} {e : CueEntry} {w u : Work} (h : Taken b e w u) {q : CueEntry} (hne : q.seq ≠ e.seq)
    (hq : q ∈ w.cuc.queue) : q ∈ u.cuc.queue := by
  have updated : ∀ (f : CueEntry → CueEntry), q ∈ (w.cuc.updateEntry e.seq f).queue := fun f =>
    List.mem_map.mpr ⟨q, hq, if_neg (by simpa using hne)⟩
  cases h with
  | starved | unresolved => exact mem_free.mpr ⟨hq, hne⟩
  | held => exact updated _
  | sent => exact updated _

/-- The sequences that go are gone: no entry taken in hand brings one back. -/
theorem Taken.absent {b : Base} {e : CueEntry} {w u : Work} (h : Taken b e w u) {seq : BitVec 32}
    (hw : ∀ q ∈ w.cuc.queue, q.seq ≠ seq) : ∀ q ∈ u.cuc.queue, q.seq ≠ seq := by
  have updated : ∀ (f : CueEntry → CueEntry), (∀ q, (f q).seq = q.seq) → ∀ q ∈ (w.cuc.updateEntry e.seq f).queue, q.seq ≠ seq := by
    intro f hf q hq
    obtain ⟨p, hp, rfl⟩ := List.mem_map.mp hq
    split
    · rw [hf]; exact hw p hp
    · exact hw p hp
  cases h with
  | starved | unresolved => exact fun q hq => hw q (mem_free.mp hq).1
  | held => exact updated _ fun _ => rfl
  | sent => exact updated _ fun _ => rfl

theorem Taken.nodup {b : Base} {e : CueEntry} {w u : Work} (h : Taken b e w u) (hn : (w.cuc.queue.map CueEntry.seq).Nodup) :
    (u.cuc.queue.map CueEntry.seq).Nodup := by
  have updated : ∀ (f : CueEntry → CueEntry), (∀ q, (f q).seq = q.seq) →
      ((w.cuc.updateEntry e.seq f).queue.map CueEntry.seq).Nodup := by
    intro f hf
    have hsame : (w.cuc.updateEntry e.seq f).queue.map CueEntry.seq = w.cuc.queue.map CueEntry.seq := by
      show (w.cuc.queue.map fun q => if q.seq == e.seq then f q else q).map CueEntry.seq = _
      rw [List.map_map]
      refine List.map_congr_left fun q _ => ?_
      show (if q.seq == e.seq then f q else q).seq = q.seq
      split
      · exact hf q
      · rfl
    rw [hsame]
    exact hn
  cases h with
  | starved | unresolved => exact hn.sublist (List.filter_sublist.map _)
  | held => exact updated _ fun _ => rfl
  | sent => exact updated _ fun _ => rfl

/-- The entries `es` are still to be taken, each as it stands in the queue. -/
structure Untaken (es : List CueEntry) (w : Work) : Prop where
  seqs : (w.cuc.queue.map CueEntry.seq).Nodup
  apart : (es.map CueEntry.seq).Nodup
  here : ∀ e ∈ es, e ∈ w.cuc.queue

theorem untaken_filter {w : Work} (hn : (w.cuc.queue.map CueEntry.seq).Nodup) (p : CueEntry → Bool) : Untaken (w.cuc.queue.filter p) w :=
  ⟨hn, hn.sublist (List.filter_sublist.map _), fun _ he => (List.mem_filter.mp he).1⟩

theorem Untaken.ne {e : CueEntry} {es : List CueEntry} {w : Work} (h : Untaken (e :: es) w) :
    ∀ q ∈ es, q.seq ≠ e.seq := fun _ hq heq =>
  (List.nodup_cons.mp h.apart).1 (heq ▸ List.mem_map_of_mem hq)

theorem Untaken.next {b : Base} {e : CueEntry} {es : List CueEntry} {w u : Work} (h : Untaken (e :: es) w) (ht : Taken b e w u) :
    Untaken es u :=
  ⟨ht.nodup h.seqs, (List.nodup_cons.mp h.apart).2, fun q hq => ht.other (h.ne q hq) (h.here q (List.mem_cons_of_mem _ hq))⟩

/-- Nothing is on the link after an entry is dropped or held back. -/
theorem Taken.still {b : Base} {e : CueEntry} {w u : Work} (h : Taken b e w u)
    (hr : w.starves e ∨ w.interlocked e = true ∨ resolve b w e = none) :
    u.cuc.maySelect = w.cuc.maySelect := by
  cases h with
  | starved | held | unresolved => rfl
  | sent h hl f hf =>
    rcases hr with hr | hr | hr
    · exact absurd hr h
    · rw [hl] at hr; cases hr
    · rw [hf] at hr; cases hr

/-- R139: the entries before the first that goes are passed over. -/
theorem selectFrom_passed {b : Base} {passed rest : List CueEntry} {w : Work} (hmay : w.cuc.maySelect = true)
    (hu : Untaken (passed ++ rest) w) (hp : ∀ q ∈ passed, w.starves q ∨ w.interlocked q = true ∨ resolve b w q = none) :
    ∃ v, Work.selectFrom b (passed ++ rest) w = Work.selectFrom b rest v ∧ w.Seen v ∧ v.cuc.maySelect = true ∧ Untaken rest v := by
  induction passed generalizing w with
  | nil => exact ⟨w, rfl, seen_refl w, hmay, hu⟩
  | cons q qs ih =>
    have ht := takeEntry_taken b q w
    have hseen := ht.seen
    obtain ⟨v, hv, hsv, hmv, huv⟩ := ih ((ht.still (hp q (List.mem_cons_self ..))).trans hmay) (hu.next ht) fun p hpm => by
      rw [hseen.starves, hseen.interlocked, hseen.resolve]
      exact hp p (List.mem_cons_of_mem _ hpm)
    exact ⟨v, (selectFrom_cons hmay ..).trans hv, hseen.trans hsv, hmv, huv⟩

/-! ### What selection leaves -/

/-- R139, R140: the entry that a selection puts on the link may go there. -/
theorem selectFrom_sends {b : Base} {e : CueEntry} {es : List CueEntry} {w : Work} (hu : Untaken es w)
    (hnone : ∀ q ∈ w.cuc.queue, q.state ≠ .sending) (hes : ∀ q ∈ es, selectable b q = true)
    (he : e ∈ (Work.selectFrom b es w).cuc.queue) (hsend : e.state = .sending) :
    (∃ due, (Work.selectFrom b es w).cuc.link = .sending due) ∧ (b.fiu.override = true → e.source = .override) ∧
      ∀ x, e.template.needsShown = true → w.entryService e = some x → w.confirmation x = [] := by
  induction es generalizing w with
  | nil => exact absurd hsend (hnone e he)
  | cons q es ih =>
    by_cases hmay : w.cuc.maySelect = true
    · have ht := takeEntry_taken b q w
      have hseen := ht.seen
      rw [selectFrom_cons hmay] at he ⊢
      generalize w.takeEntry b q = u at *
      have again : (∀ p ∈ u.cuc.queue, p.state ≠ .sending) → _ := fun h =>
        ih (hu.next ht) h (fun p hp => hes p (List.mem_cons_of_mem _ hp)) he
      simp only [hseen.entryService, hseen.confirmation] at again
      cases ht with
      | starved | unresolved => exact again fun p hp => hnone p (mem_free.mp hp).1
      | held =>
        refine again fun p hp => ?_
        rcases (mem_updateEntry hu.seqs (hu.here q (List.mem_cons_self ..))).mp hp with rfl | ⟨hp, _⟩
        · exact fun h => by cases h
        · exact hnone p hp
      | sent h hl f hf =>
        rw [selectFrom_still (by rfl)] at he ⊢
        refine ⟨⟨_, rfl⟩, ?_⟩
        rw [send_queue] at he
        rcases (mem_updateEntry hu.seqs (hu.here q (List.mem_cons_self ..))).mp he with rfl | ⟨hp, _⟩
        · refine ⟨fun hov => ?_, fun x hx hrec => ?_⟩
          · have hsel := hes q (List.mem_cons_self ..)
            simp only [selectable, hov, Bool.and_eq_true, Bool.not_true, Bool.false_or, beq_iff_eq] at hsel
            exact hsel.2
          · by_contra hne
            have := (interlocked_iff w q).mpr ⟨hx, x, (CueEntry.record_eq w q).trans hrec, hne⟩
            rw [hl] at this
            cases this
        · exact absurd hsend (hnone e hp)
    · rw [selectFrom_still (Bool.eq_false_iff.mpr hmay)] at he
      exact absurd hsend (hnone e he)

/-- R140: what a drop leaves once the entries behind it are taken. -/
theorem dropEntry_freed {b : Base} {e : CueEntry} {r : DropReason} {later : List CueEntry} {v : Work} :
    (∀ q ∈ (Work.selectFrom b later (v.dropEntry e r)).cuc.queue, q.seq ≠ e.seq) ∧
      (v.hlu.mask.contains .cue = true → (Work.selectFrom b later (v.dropEntry e r)).hlu.lost = false →
        ∃ rep ∈ (Work.selectFrom b later (v.dropEntry e r)).hlu.reports, rep.body = dropReport e r) := by
  refine ⟨selectFrom_keeps (P := fun u => ∀ q ∈ u.cuc.queue, q.seq ≠ e.seq) (fun _ _ w u ht h => ht.absent h)
    fun q hq => (mem_free.mp hq).2, fun hm hl => ?_⟩
  have hgrow := (v.dropEntry e r).selectFrom_grows (P := fun _ => True) trivial b later
  exact grows_raised (w := v.mapCuc (Cuc.free e.seq)) hgrow hm hl

/-- Settles O38: an induction over the entries passed over, and the one that follows them. -/
theorem selectionObeysTheInterlock : Obligations.SelectionObeysTheInterlock := by
  refine ⟨?_, ?_, ?_, ?_, ?_⟩
  · intro b w e hn hnone he hsend
    unfold Work.select at he ⊢
    split at he
    · next hmay =>
      rw [if_pos hmay]
      exact selectFrom_sends (untaken_filter hn _) hnone (fun q hq => (List.mem_filter.mp hq).2) he hsend
    · exact absurd hsend (hnone e he)
  · rintro b w (hgate | hnothing)
    · exact select_of_still (Bool.eq_false_iff.mpr fun h => hgate ((Cuc.maySelect_iff _).mp h))
    · have hnil : w.cuc.queue.filter (selectable b) = [] := List.filter_eq_nil_iff.mpr fun q hq hsel => by
        simp only [selectable, Bool.and_eq_true, Bool.or_eq_true, Bool.not_eq_true', beq_iff_eq] at hsel
        obtain ⟨hov, hsrc⟩ := hnothing q hq hsel.1
        rcases hsel.2 with h | h
        · rw [hov] at h; cases h
        · exact hsrc h
      unfold Work.select
      rw [hnil]
      exact ite_self _
  · intro b w passed later e hlink hdis hpa hres hn hsel starved locked u freed hpassed
    have hmay : w.cuc.maySelect = true := (Cuc.maySelect_iff _).mpr ⟨hlink, hdis, hpa, hres⟩
    have hu : Untaken (passed ++ e :: later) w := hsel ▸ untaken_filter hn _
    obtain ⟨v, hv, hseen, hmv, huv⟩ := selectFrom_passed hmay hu fun q hq => by
      rw [interlocked_iff]
      exact hpassed q hq
    have hselect : w.select b = Work.selectFrom b later (v.takeEntry b e) := by
      rw [← selectFrom_cons hmv, ← hv, ← hsel]
      exact if_pos hmay
    have hlocked : v.interlocked e = true ↔ locked e := by rw [hseen.interlocked, interlocked_iff]
    have hstarved : v.starves e ↔ starved e := hseen.starves e
    have hwithin := huv.here e (List.mem_cons_self ..)
    have hkeep : ∀ {x : Work} {q : CueEntry}, q.seq = e.seq → q ∈ x.cuc.queue → q ∈ (Work.selectFrom b later x).cuc.queue :=
      fun {x q} hq hqx => selectFrom_keeps (P := fun u => q ∈ u.cuc.queue)
        (fun p hp _ _ ht hmem => ht.other (fun h => huv.ne p hp (h.symm.trans hq)) hmem) hqx
    have hfreed : ∀ why, u = Work.selectFrom b later (v.dropEntry e why) → freed e why := fun why hx => by
      obtain ⟨habsent, hraised⟩ := dropEntry_freed (b := b) (e := e) (r := why) (later := later) (v := v)
      rw [← hx] at habsent hraised
      rw [hseen.mask] at hraised
      exact ⟨habsent, hraised⟩
    have ht := takeEntry_taken b e v
    generalize v.takeEntry b e = x at ht hselect
    cases ht with
    | starved h => exact ⟨fun _ => hfreed _ hselect, fun k => absurd (hstarved.mp h) k, fun k => absurd (hstarved.mp h) k,
        fun _ k => absurd (hstarved.mp h) k⟩
    | held h hl =>
      have hl' := hlocked.mp hl
      refine ⟨fun k => absurd (hstarved.mpr k) h, fun _ _ => ?_, fun _ k => absurd hl' k, fun _ _ k => absurd hl' k⟩
      show _ ∈ (w.select b).cuc.queue
      rw [hselect]
      exact hkeep rfl ((mem_updateEntry huv.seqs hwithin).mpr (.inl rfl))
    | unresolved h hl hr =>
      rw [hseen.resolve] at hr
      exact ⟨fun k => absurd (hstarved.mpr k) h, fun _ k => absurd (hlocked.mpr k) (by rw [hl]; decide),
        fun _ _ _ => hfreed _ hselect, fun f _ _ hf => by rw [hr] at hf; cases hf⟩
    | sent h hl f hf =>
      rw [hseen.resolve] at hf
      refine ⟨fun k => absurd (hstarved.mpr k) h, fun _ k => absurd (hlocked.mpr k) (by rw [hl]; decide),
        fun _ _ k => (by rw [hf] at k; cases k), fun g _ _ hg => ?_⟩
      obtain rfl : f = g := Option.some.inj (hf.symm.trans hg)
      rw [selectFrom_still (by rfl)] at hselect
      have hwidth : v.cuc.opWidth = w.cuc.opWidth := (congrArg Cuc.opWidth hseen.kept :)
      have hrate : v.cuc.opRate = w.cuc.opRate := (congrArg Cuc.opRate hseen.kept :)
      show _ ∈ (w.select b).cuc.queue ∧ (∀ q ∈ later, q ∈ (w.select b).cuc.queue) ∧ (w.select b).cuc.frame = _ ∧ (w.select b).cuc.link = _
      rw [hselect, send_queue, CueEntry.record_eq, ← hseen.entryService]
      refine ⟨(mem_updateEntry huv.seqs hwithin).mpr (.inl rfl), fun q hq => (mem_updateEntry huv.seqs hwithin).mpr
        (.inr ⟨huv.here q (List.mem_cons_of_mem _ hq), huv.ne q hq⟩), rfl, ?_⟩
      show LinkState.sending (1000 * b.elapsed + cueFrameChars v.cuc.opWidth f * cueCharMicros v.cuc.opRate) = _
      rw [hwidth, hrate]
      exact congrArg (fun k => LinkState.sending (1000 * b.elapsed + k * cueCharMicros w.cuc.opRate)) (cueFrameChars_eq w.cuc.opWidth f)
  · intro b w e
    rw [resolve_eq]
    cases e.speech b w with
    | none => rfl
    | some ps =>
      cases e.zoneSet w with
      | none => rfl
      | some zs =>
        dsimp only
        by_cases h : ps = []
        · rw [if_pos h, if_pos h]; rfl
        · rw [if_neg h, if_neg h]; rfl
  · intro b w e f hf hsmall n
    obtain ⟨zs, p, ps, rfl⟩ := resolve_shape hf
    refine ⟨phraseBytes w.cuc.opWidth ps, ?_, ?_⟩
    · show crc16 (cueFrameBytes _ zs p ps) = _
      rw [cueFrameBytes, zoneByte_eq]
      rfl
    · cases w.cuc.opWidth with
      | wide => exact ⟨wideBytes_length ps, wideBytes_spelled ps 0 hsmall⟩
      | narrow => exact ⟨narrowBytes_length ps, narrowBytes_spelled ps 0 hsmall⟩

end Sys2Proof.Machine
end

section
/-!
PROOF. RESTART (R187, R151): its reply, and what it makes of every block once that is sent.
-/

namespace Sys2Proof.Machine

/-! ### A part without services and waiting cues -/

/-- R187: what RESTART leaves first: no record is held and no cue waits. -/
def Work.Emptied (w : Work) : Prop := w.svt.services = [] ∧ ∀ e ∈ w.cuc.queue, e.isWaiting = false

/-- Records, cues, watches and reports stay. -/
structure Work.Silent (w u : Work) : Prop where
  svt : u.svt = w.svt
  cuc : u.cuc = w.cuc
  nre : u.nre = w.nre
  hlu : u.hlu = w.hlu

theorem silent_refl (w : Work) : w.Silent w := ⟨rfl, rfl, rfl, rfl⟩

theorem Work.Silent.trans {w v u : Work} (h : w.Silent v) (k : v.Silent u) : w.Silent u :=
  ⟨k.svt.trans h.svt, k.cuc.trans h.cuc, k.nre.trans h.nre, k.hlu.trans h.hlu⟩

theorem Work.Emptied.silent {w u : Work} (h : w.Emptied) (k : w.Silent u) : u.Emptied := by
  unfold Work.Emptied
  rw [k.svt, k.cuc]
  exact h

theorem CueEntry.not_waiting {e : CueEntry} (h : e.isWaiting = false) : e.state ≠ .queued ∧ e.state ≠ .held := by
  simpa [CueEntry.isWaiting] using h

theorem Work.Emptied.select {w : Work} (h : w.Emptied) (b : Base) : w.select b = w :=
  select_of_empty fun q hq => (CueEntry.not_waiting (h.2 q hq)).1

theorem Work.Emptied.confirmChange {w : Work} (h : w.Emptied) (key : Key) (seq : BitVec 32) (on : Bool) :
    w.mapCuc (Cuc.confirmChange key seq on) = w := by
  have hqueue : (w.cuc.confirmChange key seq on) = w.cuc := by
    have hmap : (w.cuc.confirmChange key seq on).queue = w.cuc.queue := by
      refine (List.map_congr_left fun e he => ?_).trans (List.map_id' w.cuc.queue)
      obtain ⟨hq, hh⟩ := CueEntry.not_waiting (h.2 e he)
      rw [if_neg (show ¬ ((e.state == .queued && e.template.needsShown) = true) by simp [hq]),
        if_neg (show ¬ ((e.state == .held) = true) by simpa using hh), ite_self, ite_self]
    exact congrArg (fun q => { w.cuc with queue := q }) hmap
  unfold Work.mapCuc
  rw [hqueue]

/-- R136, R139: a derivation tells nobody where no record is held and no cue waits. -/
theorem silentKept : DeriveMoves fun w u => w.Emptied → w.Silent u where
  refl w _ := silent_refl w
  trans h k e := (h e).trans (k (e.silent (h e)))
  offer b s a c w _ := by
    rw [Work.offer_eq]
    exact ⟨rfl, rfl, rfl, rfl⟩
  cell _ _ _ _ _ _ := ⟨rfl, rfl, rfl, rfl⟩
  board _ _ _ _ _ := ⟨rfl, rfl, rfl, rfl⟩
  conf w e := by
    refine ⟨?_, rfl, rfl, rfl⟩
    unfold Work.storeConfirmations
    have hnone : (w.svt.services.map fun x => { x with conf := w.confirmation x }) = w.svt.services := by rw [e.1]; rfl
    rw [hnone]
  confirm key seq on w e := by
    rw [e.confirmChange]
    exact silent_refl w
  select b w e := by
    rw [e.select]
    exact silent_refl w

/-! ### Strings that drain (R106) -/

/-- R106: a string that drains has discarded its queue. -/
def Work.Discarded (w : Work) : Prop := ∀ u ∈ w.wsc, u.drain = true → u.queue = []

theorem discarded_setString {n : Nat} {f : WallString → WallString} {w : Work} (hw : w.Discarded)
    (h : ∀ u, (u.drain = true → u.queue = []) → (f u).drain = true → (f u).queue = []) : (w.setString n f).Discarded := by
  intro u hu
  obtain ⟨i, hi⟩ := List.mem_iff_getElem?.mp (show u ∈ w.wsc.modify n f from hu)
  rw [List.getElem?_modify] at hi
  obtain ⟨v, hv, hvu⟩ := Option.map_eq_some_iff.mp hi
  have hmem := hw v (List.mem_of_getElem? hv)
  split at hvu
  · exact hvu ▸ h v hmem
  · exact hvu ▸ hmem

theorem WallString.offer_drained {e a : Nat} {c : RowContent} {u : WallString} (h : u.drain = true → u.queue = [])
    (hd : (u.offer e a c).1.drain = true) : (u.offer e a c).1.queue = [] := by
  have hkept : (u.offer e a c).1.drain = u.drain := (congrArg WallString.drain (WallString.offer_kept e a c u) :)
  rw [hkept] at hd
  rw [WallString.offer_refused (.inr hd)]
  exact h hd

/-- R94: no offer joins the queue of a string that drains. -/
theorem discardedKept : DeriveMoves fun w u => w.Discarded → u.Discarded where
  refl _ h := h
  trans h k := k ∘ h
  offer b s a c w h := by
    rw [Work.offer_eq]
    show (w.setString s fun _ => ((w.string s).offer b.elapsed a c).1).Discarded
    by_cases hs : s < w.wsc.length
    · have hmem := h (w.string s) (by
        rw [Work.string, List.getD_eq_getElem?_getD, List.getElem?_eq_getElem hs]
        exact List.getElem_mem hs)
      exact discarded_setString h fun _ _ => WallString.offer_drained hmem
    · have hsame : w.wsc.modify s (fun _ => ((w.string s).offer b.elapsed a c).1) = w.wsc := by
        rw [List.modify_eq_set_getElem?, List.getElem?_eq_none (Nat.not_lt.mp hs)]
        rfl
      unfold Work.Discarded Work.setString
      rw [hsame]
      exact h
  cell _ _ _ _ _ h := h
  board _ _ _ _ h := h
  conf _ h := h
  confirm _ _ _ _ h := h
  select b w h := by
    unfold Work.Discarded
    rw [(cuesOnly_select b w).wsc]
    exact h

/-! ### The wall (R65, R106) -/

theorem foldl_bcp {α : Type} {f : Work → α → Work} (h : ∀ w a, ∃ c, f w a = { w with bcp := c }) (l : List α) (w : Work) :
    ∃ c, l.foldl f w = { w with bcp := c } := by
  induction l generalizing w with
  | nil => exact ⟨w.bcp, rfl⟩
  | cons a l ih =>
    obtain ⟨c, hc⟩ := h w a
    obtain ⟨d, hd⟩ := ih (f w a)
    exact ⟨d, by rw [List.foldl_cons, hd, hc]⟩

theorem clearBoards_bcp (w : Work) : ∃ c, w.clearBoards = { w with bcp := c } := by
  unfold Work.clearBoards
  dsimp only
  generalize (w.bcp.boards.map _) = boards
  obtain ⟨c, hc⟩ := foldl_bcp (f := fun w n => match w.board n with
    | some bd => bd.record.rowList.foldl (fun w r => w.setCell bd.record.string (bd.record.address r) fun c =>
        { c with onWall := none, released := false, heldBack := false }) w
    | none => w) (fun v n => by
      split
      · exact foldl_bcp (fun u r => ⟨_, rfl⟩) _ v
      · exact ⟨v.bcp, rfl⟩) (List.range 16) { w with bcp := { w.bcp with boards := boards, recompose := true } }
  exact ⟨c, hc⟩

theorem clearBoards_silent (w : Work) : w.Silent w.clearBoards := by
  obtain ⟨c, hc⟩ := clearBoards_bcp w
  rw [hc]
  exact ⟨rfl, rfl, rfl, rfl⟩

theorem clearBoards_wsc (w : Work) : w.clearBoards.wsc = w.wsc := by
  obtain ⟨c, hc⟩ := clearBoards_bcp w
  rw [hc]

theorem clearBoards_settled (w : Work) : w.clearBoards.settled =
    { w.settled with bcp := { w.settled.bcp with recompose := true } } := by
  have hboards : ((w.bcp.boards.map (Option.map fun bd => { bd with eligible := [], page := 0, timer := 0 })).map
      (Option.map Board.kept)) = w.bcp.boards.map (Option.map Board.kept) := by
    rw [List.map_map]
    exact List.map_congr_left fun o _ => by cases o <;> rfl
  unfold Work.clearBoards
  dsimp only
  rw [kept_settled (kept_foldl _ (fun v n => ?_) _ _)]
  · exact congrArg (fun l => { w.settled with bcp := { w.settled.bcp with boards := l, recompose := true } }) hboards
  · split
    · exact kept_foldl _ (fun v r => v.setCell_kept ..) _ v
    · rfl

theorem settled_recompose (w : Work) : w.settled.bcp.recompose = w.bcp.recompose := rfl

theorem clearBoards_recompose (w : Work) : w.clearBoards.bcp.recompose = true := by
  rw [← settled_recompose, clearBoards_settled]

/-- One step of the discarding of the queues (R106). -/
theorem drainStep_wsc (w : Work) (n : Nat) :
    ((w.setString n WallString.restart).dropDiscarded n (w.string n).queue).wsc = w.wsc.modify n WallString.restart := by
  obtain ⟨c, hc⟩ := foldl_bcp (f := fun w (f : WallFrame) => w.setCell n f.address fun c => { c with outstanding := c.outstanding.dropLast })
    (fun u f => ⟨_, rfl⟩) (w.string n).queue (w.setString n WallString.restart)
  rw [Work.dropDiscarded, hc]
  rfl

theorem foldl_modify_four {α : Type} (f : α → α) : ∀ l : List α, l.length = 4 →
    (List.range 4).foldl (fun l s => l.modify s f) l = l.map f
  | [_, _, _, _], _ => rfl

theorem drainStrings_wsc {w : Work} (h : w.wsc.length = 4) : w.drainStrings.wsc = w.wsc.map WallString.restart := by
  rw [← foldl_modify_four _ _ h]
  exact (List.foldl_hom Work.wsc fun w n => (drainStep_wsc w n).symm).symm

theorem drainStrings_silent (w : Work) : w.Silent w.drainStrings ∧ w.drainStrings.bcp.kept = w.bcp.kept := by
  have step : ∀ (v : Work) n, v.Silent ((v.setString n WallString.restart).dropDiscarded n (v.string n).queue) ∧
      ((v.setString n WallString.restart).dropDiscarded n (v.string n).queue).bcp.kept = v.bcp.kept := fun v n => by
    have hkept : ((v.setString n WallString.restart).dropDiscarded n (v.string n).queue).kept = (v.setString n WallString.restart).kept :=
      kept_foldl _ (fun u f => u.setCell_kept ..) _ _
    obtain ⟨c, hc⟩ := foldl_bcp (f := fun w (f : WallFrame) => w.setCell n f.address fun c =>
      { c with outstanding := c.outstanding.dropLast }) (fun u f => ⟨_, rfl⟩) (v.string n).queue (v.setString n WallString.restart)
    refine ⟨?_, (congrArg Work.bcp hkept :)⟩
    rw [Work.dropDiscarded, hc]
    exact ⟨rfl, rfl, rfl, rfl⟩
  have many : ∀ (l : List Nat) (v : Work), v.Silent (l.foldl (fun w s =>
      (w.setString s WallString.restart).dropDiscarded s (w.string s).queue) v) ∧ (l.foldl (fun w s =>
      (w.setString s WallString.restart).dropDiscarded s (w.string s).queue) v).bcp.kept = v.bcp.kept := by
    intro l
    induction l with
    | nil => exact fun v => ⟨silent_refl v, rfl⟩
    | cons n l ih => exact fun v => ⟨(step v n).1.trans (ih _).1, (ih _).2.trans (step v n).2⟩
  exact many _ w

/-- R106: whether a string drains after RESTART. -/
def WallString.drains (u : WallString) : Bool := u.drain || u.inFlight.isSome

theorem drainCheck_exact (b : Base) (w : Work) (h : w.bcp.recompose = true) : (w.drainCheck b).settled =
    { w.settled with bcp := { w.settled.bcp with recompose := w.wsc.any WallString.drain } } := by
  have hany : w.wsc.any WallString.drain = !w.wsc.all fun s => !s.drain := by
    rw [List.not_all_eq_any_not]
    simp
  unfold Work.drainCheck
  rw [h, Bool.true_and, hany]
  split
  · next hall =>
    rw [hall]
    exact recomposeBoards_settled b w
  · next hall =>
    have hall' : (w.wsc.all fun s => !s.drain) = false := Bool.eq_false_iff.mpr hall
    rw [hall']
    show w.settled = _
    have hrec : w.settled.bcp = { w.settled.bcp with recompose := true } := by
      show w.bcp.kept = { w.bcp.kept with recompose := true }
      rw [← h]
      rfl
    rw [Bool.not_false, ← hrec]

theorem drainStrings_settled {w : Work} (h4 : w.wsc.length = 4) : w.drainStrings.settled =
    { w.settled with wsc := w.wsc.map fun u => { u.kept with drain := u.drains } } := by
  obtain ⟨⟨hsvt, hcuc, hnre, hhlu⟩, hbcp⟩ := drainStrings_silent w
  have hmap : w.drainStrings.wsc.map WallString.kept = w.wsc.map fun u => { u.kept with drain := u.drains } := by
    rw [drainStrings_wsc h4, List.map_map]
    rfl
  unfold Work.settled Work.kept
  rw [hsvt, hcuc, hnre, hhlu, hbcp, hmap]

theorem drainStrings_discarded {w : Work} (h4 : w.wsc.length = 4) : w.drainStrings.Discarded := by
  unfold Work.Discarded
  rw [drainStrings_wsc h4]
  intro u hu _
  obtain ⟨v, -, rfl⟩ := List.mem_map.mp hu
  rfl

theorem drainStrings_drains {w : Work} (h4 : w.wsc.length = 4) :
    w.drainStrings.wsc.any WallString.drain = w.wsc.any WallString.drains := by
  rw [drainStrings_wsc h4, List.any_map]
  rfl

/-- R65, R106: the recomposition at RESTART: what it settles, whom it tells, and what it offers. -/
theorem recomposed_effect {b : Base} {changed : Bool} {x : Work} (hrec : x.bcp.recompose = true) :
    let u := if (x.drainCheck b).bcp.recompose && changed then (x.drainCheck b).deriveAll b else x.drainCheck b
    (x.Emptied → x.Silent u) ∧ (x.Discarded → u.Discarded) ∧ u.settled =
      { x.settled with bcp := { x.settled.bcp with recompose := x.wsc.any WallString.drain } } := by
  have hsilent : x.Emptied → x.Silent (x.drainCheck b) :=
    drainCheck_moves silentKept (fun _ _ _ _ => ⟨rfl, rfl, rfl, rfl⟩) (fun _ _ => ⟨rfl, rfl, rfl, rfl⟩) b x
  have hqueues : x.Discarded → (x.drainCheck b).Discarded :=
    drainCheck_moves discardedKept (fun _ _ _ h => h) (fun _ h => h) b x
  have hsettled := drainCheck_exact b x hrec
  generalize x.drainCheck b = v at hsilent hqueues hsettled
  dsimp only
  split
  · refine ⟨fun h => silentKept.trans hsilent (silentKept.deriveAll b v) h, fun h => discardedKept.deriveAll b v (hqueues h), ?_⟩
    rw [kept_settled (Work.deriveAll_kept ..), hsettled]
  · exact ⟨hsilent, hqueues, hsettled⟩

/-- R65, R106: what RESTART leaves of the wall. -/
theorem restartWall_effect {b : Base} {changed : Bool} {w : Work} (hw : w.Emptied) (h4 : w.wsc.length = 4) :
    w.Silent (w.restartWall b changed) ∧ (w.restartWall b changed).Discarded ∧ (w.restartWall b changed).settled =
      { w.settled with
        wsc := w.wsc.map fun u => { u.kept with drain := u.drains }
        bcp := { w.settled.bcp with recompose := w.wsc.any WallString.drains } } := by
  have hcleared := clearBoards_settled w.drainStrings
  have hsilent := (drainStrings_silent w).1.trans (clearBoards_silent w.drainStrings)
  have hqueues : w.drainStrings.clearBoards.Discarded := by
    unfold Work.Discarded
    rw [clearBoards_wsc]
    exact drainStrings_discarded h4
  obtain ⟨h1, h2, h3⟩ := recomposed_effect (b := b) (changed := changed) (clearBoards_recompose w.drainStrings)
  rw [clearBoards_wsc, drainStrings_drains h4, hcleared, drainStrings_settled h4] at h3
  exact ⟨hsilent.trans (h1 (hw.silent hsilent)), h2 hqueues, h3⟩

/-! ### The cue queue (R151) -/

/-- R151: what RESTART leaves of the Cue Controller. -/
theorem restartCues_effect (w : Work) :
    let c := w.cuc
    let kept := c.queue.filter fun q => q.state != .queued && q.state != .held
    match c.link with
    | .sending due => w.restartCues.hlu = w.hlu ∧ w.restartCues.cuc = { c with
        queue := kept.map fun q => if q.state = .sending then { q with unobserved := true } else q } ∧ c.link = .sending due
    | .awaitAccept _ | .playing _ => (w.restartCues.cuc.link = if c.busy then .blocked else .idle) ∧ w.restartCues.cuc.frame = none ∧
        (∀ q ∈ w.restartCues.cuc.queue, q ∈ kept) ∧ (c.onLink = none → w.restartCues.hlu = w.hlu) ∧
        ∀ e, c.onLink = some e → (w.restartCues.cuc.queue = kept.filter fun q => q.seq != e.seq) ∧
          w.restartCues.hlu = w.hlu.raise (.cueDone e.number e.key e.source e.seq .unobserved e.resolved)
    | .disabled | .idle | .blocked => w.restartCues.hlu = w.hlu ∧ w.restartCues.cuc = { c with queue := kept } := by
  intro c kept
  have hkept : (c.queue.filter fun e => !e.isWaiting) = kept := List.filter_congr fun q _ => by simp [CueEntry.isWaiting, bne]
  have honLink : ({ c with queue := kept } : Cuc).onLink = c.onLink := by
    show kept.find? _ = c.queue.find? _
    rw [← hkept, List.find?_filter]
    congr 1
    funext q
    simp
  obtain ⟨v, hv⟩ : ∃ v : Work, v = { w with cuc := { c with queue := kept } } := ⟨_, rfl⟩
  have hrestart : w.restartCues = match v.cuc.link with
      | .sending _ => v.mapCuc Cuc.markUnobserved
      | .awaitAccept _ | .playing _ => v.endEntry (fun e => doneReport e .unobserved) v.cuc.restLink
      | _ => v := by
    rw [hv, ← hkept]
    rfl
  have hvcuc : v.cuc = { c with queue := kept } := by rw [hv]
  have hvhlu : v.hlu = w.hlu := by rw [hv]
  rw [show v.cuc.link = c.link by rw [hvcuc]] at hrestart
  cases hl : c.link with
  | disabled | idle | blocked =>
    rw [hl] at hrestart
    have hrestart : w.restartCues = v := hrestart
    rw [hrestart]
    exact ⟨hvhlu, by rw [hvcuc, hl]⟩
  | sending due =>
    rw [hl] at hrestart
    have hrestart : w.restartCues = v.mapCuc Cuc.markUnobserved := hrestart
    rw [hrestart]
    refine ⟨hvhlu, ?_, rfl⟩
    show v.cuc.markUnobserved = _
    rw [hvcuc, hl]
    simp only [Cuc.markUnobserved, Cuc.mapQueue, beq_iff_eq]
  | awaitAccept due | playing due =>
    rw [hl] at hrestart
    have hrestart : w.restartCues = v.endEntry (fun e => doneReport e .unobserved) v.cuc.restLink := hrestart
    have hrest : v.cuc.restLink = if c.busy then .blocked else .idle := by rw [hvcuc]; rfl
    have hv' : v.cuc.onLink = c.onLink := by rw [hvcuc, honLink]
    rw [hrest] at hrestart
    cases he : c.onLink with
    | none =>
      have hend : w.restartCues = v.mapCuc fun c => { c with link := if w.cuc.busy then .blocked else .idle, frame := none } := by
        rw [hrestart]
        unfold Work.endEntry
        rw [hv', he]
      rw [hend]
      exact ⟨rfl, rfl, fun q hq => (by rw [Work.mapCuc, hvcuc] at hq; exact hq), fun _ => hvhlu, fun e k => nomatch k⟩
    | some e =>
      rw [Work.endEntry_eq (hv'.trans he)] at hrestart
      have hqueue : w.restartCues.cuc.queue = kept.filter fun q => q.seq != e.seq := by rw [hrestart, hvcuc]
      refine ⟨by rw [hrestart], by rw [hrestart], fun q hq => ?_, (fun k => nomatch k), fun e' k => ?_⟩
      · rw [hqueue] at hq
        exact (List.mem_filter.mp hq).1
      · cases k
        exact ⟨hqueue, by rw [hrestart, hvhlu]; rfl⟩

theorem cuesOnly_endEntry (r : CueEntry → ReportBody) (next : LinkState) (w : Work) : w.CuesOnly (w.endEntry r next) := by
  unfold Work.endEntry
  split <;> exact ⟨rfl, rfl, rfl, rfl⟩

theorem cuesOnly_restartCues (w : Work) : w.CuesOnly w.restartCues := by
  unfold Work.restartCues
  dsimp only
  split
  · exact ⟨rfl, rfl, rfl, rfl⟩
  · exact (cuesOnly_endEntry ..).after ⟨rfl, rfl, rfl, rfl⟩
  · exact (cuesOnly_endEntry ..).after ⟨rfl, rfl, rfl, rfl⟩
  · exact ⟨rfl, rfl, rfl, rfl⟩

theorem restartCues_kept (w : Work) : w.restartCues.kept = w.kept := by
  unfold Work.restartCues
  dsimp only
  split
  · rfl
  · exact Work.endEntry_kept ..
  · exact Work.endEntry_kept ..
  · rfl

/-- R151: no cue waits after RESTART. -/
theorem restartCues_waiting (w : Work) : ∀ q ∈ w.restartCues.cuc.queue, q.isWaiting = false := by
  have hkept : ∀ q ∈ w.cuc.queue.filter (fun q => q.state != .queued && q.state != .held), q.isWaiting = false := fun q hq => by
    have := (List.mem_filter.mp hq).2
    simp only [bne_iff_ne, ne_eq, Bool.and_eq_true] at this
    simp [CueEntry.isWaiting, this]
  have heffect := restartCues_effect w
  dsimp only at heffect
  intro q hq
  cases hl : w.cuc.link with
  | disabled | idle | blocked =>
    rw [hl] at heffect
    rw [heffect.2] at hq
    exact hkept q hq
  | sending due =>
    rw [hl] at heffect
    rw [heffect.2.1] at hq
    obtain ⟨p, hp, rfl⟩ := List.mem_map.mp hq
    have := hkept p hp
    split <;> exact this
  | awaitAccept due | playing due =>
    rw [hl] at heffect
    exact hkept q (heffect.2.2.1 q hq)

/-! ### The exit from override and the feed (R175, R187) -/

/-- R182: reports are raised, and the feed's record is written; the rest of the part stays. -/
structure Work.Tells (w u : Work) : Prop where
  rest : u = { w with hlu := u.hlu }
  mask : u.hlu.mask = w.hlu.mask
  timeout : u.hlu.feedTimeout = w.hlu.feedTimeout
  grows : w.Grows (fun _ => True) u

theorem Work.Tells.trans {w v u : Work} (h : w.Tells v) (k : v.Tells u) : w.Tells u :=
  ⟨by rw [k.rest, h.rest], k.mask.trans h.mask, k.timeout.trans h.timeout, grows_trans h.grows k.grows⟩

theorem Work.Tells.settled {w u : Work} (h : w.Tells u) : u.settled = w.settled := by
  rw [h.rest]
  exact settled_hlu h.mask h.timeout

theorem Work.Tells.emptied {w u : Work} (h : w.Tells u) (e : w.Emptied) : u.Emptied := by
  rw [h.rest]
  exact e

theorem tells_refl (w : Work) : w.Tells w := ⟨rfl, rfl, rfl, grows_refl w⟩

theorem tells_raise (r : ReportBody) (w : Work) : w.Tells (w.raise r) := by
  have ht : (w.hlu.raise r).feedTimeout = w.hlu.feedTimeout := by
    unfold Hlu.raise
    split
    · split <;> rfl
    · rfl
  exact ⟨rfl, w.raise_mask r, ht, w.raise_grows trivial⟩

theorem restartOverride_tells {b : Base} {was : Bool} {w : Work} (h : w.Emptied) : w.Tells (w.restartOverride b was) := by
  unfold Work.restartOverride
  split
  · have hraised := tells_raise (.overrideExited .restart b.fiu.keys b.fiu.forced) w
    have hexit : ∀ v : Work, v.Emptied → v.cueOverrideExit b = v := fun v hv => by
      have hnone : (v.cuc.queue.filter fun e => e.isWaiting && e.source == .override) = [] :=
        List.filter_eq_nil_iff.mpr fun e he => by simp [hv.2 e he]
      rw [Work.cueOverrideExit, Work.dropWaiting, hnone]
      exact hv.select b
    rw [hexit _ (hraised.emptied h)]
    exact hraised
  · exact tells_refl w

theorem restartFeed_tells (w : Work) : w.Tells w.restartFeed ∧ w.restartFeed.hlu.feedCount = 0 ∧ w.restartFeed.hlu.degraded = false := by
  have hclear : w.Tells { w with hlu := { w.hlu with feedCount := 0, degraded := false } } := ⟨rfl, rfl, rfl, grows_of_rep rfl rfl⟩
  unfold Work.restartFeed
  dsimp only
  split
  · refine ⟨hclear.trans (tells_raise ..), ?_, Hlu.raise_degraded ..⟩
    show (Hlu.raise _ _).feedCount = 0
    unfold Hlu.raise
    split
    · split <;> rfl
    · rfl
  · exact ⟨hclear, rfl, rfl⟩

/-! ### RESTART taking effect (R187) -/

theorem clearTables_settled (w : Work) : w.clearTables.settled =
    { w.settled with svt := { w.settled.svt with services := [] } } := kept_settled (restartCues_kept _)

theorem clearTables_slots (w : Work) : ∀ x ∈ w.clearTables.nre.slots, x = none := by
  have hnre : w.clearTables.nre = w.nre.freeSlots fun _ => true := (cuesOnly_restartCues _).nre
  rw [hnre]
  intro x hx
  obtain ⟨o, -, rfl⟩ := List.mem_map.mp hx
  cases o <;> rfl

theorem clearTables_emptied (w : Work) : w.clearTables.Emptied :=
  ⟨(congrArg Svt.services (cuesOnly_restartCues _).svt :), restartCues_waiting _⟩

theorem keyCondition_iff (lines : List FieldLine) : keyCondition lines = true ↔ keysTurned lines := by
  simp [keyCondition, keysTurned, FieldLine.isActive, or_iff_not_imp_left]

theorem restartEffect_stages (s : State) : ∃ b changed, s.restartEffect.work =
    ((s.work.clearTables.restartOverride b s.base.fiu.override).restartFeed).restartWall b changed := by
  unfold State.restartEffect
  dsimp only
  rw [State.mapWork_work, State.mapFiu_work]
  exact ⟨_, _, rfl⟩

/-- R187: the part after RESTART, as its stages leave it: the tables cleared, the feed and the exit reported, the wall cleared. -/
theorem restartEffect_work {s : State} (h4 : s.work.wsc.length = 4) : ∃ x, s.work.clearTables.Tells x ∧ x.hlu.feedCount = 0 ∧
    x.hlu.degraded = false ∧ x.Silent s.restartEffect.work ∧ s.restartEffect.work.Discarded ∧ s.restartEffect.work.settled =
      { s.work.settled with
        svt := { s.work.settled.svt with services := [] }
        wsc := s.work.wsc.map fun u => { u.kept with drain := u.drains }
        bcp := { s.work.settled.bcp with recompose := s.work.wsc.any WallString.drains } } := by
  obtain ⟨b, changed, hwork⟩ := restartEffect_stages s
  have hover := restartOverride_tells (b := b) (was := s.base.fiu.override) (clearTables_emptied s.work)
  obtain ⟨hfeed, hcount, hdeg⟩ := restartFeed_tells (s.work.clearTables.restartOverride b s.base.fiu.override)
  have htells := hover.trans hfeed
  generalize (s.work.clearTables.restartOverride b s.base.fiu.override).restartFeed = x at htells hcount hdeg hwork
  have hwsc : x.wsc = s.work.wsc := by
    rw [htells.rest]
    exact (cuesOnly_restartCues _).wsc
  obtain ⟨h1, h2, h3⟩ := restartWall_effect (b := b) (changed := changed) (htells.emptied (clearTables_emptied s.work))
    (by rw [hwsc]; exact h4)
  rw [hwsc, htells.settled, clearTables_settled] at h3
  rw [hwork]
  exact ⟨x, htells, hcount, hdeg, h1, h2, h3⟩

theorem State.frameSent_restart {s : State} {a : Nat} (hx : s.work.hlu.tx = some (.reply a))
    (hr : ∃ e ∈ s.work.hlu.inbound, e.arrival = a ∧ e.restart = true) :
    s.frameSent = s.restartEffect.mapHlu (Hlu.freePlace (.reply a)) := by
  obtain ⟨e, he, ha, hre⟩ := hr
  have hany : (s.work.hlu.inbound.any fun e => e.arrival == a && e.restart) = true :=
    List.any_eq_true.mpr ⟨e, he, by simp [ha, hre]⟩
  unfold State.frameSent
  rw [hx]
  dsimp only
  rw [if_pos hany]

/-- R187: a RESTART is answered OK, and its place waits for the reply to be sent. -/
theorem restart_answered {h : ReqHead} {s : State} (hr : s.ready) (hm : h.misfit = none) :
    ∃ t, exec (.restart h) s = .next t ∧ s.onlyRead h .restart t ∧ t.replyTo s.work.hlu.arrivals = some Reply.ok ∧
      ∃ e ∈ t.work.hlu.inbound, e.arrival = s.work.hlu.arrivals ∧ e.restart = true := by
  obtain ⟨t, h1, hread, h2, -⟩ := request_reads_of (q := .restart) (rep := Reply.ok) hr hm rfl
  have hfits := owner_fits h .restart (s.arrives h .restart) hm
  obtain ⟨t', h1', -, -, -, -, -, -, hin⟩ := request_served h .restart s Reply.ok hr (by rw [hfits]; rfl)
    (by rw [hfits]; exact owner_inbound .restart _)
  cases Host.Outcome.next.inj (h1.symm.trans h1')
  refine ⟨t, h1, hread, h2, _, by rw [hin]; exact List.mem_append_right _ (List.mem_singleton_self _), rfl, ?_⟩
  have hframe : ReqHead.frame h .restart = .request .restart := by
    unfold ReqHead.frame
    rw [hm]
  rw [hframe]
  rfl

/-- Settles O56: each stage of the effect leaves what the stages before it have cleared. -/
theorem restartTakesEffectAfterItsReply : Obligations.RestartTakesEffectAfterItsReply := by
  refine ⟨fun h s hr hm => restart_answered hr hm, ?_⟩
  intro a s hx hr h4 draining
  obtain ⟨x, htells, hcount, hdeg, hsilent, hdiscard, hsettled⟩ := restartEffect_work h4
  have hinbound := State.restartEffect_inbound s
  have hbase : s.restartEffect.base = { s.base with fiu := s.base.fiu.restart } := rfl
  have hscd : s.restartEffect.scd = s.scd := rfl
  have hpending : s.restartEffect.pending = s.pending := rfl
  have hcues := restartCues_effect ({ s.work with svt := { s.work.svt with services := [] } } : Work).clearNotices
  have hcuc : s.restartEffect.work.cuc = s.work.clearTables.cuc := by rw [hsilent.cuc, htells.rest]
  have hnre : s.restartEffect.work.nre = s.work.clearTables.nre := by rw [hsilent.nre, htells.rest]
  have hgrows : s.work.clearTables.Grows (fun _ => True) s.restartEffect.work := grows_trans htells.grows (grows_of_hlu hsilent.hlu)
  have hservices : s.restartEffect.work.svt.services = [] := by
    rw [hsilent.svt]
    exact (htells.emptied (clearTables_emptied _)).1
  have hslots := clearTables_slots s.work
  have hwaiting := (clearTables_emptied s.work).2
  rw [← hsilent.hlu] at hcount hdeg
  rw [← hnre] at hslots
  rw [← hcuc] at hwaiting
  refine ⟨s.restartEffect.mapHlu (Hlu.freePlace (.reply a)), ?_, ?_⟩
  · show Host.Outcome.next s.frameSent.serveWaiting.finish = _
    rw [State.frameSent_restart hx hr]
  clear hsilent hnre
  rw [show ({ s.work with svt := { s.work.svt with services := [] } } : Work).clearNotices.restartCues = s.work.clearTables from rfl]
    at hcues
  dsimp only [Work.clearNotices, Work.mapNre] at hcues
  generalize s.work.clearTables = k at *
  generalize s.restartEffect = u at *
  have hsettled' : (u.mapHlu (Hlu.freePlace (.reply a))).work.settled = u.work.settled := settled_hlu rfl rfl
  have hmask : (u.mapHlu (Hlu.freePlace (.reply a))).work.hlu.mask = s.work.hlu.mask :=
    (congrArg (fun v : Work => v.hlu.mask) (hsettled'.trans hsettled) :)
  have hreports : u.work.Grows (fun _ => True) (u.mapHlu (Hlu.freePlace (.reply a))).work := grows_of_rep rfl rfl
  refine ⟨hscd, hpending, ?_, ?_, ?_, ?_, ?_, hservices, hslots, fun e he => CueEntry.not_waiting (hwaiting e he), ?_, hdiscard,
    hcount, hdeg, ?_, rfl, ?_⟩
  · rw [State.mapHlu_base, hbase]
  · rw [State.mapHlu_base, hbase]; rfl
  · rw [State.mapHlu_base, hbase]; rfl
  · rw [State.mapHlu_base, hbase]; exact keyCondition_iff _
  · rw [State.mapHlu_base, hbase]; exact Bool.or_false _
  · have hlink : (u.mapHlu (Hlu.freePlace (.reply a))).work.cuc = k.cuc := hcuc
    rw [hlink]
    dsimp only
    cases hl : s.work.cuc.link with
    | disabled | idle | blocked =>
      rw [hl] at hcues
      obtain ⟨-, h⟩ := hcues
      exact ⟨(congrArg Cuc.link h :), (congrArg Cuc.queue h :)⟩
    | sending due =>
      rw [hl] at hcues
      obtain ⟨-, h, -⟩ := hcues
      exact ⟨(congrArg Cuc.link h :), (congrArg Cuc.frame h :), (congrArg Cuc.queue h :)⟩
    | awaitAccept due | playing due =>
      rw [hl] at hcues
      obtain ⟨h1, h2, -, -, h3⟩ := hcues
      refine ⟨h1, h2, fun e he => ⟨(h3 e he).1, fun hm hlost => ?_⟩⟩
      rw [hmask] at hm
      exact grows_raised (grows_trans (grows_trans (grows_of_hlu (h3 e he).2) hgrows) hreports) hm hlost
  · exact congrArg (List.filter _) hinbound
  · rw [hsettled', hsettled]
    rfl

end Sys2Proof.Machine
end

section
/-!
PROOF. Bytes on the host link: the receiver, the frames it makes, and what they are served as (R178 to R180).
-/

namespace Sys2Proof.Machine

/-! ### A well-formed frame (R179, R186) -/

theorem restoreFeed_hlu (b : Base) (w : Work) : (w.restoreFeed b).hlu.kept = { w.hlu.kept with degraded := false } ∧
    (w.restoreFeed b).settled = w.settled := by
  by_cases hd : w.hlu.degraded = true
  · have h := restoreFeed_kept b w hd
    refine ⟨(congrArg Work.hlu h :), ?_⟩
    exact (kept_settled (v := { w with hlu := { w.hlu with degraded := false } }) h).trans (settled_hlu rfl rfl)
  · have hfalse : w.hlu.degraded = false := Bool.eq_false_iff.mpr hd
    have hsame : w.restoreFeed b = w := by
      unfold Work.restoreFeed
      rw [if_neg hd]
    rw [hsame, ← hfalse]
    exact ⟨rfl, rfl⟩

theorem arrive_keeps (tag : Byte) (f : Frame) (u : Hlu) : (u.arrive tag f).rx = u.rx ∧ (u.arrive tag f).mask = u.mask ∧
    (u.arrive tag f).feedTimeout = u.feedTimeout := by
  unfold Hlu.arrive
  dsimp only
  split
  · exact ⟨rfl, rfl, rfl⟩
  · split <;> exact ⟨rfl, rfl, rfl⟩

/-- R179, R186: what a well-formed frame leaves: its place, if there is one, and a feed that runs afresh. -/
theorem wellFormed_effect (b : Base) (tag : Byte) (f : Frame) (w : Work) : (w.wellFormed b tag f).settled = w.settled ∧
    (w.wellFormed b tag f).hlu.kept = { (w.hlu.arrive tag f).kept with feedCount := 0, degraded := false } := by
  obtain ⟨-, hmask, htime⟩ := arrive_keeps tag f w.hlu
  obtain ⟨hkept, hsettled⟩ := restoreFeed_hlu b { w with hlu := { w.hlu.arrive tag f with feedCount := 0 } }
  exact ⟨hsettled.trans (settled_hlu hmask htime), hkept⟩

/-- R179: queued, refused BUSY, or lost. -/
theorem arrive_effect (tag : Byte) (f : Frame) (u : Hlu) :
    if u.inbound.length < 4 then
      (u.arrive tag f).inbound = u.inbound ++ [⟨u.arrivals, tag, f, .waiting, false⟩] ∧
        (u.arrive tag f).busy = u.busy ∧ (u.arrive tag f).overruns = u.overruns ∧ (u.arrive tag f).busyReplies = u.busyReplies
    else
      (u.arrive tag f).inbound = u.inbound ∧
        if u.busy.length < 4 then
          (u.arrive tag f).busy = u.busy ++ [⟨u.arrivals, tag, f⟩] ∧
            (u.arrive tag f).busyReplies = u.busyReplies + 1 ∧ (u.arrive tag f).overruns = u.overruns
        else
          (u.arrive tag f).busy = u.busy ∧ (u.arrive tag f).busyReplies = u.busyReplies ∧
            (u.arrive tag f).overruns = u.overruns + 1 := by
  unfold Hlu.arrive
  dsimp only
  by_cases hin : u.inbound.length < 4
  · rw [if_pos hin, if_pos (show u.inbound.length < Config.maxInbound from hin)]
    exact ⟨rfl, rfl, rfl, rfl⟩
  · rw [if_neg hin, if_neg (show ¬ u.inbound.length < Config.maxInbound from hin)]
    by_cases hbusy : u.busy.length < 4
    · rw [if_pos hbusy, if_pos (show u.busy.length < Config.maxBusy from hbusy)]
      exact ⟨rfl, rfl, rfl, rfl⟩
    · rw [if_neg hbusy, if_neg (show ¬ u.busy.length < Config.maxBusy from hbusy)]
      exact ⟨rfl, rfl, rfl, rfl⟩

/-! ### The receiver (R178) -/

/-- The receiver in another state. -/
def Work.setRx (rx : Receiver) (w : Work) : Work := { w with hlu := { w.hlu with rx := rx } }

theorem hostByte_setRx (b : Base) (r : Receiver) (w : Work) (x : Byte) : Work.hostByte b (w.setRx r) x =
    (w.setRx (r.take b.elapsed x).1).received b (r.take b.elapsed x).2 := rfl

/-- Bytes of a frame that is not complete yet are gathered. -/
theorem hostBytes_gathered (b : Base) (w : Work) (start : Nat) (bs : List Byte) (need : Nat) (got : List Byte) :
    bs.length < need → bs.foldl (Work.hostByte b) (w.setRx (.body start need got)) =
      w.setRx (.body start (need - bs.length) (got ++ bs)) := by
  induction bs generalizing need got with
  | nil => intro _; simp
  | cons x xs ih =>
    intro h
    have hlen : xs.length + 1 < need := h
    have htake : (Receiver.body start need got).take b.elapsed x = (.body start (need - 1) (got ++ [x]), .nothing) :=
      if_neg (by omega)
    rw [List.foldl_cons, hostByte_setRx, htake]
    refine (ih (need - 1) (got ++ [x]) (by omega)).trans ?_
    rw [List.append_assoc, List.length_cons, Nat.sub_sub, Nat.add_comm 1]
    rfl

theorem judgeFrame_eq (hi lo kind tag : Byte) (payload : List Byte) (x y : Byte) :
    judgeFrame (hi :: lo :: kind :: tag :: payload ++ [x, y]) =
      if (crc16 (hi :: lo :: kind :: tag :: payload)).toNat = word x y then .frame kind tag payload else .badCheck := by
  unfold judgeFrame
  dsimp only
  have hlen : (hi :: lo :: kind :: tag :: payload ++ [x, y]).length - 2 = (hi :: lo :: kind :: tag :: payload).length := by
    rw [List.length_append]
    rfl
  rw [hlen, List.drop_left, List.take_left]

/-- R178: a whole frame of bytes in HUNT is judged as one. -/
theorem hostBytes_frame (b : Base) {w : Work} (hw : w.hlu.rx = .hunt) (kind tag : Byte) (payload : List Byte)
    (hp : payload.length ≤ 1024) (x y : Byte) :
    let size := payload.length + 2
    let covered : List Byte := BitVec.ofNat 8 (size / 256) :: BitVec.ofNat 8 (size % 256) :: kind :: tag :: payload
    w.hostBytes b (0xA5 :: covered ++ [x, y]) =
      w.received b (if (crc16 covered).toNat = word x y then .frame kind tag payload else .badCheck) := by
  intro size covered
  have hsame : w.setRx .hunt = w := by
    unfold Work.setRx
    rw [← hw]
  have hsize : word (BitVec.ofNat 8 (size / 256)) (BitVec.ofNat 8 (size % 256)) = size := by
    simp only [word, BitVec.toNat_ofNat]
    omega
  have hlength : (Receiver.length b.elapsed [BitVec.ofNat 8 (size / 256)]).take b.elapsed (BitVec.ofNat 8 (size % 256)) =
      (.body b.elapsed (size + 2) [BitVec.ofNat 8 (size / 256), BitVec.ofNat 8 (size % 256)], .nothing) := by
    simp only [Receiver.take, hsize]
    rw [if_pos (by omega)]
  have hbytes : 0xA5 :: covered ++ [x, y] = [0xA5, BitVec.ofNat 8 (size / 256), BitVec.ofNat 8 (size % 256)] ++
      (kind :: tag :: payload ++ [x]) ++ [y] := by simp [covered]
  have hlast : (Receiver.body b.elapsed 1 (covered ++ [x])).take b.elapsed y = (.hunt, judgeFrame (covered ++ [x, y])) := by
    simp [Receiver.take]
  have hstart : w.hostBytes b (0xA5 :: covered ++ [x, y]) = (0xA5 :: covered ++ [x, y]).foldl (Work.hostByte b) (w.setRx .hunt) := by
    unfold Work.hostBytes
    rw [hw, hsame]
    rfl
  rw [hstart, hbytes, List.foldl_append, List.foldl_append]
  have hhead : [0xA5, BitVec.ofNat 8 (size / 256), BitVec.ofNat 8 (size % 256)].foldl (Work.hostByte b) (w.setRx .hunt) =
      w.setRx (.body b.elapsed (size + 2) [BitVec.ofNat 8 (size / 256), BitVec.ofNat 8 (size % 256)]) := by
    show Work.hostByte b (w.setRx (.length b.elapsed [BitVec.ofNat 8 (size / 256)])) _ = _
    rw [hostByte_setRx, hlength]
    rfl
  have hbody : (kind :: tag :: payload ++ [x]).length = size + 1 := by simp [size]
  rw [hhead, hostBytes_gathered b w _ _ _ _ (by rw [hbody]; omega), hbody]
  have hone : size + 2 - (size + 1) = 1 := by omega
  rw [hone]
  show Work.hostByte b (w.setRx (.body b.elapsed 1 (covered ++ [x]))) y = _
  rw [hostByte_setRx, hlast, judgeFrame_eq]
  exact congrArg (Work.received b _) hsame

theorem hostBytes_badLength (b : Base) {w : Work} (hw : w.hlu.rx = .hunt) {x y : Byte}
    (h : 256 * x.toNat + y.toNat < 2 ∨ 1026 < 256 * x.toNat + y.toNat) :
    w.hostBytes b [0xA5, x, y] = w.received b .badLength := by
  have hsame : w.setRx .hunt = w := by
    unfold Work.setRx
    rw [← hw]
  have hstart : w.hostBytes b [0xA5, x, y] = [0xA5, x, y].foldl (Work.hostByte b) (w.setRx .hunt) := by
    unfold Work.hostBytes
    rw [hw, hsame]
    rfl
  have hlength : (Receiver.length b.elapsed [x]).take b.elapsed y = (.hunt, .badLength) :=
    if_neg (show ¬ (2 ≤ 256 * x.toNat + y.toNat ∧ 256 * x.toNat + y.toNat ≤ 1026) by omega)
  rw [hstart]
  show Work.hostByte b (w.setRx (.length b.elapsed [x])) y = _
  rw [hostByte_setRx, hlength]
  exact congrArg (Work.received b _) hsame

/-! ### Serving (R180) -/

theorem nextToServe_after {l : List Inbound} (hl : ∀ e ∈ l, e.reply.isSome = true ∧ e.restart = false) {x : Inbound}
    (hx : x.progress ≠ .waiting) : nextToServe (l ++ [x]) = none := by
  induction l with
  | nil =>
    rw [List.nil_append, nextToServe]
    cases hp : x.progress with
    | waiting => exact absurd hp hx
    | inService => rfl
    | answered r => exact ite_self none
  | cons e l ih =>
    obtain ⟨hans, hre⟩ := hl e (List.mem_cons_self ..)
    rw [List.cons_append, nextToServe]
    cases hp : e.progress with
    | waiting => simp [Inbound.reply, hp] at hans
    | inService => rfl
    | answered r => exact (if_neg (by rw [hre]; decide)).trans (ih fun e' he' => hl e' (List.mem_cons_of_mem _ he'))

/-- R180: a frame that its place answers at once, in a part that is ready. -/
theorem arrived_answered {s v : State} {x : Inbound} {rep : Reply} (hs : s.ready) (hx : x.progress = .waiting)
    (ha : x.arrival = s.work.hlu.arrivals) (hv : v.work.hlu.inbound = s.work.hlu.inbound ++ [x])
    (ho : x.frame.owner v = (v, some rep)) : v.serveWaiting.finish.replyTo s.work.hlu.arrivals = some rep := by
  have hnext : nextToServe v.work.hlu.inbound = some x := by
    rw [hv]
    exact nextToServe_append _ x hx fun e he => ⟨(hs.2 e he).1, (hs.2 e he).2.1⟩
  have hserved : (v.serve x).work.hlu.inbound = s.work.hlu.inbound ++ [x.served (some rep)] := by
    rw [serve_inbound, ho, hv]
    exact updateInbound_append _ x (Inbound.served (some rep)) fun e he => ha ▸ (hs.2 e he).2.2
  have hcaught : (v.serve x).caughtUp := by
    unfold State.caughtUp
    rw [hserved]
    exact nextToServe_after (fun e he => ⟨(hs.2 e he).1, (hs.2 e he).2.1⟩) (served_progress _ _)
  have hinbound : (v.serve x).finish.work.hlu.inbound = s.work.hlu.inbound ++ [x.served (some rep)] :=
    (Hlu.pump_inbound _).trans hserved
  have hnone : s.work.hlu.inbound.find? (fun e => e.arrival == s.work.hlu.arrivals) = none :=
    List.find?_eq_none.mpr fun e he => by
      have := (hs.2 e he).2.2
      simp
      omega
  have hself : (x.served (some rep)).arrival = s.work.hlu.arrivals := ha
  rw [serveWaiting_next v x hnext, serveWaiting_caughtUp _ hcaught, State.replyTo, hinbound, List.find?_append, hnone,
    Option.none_or, List.find?_cons_of_pos (by rw [hself]; exact beq_self_eq_true _)]
  rfl

theorem crcBytes_word (c : BitVec 16) : word (c.extractLsb' 8 8) (c.extractLsb' 0 8) = c.toNat := by
  simp only [word, BitVec.extractLsb'_toNat, Nat.shiftRight_eq_div_pow]
  omega

/-- Settles O49: the receiver gathers the frame byte by byte, and what it judges arrives and is served. -/
theorem hostFramesAreTaken : Obligations.HostFramesAreTaken := by
  refine ⟨?_, fun u => ⟨serveWaiting_caughtUp u, serveWaiting_next u⟩⟩
  intro kind tag payload s hrx hlen size covered check bytes frame
  have hbytes : s.work.hostBytes s.base bytes = s.work.wellFormed s.base tag frame := by
    refine (hostBytes_frame s.base hrx kind tag payload hlen (check.extractLsb' 8 8) (check.extractLsb' 0 8)).trans ?_
    rw [crcBytes_word, if_pos rfl]
    rfl
  have hexec : exec (.hostFrame bytes) s = (s.mapWork (Work.wellFormed s.base tag frame)).serveWaiting.done := by
    show (s.mapWork (Work.hostBytes s.base bytes)).serveWaiting.done = _
    unfold State.mapWork
    rw [hbytes]
  obtain ⟨hsettled, hkept⟩ := wellFormed_effect s.base tag frame s.work
  have field : ∀ {α : Type} (g : Hlu → α), g (s.work.wellFormed s.base tag frame).hlu.kept =
      g { (s.work.hlu.arrive tag frame).kept with feedCount := 0, degraded := false } := fun g => congrArg g hkept
  have hinbound : (s.work.wellFormed s.base tag frame).hlu.inbound = (s.work.hlu.arrive tag frame).inbound := field Hlu.inbound
  have hbusy : (s.work.wellFormed s.base tag frame).hlu.busy = (s.work.hlu.arrive tag frame).busy := field Hlu.busy
  have hover : (s.work.wellFormed s.base tag frame).hlu.overruns = (s.work.hlu.arrive tag frame).overruns := field Hlu.overruns
  have hreplies : (s.work.wellFormed s.base tag frame).hlu.busyReplies = (s.work.hlu.arrive tag frame).busyReplies :=
    field Hlu.busyReplies
  have hcount : (s.work.wellFormed s.base tag frame).hlu.feedCount = 0 := field Hlu.feedCount
  have hdeg : (s.work.wellFormed s.base tag frame).hlu.degraded = false := field Hlu.degraded
  have hrx' : (s.work.wellFormed s.base tag frame).hlu.rx = .hunt := (field Hlu.rx).trans ((arrive_keeps ..).1.trans hrx)
  have harrive := arrive_effect tag frame s.work.hlu
  rw [← hinbound, ← hbusy, ← hover, ← hreplies] at harrive
  have hplace : s.ready → (s.work.wellFormed s.base tag frame).hlu.inbound =
      s.work.hlu.inbound ++ [⟨s.work.hlu.arrivals, tag, frame, .waiting, false⟩] := fun hs =>
    (by rw [if_pos hs.1] at harrive; exact harrive.1)
  have hanswered : s.ready → ∀ rep, (∀ v, frame.owner v = (v, some rep)) → ∃ t, exec (.hostFrame bytes) s = .next t ∧
      t.replyTo s.work.hlu.arrivals = some rep := fun hs rep ho =>
    ⟨_, hexec, arrived_answered (x := ⟨s.work.hlu.arrivals, tag, frame, .waiting, false⟩) hs rfl rfl (hplace hs) (ho _)⟩
  refine ⟨⟨s.mapWork (Work.wellFormed s.base tag frame), hexec, rfl, rfl, rfl, hsettled, hrx', hcount, hdeg, harrive⟩,
    fun c r hframe hreq => ?_, fun hs k hk => hanswered hs _ fun v => by rw [hk]; rfl,
    fun hs name n hn => hanswered hs _ fun v => by rw [hn]; rfl, fun hkind => ?_, fun x y hxy => ?_, fun x y hxy => ?_⟩
  · rw [hexec, exec_request hreq, hframe]
    rfl
  · show frameOf kind payload = _
    unfold frameOf
    split
    · rfl
    · next hmsb => rw [hkind.resolve_left hmsb]
  · have hbad : s.work.hostBytes s.base (0xA5 :: covered ++ [x, y]) = s.work.received s.base .badCheck := by
      refine (hostBytes_frame s.base hrx kind tag payload hlen x y).trans ?_
      rw [if_neg (show ¬ (crc16 covered).toNat = word x y from fun h => hxy h.symm)]
    show (s.mapWork (Work.hostBytes s.base (0xA5 :: covered ++ [x, y]))).serveWaiting.done = _
    unfold State.mapWork
    rw [hbad]
    rfl
  · show (s.mapWork (Work.hostBytes s.base [0xA5, x, y])).serveWaiting.done = _
    unfold State.mapWork
    rw [hostBytes_badLength s.base hrx hxy]
    rfl

end Sys2Proof.Machine
end

section
/-!
PROOF. What dispatches and the timebase's events do at the Service Table (R4, R9, R24, R25, R28, R29, R32, R34). The table is
followed without what rules and boards keep with the records, as `Svt.kept` has it.
-/

namespace Sys2Proof.Machine

/-! ### The table changed -/

/-- The table with its records changed. -/
def Svt.through (f : List Service → List Service) (v : Svt) : Svt := { v with services := f v.services }

theorem Svt.through_through (f g : List Service → List Service) (v : Svt) : (v.through f).through g = v.through (g ∘ f) := rfl

theorem kept_table {w v : Work} (h : w.kept = v.kept) : w.svt.kept = v.svt.kept := (congrArg Work.svt h :)

theorem kept_services (v : Svt) : v.kept.services = v.services.map Service.core := rfl

theorem kept_keys (v : Svt) : v.kept.services.map Service.key = v.services.map Service.key := by
  rw [kept_services, List.map_map]
  rfl

/-- The records' keys are distinct. -/
def Work.Distinct (w : Work) : Prop := (w.svt.services.map Service.key).Nodup

theorem distinct_of_kept {w u : Work} {f : List Service → List Service} (h : u.svt.kept = w.svt.kept.through f)
    (hf : ∀ l, ((f l).map Service.key).Sublist (l.map Service.key)) (hw : w.Distinct) : u.Distinct := by
  unfold Work.Distinct
  rw [← kept_keys, h]
  refine List.Nodup.sublist (hf _) ?_
  rw [kept_keys]
  exact hw

theorem map_keys {g : Service → Service} (hg : ∀ y, (g y).key = y.key) (l : List Service) :
    (l.map g).map Service.key = l.map Service.key := by
  rw [List.map_map]
  exact List.map_congr_left fun y _ => hg y

theorem filter_keys (p : Service → Bool) (l : List Service) : ((l.filter p).map Service.key).Sublist (l.map Service.key) :=
  List.filter_sublist.map _

/-- Every record of a table keys distinct, taken by its key: an act on the record of each key of `ks` in turn. -/
theorem table_foldl {f : Work → Key → Work} {g : Service → Service} (hg : ∀ y, (g y).key = y.key)
    (hf : ∀ (w : Work) key, w.Distinct → (f w key).svt.kept = w.svt.kept.through (List.map fun y => if y.key = key then g y else y))
    {ks : List Key} (hks : ks.Nodup) {w : Work} (hw : w.Distinct) :
    (ks.foldl f w).svt.kept = w.svt.kept.through (List.map fun y => if y.key ∈ ks then g y else y) := by
  induction ks generalizing w with
  | nil =>
    simp only [List.foldl_nil, List.not_mem_nil, if_false]
    exact (congrArg (fun l => { w.svt.kept with services := l }) (List.map_id' _)).symm
  | cons k ks ih =>
    have hstep := hf w k hw
    have hkey : ∀ y : Service, (if y.key = k then g y else y).key = y.key := fun y => by
      split
      · exact hg y
      · rfl
    have hk : k ∉ ks := (List.nodup_cons.mp hks).1
    rw [List.foldl_cons, ih (List.nodup_cons.mp hks).2 (distinct_of_kept hstep (fun l => by rw [map_keys hkey]) hw), hstep,
      Svt.through_through]
    congr 1
    funext l
    rw [Function.comp_apply, List.map_map]
    refine List.map_congr_left fun y _ => ?_
    rw [Function.comp_apply, hkey]
    by_cases hy : y.key = k
    · rw [if_pos hy, hy, if_neg hk, if_pos (List.mem_cons_self ..)]
    · rw [if_neg hy]
      simp only [List.mem_cons, hy, false_or]

theorem mem_keys {v : Svt} {y : Service} (hy : y ∈ v.services) : y.key ∈ v.keys :=
  List.mem_map_of_mem ((sortBy_perm ..).mem_iff.mpr hy)

theorem Work.Distinct.keys {w : Work} (h : w.Distinct) : w.svt.keys.Nodup :=
  ((sortBy_perm Service.before w.svt.services).map Service.key).nodup_iff.mpr h

/-- The acts on every record of the table, in table order. -/
theorem table_all {f : Work → Key → Work} {g : Service → Service} (hg : ∀ y, (g y).key = y.key)
    (hf : ∀ (w : Work) key, w.Distinct → (f w key).svt.kept = w.svt.kept.through (List.map fun y => if y.key = key then g y else y))
    {w : Work} (hw : w.Distinct) : (w.svt.keys.foldl f w).svt.kept = w.svt.kept.through (List.map g) := by
  rw [table_foldl hg hf hw.keys hw]
  refine congrArg (fun l => { w.svt.kept with services := l }) (List.map_congr_left fun y hy => if_pos ?_)
  obtain ⟨x, hx, rfl⟩ := List.mem_map.mp hy
  exact (mem_keys hx :)

/-- The record of a key replaced, as far as the table keeps it. -/
theorem updateService_table (key : Key) (f : Service → Service) (w : Work) : (w.updateService key f).svt.kept =
    { w.svt.kept with services := w.svt.services.map fun y => if y.key = key then (f y).core else y.core } := update_kept_eq key f w.svt

/-- A change of the record of a key that is the same for the record without what rules and boards keep with it. -/
theorem replaced_table {w : Work} (hw : w.Distinct) {key : Key} {x : Service} (hx : w.svt.find key = some x) {y : Service}
    {g : Service → Service} (hg : g x.core = y.core) :
    (w.updateService key fun _ => y).svt.kept = w.svt.kept.through (List.map fun z => if z.key = key then g z else z) := by
  rw [updateService_table]
  refine congrArg (fun l => { w.svt.kept with services := l }) ?_
  rw [kept_services, List.map_map]
  refine List.map_congr_left fun z hz => ?_
  rw [Function.comp_apply]
  by_cases hk : z.key = key
  · rw [if_pos hk, if_pos (show z.core.key = key from hk), Svt.eq_of_find hw hx hz hk, hg]
  · rw [if_neg hk, if_neg (show ¬ z.core.key = key from hk)]

/-- A record that a change of its own leaves stays, and so does the table. -/
theorem same_table {w : Work} (hw : w.Distinct) {key : Key} {g : Service → Service}
    (hg : ∀ x, w.svt.find key = some x → g x.core = x.core) :
    w.svt.kept = w.svt.kept.through (List.map fun z => if z.key = key then g z else z) := by
  refine congrArg (fun l => { w.svt.kept with services := l }) ?_
  rw [kept_services, List.map_map]
  refine List.map_congr_left fun z hz => ?_
  rw [Function.comp_apply]
  by_cases hk : z.key = key
  · have hfind : ∃ x, w.svt.find key = some x := by
      cases hx : w.svt.find key with
      | some x => exact ⟨x, rfl⟩
      | none => exact absurd (List.find?_eq_none.mp hx z hz) (by simp [hk])
    obtain ⟨x, hx⟩ := hfind
    rw [if_pos (show z.core.key = key from hk), Svt.eq_of_find hw hx hz hk, hg x hx]
  · rw [if_neg (show ¬ z.core.key = key from hk)]

/-! ### Staged pairs (R25, R24) -/

theorem changePlatform_eq (p : Designator) (t : Int) (x : Service) : (x.changePlatform p t).1 =
    if x.current = some p then { x with staged := none }
    else { x with
      previous := if x.current = none then x.previous else x.current
      current := some p, changeTime := some t, staged := none } := by
  unfold Service.changePlatform
  split
  · rfl
  · cases x.current <;> rfl

theorem applyStaged_due {b : Base} {w : Work} {key : Key} {x : Service} {p : Designator} {at' : Int} (hx : w.svt.find key = some x)
    (hs : x.staged = some (p, at')) : (w.applyStaged b key).kept =
      if at' ≤ b.tbs.t then (w.updateService key fun _ => (x.changePlatform p b.tbs.t).1).kept else w.kept := by
  unfold Work.applyStaged
  rw [hx]
  dsimp only
  rw [hs]
  dsimp only
  split
  · exact Work.recordChange_kept ..
  · rfl

theorem stagedRecord_core (t : Int) (x : Service) : stagedRecord t x.core = (stagedRecord t x).core := by
  unfold stagedRecord
  show (match x.staged with | some (p, at') => _ | none => x.core) = _
  cases x.staged with
  | none => rfl
  | some q =>
    dsimp only
    split
    · show (if x.current = some q.1 then _ else _) = _
      split <;> rfl
    · rfl

theorem stagedRecord_key (t : Int) (x : Service) : (stagedRecord t x).key = x.key := by
  unfold stagedRecord
  split
  · split
    · split <;> rfl
    · rfl
  · rfl

theorem applyStaged_table (b : Base) (w : Work) (key : Key) (hw : w.Distinct) : (w.applyStaged b key).svt.kept =
    w.svt.kept.through (List.map fun y => if y.key = key then stagedRecord b.tbs.t y else y) := by
  have stays : (∀ x, w.svt.find key = some x → stagedRecord b.tbs.t x.core = x.core) → w.applyStaged b key = w →
      (w.applyStaged b key).svt.kept = w.svt.kept.through (List.map fun y => if y.key = key then stagedRecord b.tbs.t y else y) :=
    fun hg h => by
      rw [h]
      exact same_table hw hg
  cases hx : w.svt.find key with
  | none =>
    refine stays (fun x h => by rw [hx] at h; cases h) ?_
    unfold Work.applyStaged
    rw [hx]
  | some x =>
    cases hs : x.staged with
    | none =>
      refine stays (fun y hy => ?_) ?_
      · cases hx.symm.trans hy
        rw [stagedRecord_core]
        unfold stagedRecord
        rw [hs]
      · unfold Work.applyStaged
        rw [hx]
        dsimp only
        rw [hs]
    | some q =>
      obtain ⟨p, at'⟩ := q
      have hkept := applyStaged_due (b := b) hx hs
      have hrecord : stagedRecord b.tbs.t x = if at' ≤ b.tbs.t then (x.changePlatform p b.tbs.t).1 else x := by
        unfold stagedRecord
        rw [hs, changePlatform_eq]
      by_cases hdue : at' ≤ b.tbs.t
      · rw [if_pos hdue] at hkept hrecord
        rw [kept_table hkept]
        exact replaced_table hw hx (by rw [stagedRecord_core, hrecord])
      · rw [if_neg hdue] at hkept hrecord
        rw [kept_table hkept]
        refine same_table hw fun y hy => ?_
        cases hx.symm.trans hy
        rw [stagedRecord_core, hrecord]

theorem applyStagedAll_table (b : Base) (w : Work) (hw : w.Distinct) : (w.applyStagedAll b).svt.kept =
    w.svt.kept.through (List.map (stagedRecord b.tbs.t)) := table_all (stagedRecord_key b.tbs.t) (applyStaged_table b) hw

/-! ### Departing timers (R29) -/

/-- R29: a record whose departing timer has reached 0. -/
def endedRecord (x : Service) : Service := if x.timer = some 0 then { x with timer := none, status := .departed } else x

theorem endedRecord_counted (x : Service) : endedRecord x.countTimer = countedRecord x := by
  unfold endedRecord countedRecord Service.countTimer
  dsimp only
  cases ht : x.timer with
  | none =>
    rw [Option.map_none, if_neg (by simp)]
    exact congrArg (fun o => { x with timer := o }) ht.symm
  | some n =>
    rw [Option.map_some]
    dsimp only
    by_cases hn : n ≤ 1
    · rw [if_pos hn, if_pos (by congr 1; omega)]
    · rw [if_neg hn, if_neg (by simp; omega)]

theorem endTimer_table (b : Base) (w : Work) (key : Key) (hw : w.Distinct) :
    (if ((w.svt.find key).bind Service.timer) = some 0 then w.endTimer b key else w).svt.kept =
      w.svt.kept.through (List.map fun y => if y.key = key then endedRecord y else y) := by
  split
  · next h =>
    obtain ⟨x, hx, ht⟩ := Option.bind_eq_some_iff.mp h
    rw [Work.endTimer, kept_table (Work.recordChange_kept ..), updateService_table]
    refine congrArg (fun l => { w.svt.kept with services := l }) ?_
    rw [kept_services, List.map_map]
    refine List.map_congr_left fun z hz => ?_
    rw [Function.comp_apply]
    by_cases hk : z.key = key
    · rw [if_pos hk, if_pos (show z.core.key = key from hk)]
      rw [← Svt.eq_of_find hw hx hz hk] at ht
      exact (if_pos (show z.core.timer = some 0 from ht)).symm
    · rw [if_neg hk, if_neg (show ¬ z.core.key = key from hk)]
  · next h =>
    refine same_table hw fun x hx => if_neg fun ht => h ?_
    rw [hx]
    exact ht

theorem countTimers_table (b : Base) (w : Work) (hw : w.Distinct) : (w.countTimers b).svt.kept =
    w.svt.kept.through (List.map countedRecord) := by
  have hkey : ∀ y, (endedRecord y).key = y.key := fun y => by
    unfold endedRecord
    split <;> rfl
  obtain ⟨v, hv⟩ : ∃ v : Work, v = { w with svt := { w.svt with services := w.svt.services.map Service.countTimer } } := ⟨_, rfl⟩
  have hdistinct : v.Distinct := by
    rw [hv]
    show ((w.svt.services.map Service.countTimer).map Service.key).Nodup
    rw [map_keys (g := Service.countTimer) fun _ => rfl]
    exact hw
  have hfold : w.countTimers b = v.svt.keys.foldl (fun w key =>
      if ((w.svt.find key).bind Service.timer) = some 0 then w.endTimer b key else w) v := by
    rw [hv]
    rfl
  rw [hfold, table_all hkey (endTimer_table b) hdistinct, hv]
  refine congrArg (fun l => { w.svt.kept with services := l }) ?_
  show ((w.svt.services.map Service.countTimer).map Service.core).map endedRecord = (w.svt.services.map Service.core).map countedRecord
  rw [List.map_map, List.map_map, List.map_map]
  exact List.map_congr_left fun x _ => endedRecord_counted x.core

/-! ### Aging (R34) -/

theorem freeRecord_table (b : Base) (w : Work) (key : Key) : (w.freeRecord b key).svt.kept =
    w.svt.kept.through (List.filter fun y => y.key != key) := by
  have filtered : ({ w.svt with services := w.svt.services.filter fun y => y.key != key } : Svt).kept =
      w.svt.kept.through (List.filter fun y => y.key != key) := by
    refine congrArg (fun l => { w.svt.kept with services := l }) ?_
    rw [kept_services, List.filter_map]
    rfl
  unfold Work.freeRecord
  cases hx : w.svt.find key with
  | none =>
    rw [← filtered]
    dsimp only
    rw [List.filter_eq_self.mpr fun y hy => by simpa using List.find?_eq_none.mp hx y hy]
  | some x =>
    dsimp only
    rw [kept_table (Work.deriveWith_kept ..), kept_table (Work.unlist_kept ..), kept_table (Work.withdraw_kept ..)]
    exact (kept_table (kept_foldl _ (fun v h => Work.releaseHead_kept b key h v) _ _)).trans filtered

theorem freeRecords_table (b : Base) (ks : List Key) (w : Work) : (ks.foldl (Work.freeRecord b) w).svt.kept =
    w.svt.kept.through (List.filter fun y => decide (y.key ∉ ks)) := by
  induction ks generalizing w with
  | nil =>
    simp only [List.foldl_nil, List.not_mem_nil, not_false_eq_true, decide_true]
    exact (congrArg (fun l => { w.svt.kept with services := l }) (List.filter_true _)).symm
  | cons k ks ih =>
    rw [List.foldl_cons, ih, freeRecord_table, Svt.through_through]
    congr 1
    funext l
    rw [Function.comp_apply, List.filter_filter]
    refine List.filter_congr fun y _ => ?_
    by_cases hy : y.key = k <;> simp [hy]

theorem aged_eq (v : Svt) (t : Int) (x : Service) : v.aged t x = agedOut v t x := by
  unfold Svt.aged agedOut
  rw [Bool.eq_iff_iff]
  simp

theorem age_table (b : Base) (w : Work) (hw : w.Distinct) : (w.age b).svt.kept =
    w.svt.kept.through (List.filter fun y => !agedOut w.svt b.tbs.t y) := by
  unfold Work.age
  rw [freeRecords_table]
  refine congrArg (fun l => { w.svt.kept with services := l }) ?_
  rw [kept_services]
  refine List.filter_congr fun y hy => ?_
  obtain ⟨x, hx, rfl⟩ := List.mem_map.mp hy
  have hcore : agedOut w.svt b.tbs.t x.core = agedOut w.svt b.tbs.t x := rfl
  rw [hcore, ← aged_eq]
  have hmem : x.core.key ∈ (w.svt.ordered.filter (w.svt.aged b.tbs.t)).map Service.key ↔ w.svt.aged b.tbs.t x = true := by
    constructor
    · intro h
      obtain ⟨z, hz, hzk⟩ := List.mem_map.mp h
      obtain ⟨hzo, hza⟩ := List.mem_filter.mp hz
      rw [← List.inj_on_of_nodup_map hw ((sortBy_perm ..).mem_iff.mp hzo) hx hzk]
      exact hza
    · exact fun h => List.mem_map.mpr ⟨x, List.mem_filter.mpr ⟨(sortBy_perm ..).mem_iff.mpr hx, h⟩, rfl⟩
  cases ha : w.svt.aged b.tbs.t x with
  | true => exact decide_eq_false (not_not.mpr (hmem.mpr ha))
  | false => exact decide_eq_true fun h => by rw [hmem.mp h] at ha; cases ha

/-! ### The events of the timebase (R4, R9) -/

theorem rebased_eq (x : Service) : x.rebased = rebasedRecord x := rfl

theorem serviceChangeover_settled (b : Base) (w : Work) : (w.serviceChangeover b).settled =
    { w.settled with svt := { w.settled.svt with services := w.svt.services.map fun x => (rebasedRecord x).core } } := by
  unfold Work.serviceChangeover
  dsimp only
  rw [kept_settled (kept_foldl _ (fun v key => Work.recordChange_kept ..) _ _)]
  refine congrArg (fun l => { w.settled with svt := { w.settled.svt with services := l } }) ?_
  exact List.map_map

theorem changeover_table (b : Base) (v : Bool) (w : Work) : (w.changeover b v).svt.kept =
    w.svt.kept.through (List.map rebasedRecord) := by
  have hservices : ∀ u : Work, (u.serviceChangeover b).svt.kept = u.svt.kept.through (List.map rebasedRecord) := fun u => by
    refine (congrArg Work.svt (serviceChangeover_settled b u) :).trans ?_
    refine congrArg (fun l => { u.svt.kept with services := l }) ?_
    rw [kept_services, List.map_map]
    rfl
  unfold Work.changeover
  rw [kept_table (Work.raise_kept ..), hservices]
  rfl

theorem noticeSecond_table (b : Base) (w : Work) : (w.noticeSecond b).svt.kept = w.svt.kept := by
  unfold Work.noticeSecond
  dsimp only
  rw [kept_table (kept_foldl _ (fun v i => by split <;> simp) _ _)]
  show (Work.evaluateTimed b _).svt.kept = _
  rw [kept_table (Work.evaluateTimed_kept ..)]
  rfl

theorem secondBlocks_table (b : Base) (w : Work) (hw : w.Distinct) : (w.secondBlocks b).svt.kept =
    w.svt.kept.through (List.map fun x => countedRecord (stagedRecord b.tbs.t x)) := by
  have hstaged := applyStagedAll_table b w hw
  have hdistinct : (w.applyStagedAll b).Distinct :=
    distinct_of_kept hstaged (fun l => by rw [map_keys (stagedRecord_key b.tbs.t)]) hw
  have hcues : ∀ v : Work, (v.cueSecond b).svt.kept = v.svt.kept := fun v => by
    unfold Work.cueSecond
    rw [kept_table (Work.select_kept ..)]
    show (v.expireCues b).svt.kept = _
    rw [kept_table (Work.expireCues_kept ..)]
  unfold Work.secondBlocks Work.serviceSecond
  rw [hcues, noticeSecond_table, kept_table (Work.boardSecond_kept ..), countTimers_table b _ hdistinct, hstaged, Svt.through_through]
  congr 1
  funext l
  exact List.map_map

theorem feedSecond_table (b : Base) (w : Work) : (w.feedSecond b).svt.kept = w.svt.kept := by
  have hlost : ∀ v : Work, (v.loseFeed b).svt.kept = v.svt.kept := fun v => by
    unfold Work.loseFeed
    rw [kept_table (Work.deriveAll_kept ..), kept_table (Work.raise_kept ..)]
  unfold Work.feedSecond
  split
  · dsimp only
    split
    · exact hlost _
    · rfl
  · rfl

theorem deliverSecond_table {s : State} (hs : s.work.Distinct) : s.deliverSecond.work.svt.kept =
    s.work.svt.kept.through fun l => (l.map fun x => countedRecord (stagedRecord s.base.tbs.t x)).filter fun x =>
      !(decide (s.base.tbs.clockSeconds % 60 = 0) && agedOut s.work.svt s.base.tbs.t x) := by
  have hkeys : ∀ x, (countedRecord (stagedRecord s.base.tbs.t x)).key = x.key := fun x => by
    rw [← stagedRecord_key s.base.tbs.t x]
    unfold countedRecord
    split
    · split <;> rfl
    · rfl
  have hclock : s.clockSecond.work.svt.kept =
      s.work.svt.kept.through (List.map fun x => countedRecord (stagedRecord s.base.tbs.t x)) := by
    rw [State.clockSecond_work, feedSecond_table, State.clockEvent_work, kept_table (Work.raiseAll_kept ..), State.mapWork_work,
      secondBlocks_table _ _ hs]
  have hdistinct : s.clockSecond.work.Distinct := distinct_of_kept hclock (fun l => by rw [map_keys hkeys]) hs
  have hlimits : ∀ t x, agedOut s.clockSecond.work.svt t x = agedOut s.work.svt t x := fun t x =>
    (congrArg (fun v : Svt => agedOut v t x) hclock :)
  by_cases hminute : s.base.tbs.clockSeconds % 60 = 0
  · rw [State.deliverSecond_minute hminute, State.mapWork_work, age_table _ _ hdistinct, hclock]
    simp only [hlimits, hminute, decide_true, Bool.true_and]
    rfl
  · rw [State.deliverSecond_within hminute, hclock]
    simp only [hminute, decide_false, Bool.false_and, Bool.not_false, List.filter_true]

theorem secondEvent_table {s : State} (hs : s.work.Distinct) : s.secondEvent.work.svt.kept =
    s.work.svt.kept.through fun l => (l.map fun x => countedRecord (stagedRecord s.base.wrap.tbs.t
      (if 86399 ≤ s.base.tbs.t then rebasedRecord x else x))).filter fun x =>
        !(decide (s.base.wrap.tbs.clockSeconds % 60 = 0) && agedOut s.work.svt s.base.wrap.tbs.t x) := by
  unfold State.secondEvent
  dsimp only
  by_cases hday : 86399 ≤ s.base.tbs.t
  · have htable := changeover_table s.base.wrap false s.work
    have hdistinct : (s.work.changeover s.base.wrap false).Distinct :=
      distinct_of_kept htable (fun l => by rw [map_keys (g := rebasedRecord) fun _ => rfl]) hs
    have hlimits : ∀ t x, agedOut (s.work.changeover s.base.wrap false).svt t x = agedOut s.work.svt t x := fun t x =>
      (congrArg (fun v : Svt => agedOut v t x) htable :)
    have hsecond := deliverSecond_table
      (s := ({ s with base := s.base.wrap } : State).mapWork (Work.changeover s.base.wrap false)) hdistinct
    rw [State.mapWork_work, State.mapWork_base] at hsecond
    rw [if_pos hday, hsecond, htable, Svt.through_through]
    simp only [hlimits, hday, if_true, Function.comp_def, List.map_map]
  · rw [if_neg hday]
    simp only [hday, if_false]
    exact deliverSecond_table (s := { s with base := s.base.wrap }) hs

/-- The records through changes that read and write what the table keeps. -/
theorem through_records {v u : Svt} {f : Service → Service} {p : Service → Bool} (h : u.kept = v.kept.through fun l => (l.map f).filter p)
    (hf : ∀ x, f x.core = (f x).core) (hp : ∀ x, p x.core = p x) :
    u.services.map Service.core = ((v.services.map f).filter p).map Service.core := by
  have hservices : u.services.map Service.core = ((v.services.map Service.core).map f).filter p := (congrArg Svt.services h :)
  have hmap : (v.services.map Service.core).map f = (v.services.map f).map Service.core := by
    rw [List.map_map, List.map_map]
    exact List.map_congr_left fun x _ => hf x
  rw [hservices, hmap, List.filter_map]
  congr 1
  exact List.filter_congr fun x _ => hp x

theorem countedRecord_core (x : Service) : countedRecord x.core = (countedRecord x).core := by
  unfold countedRecord
  show (match x.timer with | some n => _ | none => x.core) = _
  cases x.timer with
  | none => rfl
  | some n =>
    dsimp only
    split <;> rfl

theorem stepChangeover_table (d : Int) (s : State) : (s.stepChangeover d).work.svt.kept = s.work.svt.kept.through
    (List.map fun x => if 86400000 ≤ 1000 * s.base.tbs.t + s.base.tbs.fraction + d then rebasedRecord x else x) := by
  unfold State.stepChangeover Timebase.passesDay Timebase.total
  by_cases hday : 86400000 ≤ 1000 * s.base.tbs.t + s.base.tbs.fraction + d
  · simp only [hday, decide_true, if_true]
    exact changeover_table ..
  · simp only [hday, decide_false, if_false]
    exact (congrArg (fun l => { s.work.svt.kept with services := l }) (List.map_id' _)).symm

theorem stepBlocks_table (b : Base) (w : Work) (hw : w.Distinct) : (w.stepBlocks b).svt.kept =
    w.svt.kept.through fun l => (l.map (stagedRecord b.tbs.t)).filter fun x => !agedOut w.svt b.tbs.t x := by
  have hstaged := applyStagedAll_table b w hw
  have hdistinct : (w.applyStagedAll b).Distinct :=
    distinct_of_kept hstaged (fun l => by rw [map_keys (stagedRecord_key b.tbs.t)]) hw
  have hlimits : ∀ t x, agedOut (w.applyStagedAll b).svt t x = agedOut w.svt t x := fun t x =>
    (congrArg (fun v : Svt => agedOut v t x) hstaged :)
  have hnotice : ∀ v : Work, (v.noticeStep b).svt.kept = v.svt.kept := fun v => by
    unfold Work.noticeStep
    dsimp only
    show (List.foldl _ v v.svt.keys).svt.kept = _
    exact kept_table (kept_foldl _ (fun u key => Work.evaluateTell_kept ..) _ v)
  unfold Work.stepBlocks Work.serviceStep
  rw [kept_table (Work.cueStep_kept ..), hnotice, kept_table (Work.deriveAll_kept ..), age_table b _ hdistinct, hstaged]
  simp only [hlimits]
  rfl

theorem stepBy_table {d : Int} {c : StepCause} {s : State} (hs : s.work.Distinct) : (s.stepBy d c).work.svt.kept =
    s.work.svt.kept.through fun l => (l.map fun x => stagedRecord (s.base.tbs.stepped d c).t
      (if 86400000 ≤ 1000 * s.base.tbs.t + s.base.tbs.fraction + d then rebasedRecord x else x)).filter fun x =>
        !agedOut s.work.svt (s.base.tbs.stepped d c).t x := by
  have htable := stepChangeover_table d s
  have hkey : ∀ x : Service, (if 86400000 ≤ 1000 * s.base.tbs.t + s.base.tbs.fraction + d then rebasedRecord x else x).key = x.key :=
    fun x => by split <;> rfl
  have hdistinct : (s.stepChangeover d).work.Distinct := distinct_of_kept htable (fun l => by rw [map_keys hkey]) hs
  have hlimits : ∀ t x, agedOut (s.stepChangeover d).work.svt t x = agedOut s.work.svt t x := fun t x =>
    (congrArg (fun v : Svt => agedOut v t x) htable :)
  have hblocks := stepBlocks_table ((s.stepChangeover d).mapTbs fun _ => s.base.tbs.stepped d c).base _ hdistinct
  unfold State.stepBy
  dsimp only
  rw [State.mapWork_work, kept_table (Work.raise_kept ..), State.clockEvent_work, kept_table (Work.raiseAll_kept ..),
    State.mapWork_work, State.mapTbs_work, hblocks, htable, Svt.through_through]
  simp only [hlimits, Function.comp_def, List.map_map]
  rfl

/-- R7: the shorter way round the dial is the one amount of that range that leads to the carried time. -/
theorem stepAmount_eq {tb : Timebase} {h m sec ms : Nat} {d : Int} (hlo : -43200000 ≤ d) (hhi : d ≤ 43199999)
    (hd : (tb.clockMillis + d - ((3600 * h + 60 * m + sec) * 1000 + ms : Nat)) % 86400000 = 0) : tb.stepAmount h m sec ms = d := by
  unfold Timebase.stepAmount
  omega

/-- Settles O16: each event's changes of the table, followed record by record. -/
theorem timeEventsAtTheTable : Obligations.TimeEventsAtTheTable := by
  refine ⟨fun b w key x p at' hx hs => ?_, serviceChangeover_settled, fun s hq hn => ?_, ?_⟩
  · rw [kept_settled ((applyStaged_due hx hs).trans (apply_ite Work.kept _ _ _).symm)]
    split
    · rw [updateService_settled, changePlatform_eq]
    · rfl
  · have hsecond : s.takeSecond = s.secondEvent := if_pos ((Timebase.qualified_iff _).mpr hq)
    have hbase := (State.secondEvent_rest s).1
    refine ⟨s.secondEvent.finish, by rw [← hsecond]; rfl, ?_⟩
    intro now day
    show s.secondEvent.work.svt.services.map Service.core = _
    have hnow : now = s.base.wrap.tbs.t := congrArg (fun b : Base => b.tbs.t) hbase
    have hclock : s.secondEvent.finish.base.tbs.clockSeconds = s.base.wrap.tbs.clockSeconds :=
      congrArg (fun b : Base => b.tbs.clockSeconds) hbase
    rw [hclock, hnow]
    refine through_records (f := fun x => countedRecord (stagedRecord s.base.wrap.tbs.t (day x))) (secondEvent_table hn) (fun x => ?_)
      fun x => rfl
    have hday : day x.core = (day x).core := by
      show (if _ then rebasedRecord x.core else x.core) = (if _ then rebasedRecord x else x : Service).core
      split <;> rfl
    rw [hday, stagedRecord_core, countedRecord_core]
  · intro h hour minute second millis s d hr hm h1 h2 h3 h4 hq hlo hhi hne hd hn
    have hb := State.arrives_base h (.timeSet hour minute second millis) s
    have hsettled := arrives_settled h (.timeSet hour minute second millis) s
    have howner : Request.owner (.timeSet hour minute second millis) (s.arrives h (.timeSet hour minute second millis)) =
        ((s.arrives h (.timeSet hour minute second millis)).stepBy d .timeSet, some (Reply.okWith (.stepped
          (s.base.tbs.stepInfo d .timeSet).requested (s.base.tbs.stepInfo d .timeSet).applied (s.base.tbs.stepInfo d .timeSet).clamped
          (s.base.tbs.stepInfo d .timeSet).changeover))) := by
      rw [Request.owner, ownTimeSet, guarded_eq (timeRefusal_eq_none_iff.mpr ⟨h1, h2, h3, h4⟩), hb, if_neg hq]
      unfold State.stepTime
      rw [hb, stepAmount_eq hlo hhi hd, if_neg hne]
    obtain ⟨t, hexec, -, hbase, -, -, hwork⟩ := request_answers hr hm howner
    refine ⟨t, hexec, ?_⟩
    generalize s.arrives h (.timeSet hour minute second millis) = v at *
    have hkeys : v.work.Distinct := by
      unfold Work.Distinct
      rw [← kept_keys, settled_svt hsettled, kept_keys]
      exact hn
    intro now day
    have hnow : now = (s.base.tbs.stepped d .timeSet).t := by
      show t.base.tbs.t = _
      rw [hbase, (State.stepBy_rest ..).1, hb]
    have htable := stepBy_table (d := d) (c := .timeSet) hkeys
    rw [hb, settled_svt hsettled] at htable
    have hlimits : ∀ t' x, agedOut v.work.svt t' x = agedOut s.work.svt t' x := fun t' x =>
      (congrArg (fun u : Svt => agedOut u t' x) (settled_svt hsettled) :)
    simp only [hlimits] at htable
    have hsvt : t.work.svt = (v.stepBy d .timeSet).work.svt := by rw [hwork]
    rw [hsvt, hnow]
    refine through_records (f := fun x => stagedRecord (s.base.tbs.stepped d .timeSet).t (day x)) htable (fun x => ?_) fun x => rfl
    have hday : day x.core = (day x).core := by
      show (if _ then rebasedRecord x.core else x.core) = (if _ then rebasedRecord x else x : Service).core
      split <;> rfl
    rw [hday, stagedRecord_core]

end Sys2Proof.Machine
end

section
/-!
PROOF. Dispatch edges (R28, R172).
-/

namespace Sys2Proof.Machine

/-! ### The three outcomes -/

theorem State.dispatchEdge_locked {s : State} {n e : Nat} (p : Nat) (h : (s.line n).lockoutEnd = some e) :
    s.dispatchEdge n p = s.mapWork (Work.raise (.dispatchIgnored n p (e - s.base.elapsed))) := by
  unfold State.dispatchEdge
  rw [h]

theorem State.dispatchEdge_unmatched {s : State} {n p : Nat} (h : (s.line n).lockoutEnd = none)
    (hx : s.work.captured s.base p = none) : s.dispatchEdge n p = s.mapWork (Work.raise (.dispatchUnmatched n p)) := by
  unfold State.dispatchEdge
  rw [h]
  dsimp only
  unfold Work.dispatch
  rw [hx]
  rfl

/-- R28: the record captured departs, with its record change event. -/
def Work.capture (b : Base) (line p : Nat) (x : Service) (w : Work) : Work :=
  ((w.updateService x.key fun y => { y with actual := some b.tbs.t, status := .departing, timer := some w.svt.departing }).recordChange
    b x.key [.dispatch, .status]).raise (.dispatchCaptured x.key line p b.tbs.t)

theorem State.dispatchEdge_captured {s : State} {n p : Nat} {x : Service} (h : (s.line n).lockoutEnd = none)
    (hx : s.work.captured s.base p = some x) : s.dispatchEdge n p =
      if (s.line n).lockout = 0 then s.mapWork (Work.capture s.base n p x)
      else (s.mapWork (Work.capture s.base n p x)).setLine n fun l => { l with lockoutEnd := some (s.base.elapsed + 1000 * l.lockout) } := by
  unfold State.dispatchEdge
  rw [h]
  dsimp only
  unfold Work.dispatch
  rw [hx]
  dsimp only
  rw [Bool.true_and]
  by_cases hl : (s.line n).lockout = 0
  · rw [if_pos hl, if_neg (by simp [hl])]
    rfl
  · rw [if_neg hl, if_pos (by simp; omega)]
    rfl

theorem capture_loaded (b : Base) (line p : Nat) (x : Service) (w : Work) : (w.capture b line p x).loaded = w.loaded := by
  refine steady_loaded ?_
  rw [Work.capture, Work.raise_steady, Work.recordChange_steady, Work.updateService_steady]

theorem capture_services (b : Base) (line p : Nat) (x : Service) (w : Work) :
    (w.capture b line p x).svt.services.map Service.core = w.svt.services.map fun y =>
      if y.key = x.key then
        ({ y with actual := some b.tbs.t, status := .departing, timer := some w.svt.departing } : Service).core
      else y.core := by
  have htable : (w.capture b line p x).svt.kept = _ := (kept_table (Work.raise_kept ..)).trans
    ((kept_table (Work.recordChange_kept ..)).trans (updateService_table ..))
  exact (congrArg Svt.services htable :)

theorem captured_eq (b : Base) (p : Nat) (w : Work) : w.captured b p = w.svt.ordered.find? fun x =>
    (match x.current with | some d => d.num == p | none => false) &&
      (x.status == .scheduled || x.status == .delayed) && x.actual.isNone &&
      decide (x.k - b.tbs.t ≤ (w.svt.window : Int)) := rfl

/-- R28: the dispatch that an edge delivers: its report is the last it raises, and the table and the lockout are its outcome's. -/
theorem dispatchEdge_effect {s : State} {n p : Nat} {l : FieldLine} (hl : s.base.fiu.lines[n]? = some l) :
    (s.dispatchEdge n p).work.loaded = s.work.loaded ∧ (∃ v r, (s.dispatchEdge n p).work = Work.raise r v ∧
    match l.lockoutEnd, s.work.captured s.base p with
    | some e, _ => r = .dispatchIgnored n p (e - s.base.elapsed) ∧ v.svt = s.work.svt ∧
        ((s.dispatchEdge n p).line n).lockoutEnd = some e
    | none, none => r = .dispatchUnmatched n p ∧ v.svt = s.work.svt ∧ ((s.dispatchEdge n p).line n).lockoutEnd = none
    | none, some x => r = .dispatchCaptured x.key n p s.base.tbs.t ∧
        ((s.dispatchEdge n p).line n).lockoutEnd = (if l.lockout = 0 then none else some (s.base.elapsed + 1000 * l.lockout)) ∧
        v.svt.services.map Service.core = s.work.svt.services.map fun y =>
          if y.key = x.key then
            ({ y with actual := some s.base.tbs.t, status := .departing, timer := some s.work.svt.departing } : Service).core
          else y.core) := by
  have hline : s.line n = l := State.line_eq hl
  subst hline
  cases he : (s.line n).lockoutEnd with
  | some e =>
    rw [State.dispatchEdge_locked p he]
    exact ⟨steady_loaded (Work.raise_steady ..), _, _, rfl, rfl, rfl, he⟩
  | none =>
    cases hx : s.work.captured s.base p with
    | none =>
      rw [State.dispatchEdge_unmatched he hx]
      exact ⟨steady_loaded (Work.raise_steady ..), _, _, rfl, rfl, rfl, he⟩
    | some x =>
      have hwork : (s.dispatchEdge n p).work = s.work.capture s.base n p x := by
        rw [State.dispatchEdge_captured he hx]
        split <;> rfl
      have hlock : ((s.dispatchEdge n p).line n).lockoutEnd =
          (if (s.line n).lockout = 0 then none else some (s.base.elapsed + 1000 * (s.line n).lockout)) := by
        rw [State.dispatchEdge_captured he hx]
        split
        · exact he
        · refine congrArg FieldLine.lockoutEnd (State.line_eq (l := { s.line n with
            lockoutEnd := some (s.base.elapsed + 1000 * (s.line n).lockout) }) ?_)
          rw [State.setLine_lines, List.getElem?_modify_eq]
          exact congrArg (Option.map _) hl
      exact ⟨by rw [hwork]; exact capture_loaded .., _, _, hwork, rfl, hlock, capture_services s.base n p x s.work⟩

/-- Settles O14: the edge is marked, reported and delivered, and its dispatch reads the table as it was. -/
theorem dispatchCapturesTheCandidate : Obligations.DispatchCapturesTheCandidate := by
  intro n v p s hn hrole hactive hne candidate
  have hl : s.base.fiu.lines[n.val]? = some (s.line n) := by
    rw [State.line, List.getD_eq_getElem?_getD, List.getElem?_eq_getElem hn]
    rfl
  obtain ⟨u, hu, hlines, ⟨helapsed, htbs, hscd, hpending⟩, hwork⟩ := State.edge_delivered hl hne
  have hdispatch : u.deliverEdge n = u.dispatchEdge n p := by
    unfold State.deliverEdge
    rw [State.line_eq hlines]
    dsimp only
    rw [hrole]
    exact if_pos (by rw [FieldLine.isActive, hactive]; exact beq_self_eq_true v)
  have hsvt : u.work.svt = s.work.svt := by
    rcases hwork with h | ⟨r, h⟩ <;> rw [h]
    rfl
  have hloaded : u.work.loaded = s.work.loaded := by
    rcases hwork with h | ⟨r, h⟩ <;> rw [h]
    exact steady_loaded (Work.raise_steady ..)
  have hcaptured : u.work.captured u.base p = s.work.svt.ordered.find? candidate := by
    show u.work.captured u.base p = s.work.captured s.base p
    rw [captured_eq, captured_eq, hsvt, htbs]
  obtain ⟨hkept, v', r, hraise, hcase⟩ := dispatchEdge_effect (p := p) hlines
  obtain ⟨hrest, hrestscd, hrestpending⟩ := u.dispatchEdge_rest n p
  rw [hcaptured, hsvt, htbs, helapsed] at hcase
  have hexec : exec (.edge n v) s = .next (u.dispatchEdge n p).finish := by
    rw [← hdispatch, ← hu]
    rfl
  have hreported : (u.dispatchEdge n p).finish.reported r := by
    intro hm hroom
    rw [State.finish_work, pump_work, hraise] at hm hroom ⊢
    exact Work.raise_last hm hroom
  have hline : (u.dispatchEdge n p).finish.line n = (u.dispatchEdge n p).line n := rfl
  have hsvt' : (u.dispatchEdge n p).finish.work.svt = v'.svt := by
    rw [State.finish_work, hraise]
    rfl
  refine ⟨_, hexec, ?_, hrestscd.trans hscd, hrestpending.trans hpending, ?_, ?_⟩
  · rcases hrest with h | h <;> exact (congrArg Base.tbs h).trans htbs
  · exact (settled_loaded (finish_settled _)).trans (hkept.trans hloaded)
  · rw [hsvt', hline]
    cases he : (s.line n).lockoutEnd with
    | some e =>
      rw [he] at hcase
      obtain ⟨rfl, h1, h2⟩ := hcase
      exact ⟨hreported, h1, h2⟩
    | none =>
      rw [he] at hcase
      cases hx : s.work.svt.ordered.find? candidate with
      | none =>
        rw [hx] at hcase
        obtain ⟨rfl, h1, h2⟩ := hcase
        exact ⟨hreported, h1, h2⟩
      | some x =>
        rw [hx] at hcase
        obtain ⟨rfl, h1, h2⟩ := hcase
        exact ⟨hreported, h1, h2⟩

end Sys2Proof.Machine
end

section
/-!
PROOF. What evaluations do to the held sets and to the watch slots (R110 to R113, R125): the HEADs that fall leave the held set and
their slots, those that rise join it, and may take free slots.
-/

namespace Sys2Proof.Machine

/-! ### Records without what the boards keep -/

/-- A record without its confirmation set and its flash count. -/
def Service.bare (x : Service) : Service := { x with conf := [], flash := 0 }

/-- The records without their confirmation sets and flash counts. -/
def Svt.bare (v : Svt) : List Service := v.services.map Service.bare

/-- The held set of a record replaced, if it has the key. -/
def heldAs (key : Key) (g : List Nat → List Nat) (x : Service) : Service :=
  if x.key = key then { x with held := g x.held } else x

theorem Work.DeriveOnly.bare {w u : Work} (h : w.DeriveOnly u) : u.svt.bare = w.svt.bare := h.services_map fun _ => rfl

theorem update_bare (key : Key) (f : Service → Service) (v : Svt) :
    (v.update key f).bare = v.services.map fun x => (if x.key = key then f x else x).bare := by
  unfold Svt.bare Svt.update
  rw [List.map_map]
  refine List.map_congr_left fun x _ => ?_
  simp only [Function.comp_apply, beq_iff_eq]

theorem update_held_bare (key : Key) (g : List Nat → List Nat) (v : Svt) :
    (v.update key fun x => { x with held := g x.held }).bare = v.bare.map (heldAs key g) := by
  rw [update_bare, Svt.bare, List.map_map]
  refine List.map_congr_left fun x _ => ?_
  rw [Function.comp_apply, heldAs]
  by_cases hk : x.key = key
  · rw [if_pos hk, if_pos (show x.bare.key = key from hk)]
    rfl
  · rw [if_neg hk, if_neg (show ¬ x.bare.key = key from hk)]

theorem find_bare (v : Svt) (key : Key) : (v.find key).map Service.bare = v.bare.find? fun x => x.key == key := by
  unfold Svt.find Svt.bare
  rw [List.find?_map]
  rfl

theorem find_of_bare {v u : Svt} (h : u.bare = v.bare) {key : Key} {x : Service} (hx : v.find key = some x) :
    ∃ y, u.find key = some y ∧ y.bare = x.bare := by
  have hy : (u.find key).map Service.bare = some x.bare := by rw [find_bare, h, ← find_bare, hx]; rfl
  exact Option.map_eq_some_iff.mp hy

theorem find_none_of_bare {v u : Svt} (h : u.bare = v.bare) {key : Key} (hx : v.find key = none) : u.find key = none := by
  have hy : (u.find key).map Service.bare = none := by rw [find_bare, h, ← find_bare, hx]; rfl
  exact Option.map_eq_none_iff.mp hy

/-- R82: a record change event at the Board Composer. -/
theorem boardChange_bare (b : Base) (key : Key) (p : Bool) (w : Work) : (w.boardChange b key p).svt.bare = w.svt.bare ∧
    (w.boardChange b key p).nre = w.nre := by
  have derived : ∀ v : Work, v.svt.bare = w.svt.bare ∧ v.nre = w.nre →
      (if presentationOf b = .normal then
        v.derive b fun n => v.lists key n ||
          (match v.board n, v.svt.find key with
            | some bd, some x => isEligible v.svt b.tbs.t bd.record x
            | _, _ => false) else v).svt.bare = w.svt.bare ∧
      (if presentationOf b = .normal then
        v.derive b fun n => v.lists key n ||
          (match v.board n, v.svt.find key with
            | some bd, some x => isEligible v.svt b.tbs.t bd.record x
            | _, _ => false) else v).nre = w.nre := by
    intro v hv
    split
    · have h := deriveOnly_moves.derive b (fun n => v.lists key n ||
          (match v.board n, v.svt.find key with
            | some bd, some x => isEligible v.svt b.tbs.t bd.record x
            | _, _ => false)) v
      exact ⟨h.bare.trans hv.1, h.nre.trans hv.2⟩
    · exact hv
  refine derived _ ?_
  split
  · refine ⟨?_, rfl⟩
    rw [Work.updateService, update_bare]
    exact List.map_congr_left fun x _ => by split <;> rfl
  · exact ⟨rfl, rfl⟩

/-! ### What an evaluation comes to -/

/-- The HEADs `fallen` have fallen for the service of `key` and the HEADs `risen` have risen for it: held sets and slots. -/
structure Work.Edges (key : Key) (fallen risen : List Nat) (w u : Work) : Prop where
  records : ∃ g : List Nat → List Nat, u.svt.bare = w.svt.bare.map (heldAs key g) ∧
    ∀ k l, k ∈ g l ↔ (k ∈ l ∧ k ∉ fallen) ∨ k ∈ risen
  rules : u.nre.rules = w.nre.rules
  ruleTime : u.nre.ruleTime = w.nre.ruleTime
  stays : ∀ (i : Nat) (x : Slot), w.nre.slots[i]? = some (some x) → (x.key = key → x.head ∉ fallen) →
    u.nre.slots[i]? = some (some x)
  source : ∀ (i : Nat) (x : Slot), u.nre.slots[i]? = some (some x) → w.nre.slots[i]? = some (some x) ∨
    (x.key = key ∧ x.head ∈ risen)
  count : u.nre.slots.length = w.nre.slots.length
  free : ∀ i : Nat, w.nre.slots[i]? = some none → risen = [] → u.nre.slots[i]? = some none

theorem heldAs_id (key : Key) (l : List Service) : l.map (heldAs key id) = l := by
  refine (List.map_congr_left fun x _ => ?_).trans (List.map_id l)
  unfold heldAs
  split <;> rfl

theorem heldAs_comp (key : Key) (f g : List Nat → List Nat) : heldAs key f ∘ heldAs key g = heldAs key (f ∘ g) := by
  funext x
  rw [Function.comp_apply, heldAs, heldAs, heldAs]
  by_cases hk : x.key = key
  · simp only [if_pos hk, Function.comp_apply]
  · simp only [if_neg hk]

/-- What leaves records, rules and slots. -/
theorem edges_none (key : Key) {w u : Work} (hb : u.svt.bare = w.svt.bare) (hn : u.nre = w.nre) : w.Edges key [] [] u where
  records := ⟨id, by rw [heldAs_id]; exact hb, fun k l => by simp⟩
  rules := by rw [hn]
  ruleTime := by rw [hn]
  stays i x hx _ := by rw [hn]; exact hx
  source i x hx := by rw [hn] at hx; exact .inl hx
  count := by rw [hn]
  free i hi _ := by rw [hn]; exact hi

theorem Work.DeriveOnly.edges (key : Key) {w u : Work} (h : w.DeriveOnly u) : w.Edges key [] [] u := edges_none key h.bare h.nre

/-- Edges after edges: no HEAD falls that has risen before. -/
theorem Work.Edges.after {key : Key} {f₁ r₁ f₂ r₂ : List Nat} {w v u : Work} (k : v.Edges key f₂ r₂ u) (h : w.Edges key f₁ r₁ v)
    (hsep : ∀ n ∈ r₁, n ∉ f₂) : w.Edges key (f₁ ++ f₂) (r₁ ++ r₂) u where
  records := by
    obtain ⟨g, hg, hgm⟩ := h.records
    obtain ⟨f, hf, hfm⟩ := k.records
    refine ⟨f ∘ g, by rw [hf, hg, List.map_map, heldAs_comp], fun n l => ?_⟩
    rw [Function.comp_apply, hfm, hgm, List.mem_append, List.mem_append]
    have := hsep n
    tauto
  rules := k.rules.trans h.rules
  ruleTime := k.ruleTime.trans h.ruleTime
  stays i x hx hk := k.stays i x (h.stays i x hx fun hkey hm => hk hkey (List.mem_append_left _ hm))
    fun hkey hm => hk hkey (List.mem_append_right _ hm)
  source i x hx := by
    rcases k.source i x hx with hv | ⟨hkey, hm⟩
    · rcases h.source i x hv with hw | ⟨hkey, hm⟩
      · exact .inl hw
      · exact .inr ⟨hkey, List.mem_append_left _ hm⟩
    · exact .inr ⟨hkey, List.mem_append_right _ hm⟩
  count := k.count.trans h.count
  free i hi hr := by
    obtain ⟨h₁, h₂⟩ := List.append_eq_nil_iff.mp hr
    exact k.free i (h.free i hi h₁) h₂

/-! ### Edges (R112, R113) -/

/-- R113: a falling edge. -/
theorem fallEdge_edges (b : Base) (key : Key) (w : Work) (h : Nat) : w.Edges key [h] [] (w.fallEdge b key h) := by
  obtain ⟨-, hnre⟩ := fallEdge_view b key w h
  have hsvt : (w.fallEdge b key h).svt = w.svt.update key fun x => { x with held := x.held.filter (· != h) } :=
    (releaseHead_view ..).1
  have hslots : ∀ i : Nat, (w.fallEdge b key h).nre.slots[i]? = (w.nre.slots[i]?).map fun s =>
      match s with | some x => if (x.head == h && x.key == key) = true then none else some x | none => none := fun i => by
    rw [hnre]
    exact List.getElem?_map ..
  refine ⟨⟨fun l => l.filter (· != h), by rw [hsvt]; exact update_held_bare key (fun l => l.filter (· != h)) w.svt,
    fun k l => by simp⟩, by rw [hnre]; rfl, by rw [hnre]; rfl, fun i x hx hk => ?_, fun i x hx => .inl ?_, ?_, fun i hi _ => ?_⟩
  · rw [hslots, hx]
    refine congrArg some (if_neg fun hm => ?_)
    obtain ⟨hh, hkey⟩ := Bool.and_eq_true_iff.mp hm
    exact hk (beq_iff_eq.mp hkey) (List.mem_singleton.mpr (beq_iff_eq.mp hh))
  · rw [hslots] at hx
    obtain ⟨o, ho, hox⟩ := Option.map_eq_some_iff.mp hx
    rw [ho]
    cases o with
    | none => cases hox
    | some y =>
      dsimp only at hox
      split at hox
      · cases hox
      · rw [hox]
  · rw [hnre]
    exact List.length_map ..
  · rw [hslots, hi]
    rfl

/-- R125: the lowest-numbered free slot bound, if there is one. -/
def slotsBound (x : Slot) (slots : List (Option Slot)) : List (Option Slot) :=
  match slots.findIdx? Option.isNone with
  | some i => slots.set i (some x)
  | none => slots

/-- R125: the slots after the WATCH action of a HEAD that rises. -/
def slotsStarted (h : Nat) (key : Key) (r : Rule) (slots : List (Option Slot)) : List (Option Slot) :=
  match r.watch with
  | some wt => slotsBound (newSlot h key wt) slots
  | none => slots

theorem startWatch_view (h : Nat) (key : Key) (wt : Watch) (w : Work) : (w.startWatch h key wt).svt = w.svt ∧
    (w.startWatch h key wt).nre = { w.nre with slots := slotsBound (newSlot h key wt) w.nre.slots } := by
  unfold Work.startWatch
  split
  · next i hi => exact ⟨rfl, by unfold slotsBound; rw [hi]; rfl⟩
  · next hi => exact ⟨rfl, by unfold slotsBound; rw [hi]; rfl⟩

/-- R112: a rising edge, its records and its slots. -/
theorem riseEdge_exact (b : Base) (loud : Bool) (key : Key) (w : Work) (h : Nat) {r : Rule} (hr : w.nre.rule h = some r) :
    (w.riseEdge b loud key h).svt = (w.svt.update key fun x => { x with held := insertNat h x.held }) ∧
      (w.riseEdge b loud key h).nre = { w.nre with slots := slotsStarted h key r w.nre.slots } := by
  have actions : ∀ v : Work, v.CuesOnly (if loud && r.report then
      (if loud then (match r.cue with | some c => (v.enqueue b c (some key) (.rule h)).1 | none => v) else v).raise
        (.ruleHolds h r.priority key b.tbs.t)
      else if loud then (match r.cue with | some c => (v.enqueue b c (some key) (.rule h)).1 | none => v) else v) := by
    intro v
    have asked : v.CuesOnly (if loud then (match r.cue with | some c => (v.enqueue b c (some key) (.rule h)).1 | none => v) else v) := by
      split
      · split
        · exact cuesOnly_enqueue ..
        · exact cuesOnly_refl v
      · exact cuesOnly_refl v
    split
    · exact (cuesOnly_raise _ _).after asked
    · exact asked
  have done : ∀ v u : Work, v.CuesOnly u → v.svt = (w.svt.update key fun x => { x with held := insertNat h x.held }) →
      v.nre = { w.nre with slots := slotsStarted h key r w.nre.slots } →
      u.svt = (w.svt.update key fun x => { x with held := insertNat h x.held }) ∧
        u.nre = { w.nre with slots := slotsStarted h key r w.nre.slots } := fun v u k hs hn =>
    ⟨k.svt.trans hs, k.nre.trans hn⟩
  unfold Work.riseEdge
  rw [hr]
  dsimp only
  cases hw : r.watch with
  | none => exact done _ _ (actions _) rfl (by unfold slotsStarted; rw [hw]; rfl)
  | some wt =>
    refine done _ _ (actions ((w.updateService key fun x => { x with held := insertNat h x.held }).startWatch h key wt)) ?_ ?_
    · exact (startWatch_view ..).1
    · rw [(startWatch_view ..).2]
      unfold slotsStarted
      rw [hw]
      rfl

/-- R125: a WATCH action takes a free slot, or none. -/
theorem slotsStarted_cases (h : Nat) (key : Key) (r : Rule) (slots : List (Option Slot)) :
    slotsStarted h key r slots = slots ∨ ∃ i wt, slots[i]? = some none ∧ r.watch = some wt ∧
      slotsStarted h key r slots = slots.set i (some (newSlot h key wt)) := by
  unfold slotsStarted
  split
  · next wt hwt =>
    unfold slotsBound
    split
    · next i hi =>
      obtain ⟨hlt, hnone, -⟩ := List.findIdx?_eq_some_iff_getElem.mp hi
      exact .inr ⟨i, wt, by rw [List.getElem?_eq_getElem hlt, Option.isNone_iff_eq_none.mp hnone], hwt, rfl⟩
    · exact .inl rfl
  · exact .inl rfl

theorem riseEdge_edges (b : Base) (loud : Bool) (key : Key) (w : Work) (h : Nat) {r : Rule} (hr : w.nre.rule h = some r) :
    w.Edges key [] [h] (w.riseEdge b loud key h) := by
  obtain ⟨hsvt, hnre⟩ := riseEdge_exact b loud key w h hr
  have records : ∃ g : List Nat → List Nat, (w.riseEdge b loud key h).svt.bare = w.svt.bare.map (heldAs key g) ∧
      ∀ k l, k ∈ g l ↔ (k ∈ l ∧ k ∉ ([] : List Nat)) ∨ k ∈ [h] :=
    ⟨insertNat h, by rw [hsvt]; exact update_held_bare key (insertNat h) w.svt, fun k l => by
      rw [mem_insertNat, List.mem_singleton]
      simp [or_comm]⟩
  rcases slotsStarted_cases h key r w.nre.slots with hs | ⟨i, wt, hi, -, hs⟩
  · rw [hs] at hnre
    exact ⟨records, by rw [hnre], by rw [hnre], fun i x hx _ => by rw [hnre]; exact hx, fun i x hx => .inl (by rwa [hnre] at hx),
      by rw [hnre], fun i hi hr => by cases hr⟩
  · rw [hs] at hnre
    refine ⟨records, by rw [hnre], by rw [hnre], fun j x hx _ => ?_, fun j x hx => ?_, by rw [hnre]; exact List.length_set,
      fun i hi hr => by cases hr⟩
    · rw [hnre]
      dsimp only
      rw [List.getElem?_set, if_neg fun hij => by rw [hij, hx] at hi; cases hi]
      exact hx
    · rw [hnre] at hx
      dsimp only at hx
      rw [List.getElem?_set] at hx
      split at hx
      · split at hx
        · cases hx
          exact .inr ⟨(newSlot_pair ..).2, List.mem_singleton.mpr (newSlot_pair ..).1⟩
        · cases hx
      · exact .inl hx

theorem fallEdges_edges (b : Base) (key : Key) (hs : List Nat) (w : Work) :
    w.Edges key hs [] (hs.foldl (Work.fallEdge b key) w) := by
  induction hs generalizing w with
  | nil => exact edges_none key rfl rfl
  | cons h hs ih => exact (ih (w.fallEdge b key h)).after (fallEdge_edges b key w h) (fun _ hn => absurd hn List.not_mem_nil)

theorem rule_of_rules {n m : Nre} (h : m.rules = n.rules) (i : Nat) : m.rule i = n.rule i := by
  unfold Nre.rule
  rw [h]

theorem riseEdges_edges (b : Base) (loud : Bool) (key : Key) (hs : List Nat) (w : Work)
    (hr : ∀ h ∈ hs, ∃ r, w.nre.rule h = some r) : w.Edges key [] hs (hs.foldl (Work.riseEdge b loud key) w) := by
  induction hs generalizing w with
  | nil => exact edges_none key rfl rfl
  | cons h hs ih =>
    obtain ⟨r, hrule⟩ := hr h (List.mem_cons_self ..)
    have first := riseEdge_edges b loud key w h hrule
    refine (ih _ fun h' hh' => ?_).after first fun _ _ => List.not_mem_nil
    rw [rule_of_rules first.rules]
    exact hr h' (List.mem_cons_of_mem _ hh')

/-! ### Evaluations (R111) -/

/-- R109: whether the HEAD of a place holds for a record, judged by the engine as it stands. -/
def Work.holdsAt (b : Base) (w : Work) (x : Service) (r : Rule) : Bool :=
  w.nre.headHolds b.tbs.t w.nre.ruleTime w.nre.ruleTime r x

theorem mem_falling {b : Base} {group : Rule → Bool} {a c : Int} {x : Service} {w : Work} {h : Nat} :
    h ∈ w.falling b group a c x ↔ h < 64 ∧ h ∈ x.held ∧
      ∃ r, w.nre.rule h = some r ∧ group r = true ∧ w.nre.headHolds b.tbs.t a c r x = false := by
  unfold Work.falling
  rw [List.mem_filter, List.mem_range, Bool.and_eq_true, List.contains_iff_mem]
  refine and_congr (by rfl) (and_congr_right fun _ => ?_)
  split
  · next r hr => simp [hr]
  · next hr => simp [hr]

theorem mem_rising {b : Base} {group : Rule → Bool} {a c : Int} {x : Service} {w : Work} {h : Nat} :
    h ∈ w.rising b group a c x ↔ h < 64 ∧ h ∉ x.held ∧
      ∃ r, w.nre.rule h = some r ∧ group r = true ∧ w.nre.headHolds b.tbs.t a c r x = true := by
  unfold Work.rising
  rw [List.mem_filter, List.mem_range, Bool.and_eq_true, Bool.not_eq_true', ← Bool.not_eq_true, List.contains_iff_mem]
  refine and_congr (by rfl) (and_congr_right fun _ => ?_)
  split
  · next r hr => simp [hr]
  · next hr => simp [hr]

/-- R111: an evaluation of a service that is held. -/
theorem evaluate_edges (b : Base) (group : Rule → Bool) (loud : Bool) (a c : Int) {key : Key} {w : Work} {x : Service}
    (hx : w.svt.find key = some x) :
    w.Edges key (w.falling b group a c x) (w.rising b group a c x) (w.evaluate b group loud a c key) := by
  unfold Work.evaluate
  rw [hx]
  have falls := fallEdges_edges b key (w.falling b group a c x) w
  have rises := riseEdges_edges b loud key (w.rising b group a c x) _ fun h hh => by
    obtain ⟨-, -, r, hr, -⟩ := mem_rising.mp hh
    exact ⟨r, (rule_of_rules falls.rules h).trans hr⟩
  have both := rises.after falls fun _ hn => absurd hn List.not_mem_nil
  rw [List.append_nil, List.nil_append] at both
  exact both

theorem evaluate_absent (b : Base) (group : Rule → Bool) (loud : Bool) (a c : Int) {key : Key} {w : Work}
    (hx : w.svt.find key = none) : w.evaluate b group loud a c key = w := by
  unfold Work.evaluate
  rw [hx]

theorem Work.Edges.derived {key : Key} {f r : List Nat} {w v u : Work} (h : w.Edges key f r v) (k : v.DeriveOnly u) :
    w.Edges key f r u := by
  have both := (k.edges key).after h fun _ _ => List.not_mem_nil
  rwa [List.append_nil, List.append_nil] at both

/-- R111: an evaluation, and the Board Composer told. -/
theorem evaluateTell_edges (b : Base) (group : Rule → Bool) (loud : Bool) (a c : Int) {key : Key} {w : Work} {x : Service}
    (hx : w.svt.find key = some x) :
    w.Edges key (w.falling b group a c x) (w.rising b group a c x) (w.evaluateTell b group loud a c key) :=
  (evaluate_edges b group loud a c hx).derived (deriveOnly_moves.tell ..)

theorem headHolds_bare (n : Nre) (t a c : Int) (r : Rule) {x y : Service} (h : y.bare = x.bare) :
    n.headHolds t a c r y = n.headHolds t a c r x := by
  have same : ∀ z : Service, n.headHolds t a c r z = n.headHolds t a c r z.bare := fun _ => rfl
  rw [same, h, ← same]

theorem edges_judged {b : Base} {group : Rule → Bool} {a c : Int} {x y : Service} {w v : Work} (hb : y.bare = x.bare)
    (hn : v.nre = w.nre) : v.falling b group a c y = w.falling b group a c x ∧ v.rising b group a c y = w.rising b group a c x := by
  have held : y.held = x.held := (congrArg Service.held hb :)
  unfold Work.falling Work.rising
  simp only [held, hn, headHolds_bare _ _ _ _ _ hb, true_and]

/-- R30, R114: what a record change event comes to before its marks. -/
theorem change_edges (b : Base) {key : Key} (p : Bool) {w : Work} {x : Service} (hx : w.svt.find key = some x) :
    w.Edges key (w.falling b (fun _ => true) w.nre.ruleTime w.nre.ruleTime x)
      (w.rising b (fun _ => true) w.nre.ruleTime w.nre.ruleTime x) ((w.boardChange b key p).evaluateChange b key) := by
  obtain ⟨hbare, hnre⟩ := boardChange_bare b key p w
  obtain ⟨y, hy, hyx⟩ := find_of_bare hbare hx
  have told := evaluateTell_edges b (fun _ => true) true (w.boardChange b key p).nre.ruleTime (w.boardChange b key p).nre.ruleTime hy
  obtain ⟨hf, hr⟩ := edges_judged (b := b) (group := fun _ => true) (a := w.nre.ruleTime) (c := w.nre.ruleTime) hyx hnre
  rw [hnre, hf, hr] at told
  have both := told.after (edges_none key hbare hnre) fun _ hn => absurd hn List.not_mem_nil
  rw [List.nil_append, List.nil_append, ← hnre] at both
  rw [hnre] at both
  unfold Work.evaluateChange
  rw [hnre]
  exact both

/-- A record change event of a key not held, before its marks. -/
theorem change_absent (b : Base) {key : Key} (p : Bool) {w : Work} (hx : w.svt.find key = none) :
    w.Edges key [] [] ((w.boardChange b key p).evaluateChange b key) := by
  obtain ⟨hbare, hnre⟩ := boardChange_bare b key p w
  have quiet : ∀ v : Work, v.svt.find key = none → v.DeriveOnly (v.evaluateChange b key) := fun v hv => by
    unfold Work.evaluateChange Work.evaluateTell
    rw [evaluate_absent _ _ _ _ _ hv]
    exact deriveOnly_moves.tell ..
  exact (edges_none key hbare hnre).derived (quiet _ (find_none_of_bare hbare hx))

end Sys2Proof.Machine
end

section
/-!
PROOF. Watch outcomes (R115, R126, R128): a slot that expires or reaches its count sets its flag and is reported; a second event
lowers the TIMEOUT slots.
-/

namespace Sys2Proof.Machine

/-! ### Records through an evaluation -/

/-- A record after edges is one of before but for its held set. -/
theorem Work.Edges.origin {key : Key} {f r : List Nat} {w u : Work} (h : w.Edges key f r u) {y : Service}
    (hy : y ∈ u.svt.services) : ∃ x ∈ w.svt.services, x.key = y.key ∧ y.bare = { x.bare with held := y.held } ∧
      (y.key ≠ key → y.held = x.held) ∧ (y.key = key → ∀ k, k ∈ y.held ↔ (k ∈ x.held ∧ k ∉ f) ∨ k ∈ r) := by
  obtain ⟨g, hg, hgm⟩ := h.records
  have hmem : y.bare ∈ u.svt.bare := List.mem_map_of_mem hy
  rw [hg] at hmem
  obtain ⟨z, hz, hzy⟩ := List.mem_map.mp hmem
  obtain ⟨x, hx, rfl⟩ := List.mem_map.mp hz
  have hkey : x.key = y.key := by
    have hk : (heldAs key g x.bare).key = y.key := (congrArg Service.key hzy :)
    unfold heldAs at hk
    split at hk <;> exact hk
  refine ⟨x, hx, hkey, ?_, fun hne => ?_, fun heq k => ?_⟩
  · have hh : (heldAs key g x.bare).held = y.held := (congrArg Service.held hzy :)
    rw [← hzy, ← hh]
    unfold heldAs
    split <;> rfl
  · rw [heldAs, if_neg (show ¬ x.bare.key = key from fun hk => hne (hkey.symm.trans hk))] at hzy
    exact (congrArg Service.held hzy.symm :)
  · rw [heldAs, if_pos (show x.bare.key = key from hkey.trans heq)] at hzy
    have hh : g x.held = y.held := (congrArg Service.held hzy :)
    rw [← hh]
    exact hgm k x.held

/-- Every record of a key satisfies `P`. -/
def Work.allOf (key : Key) (P : Service → Prop) (w : Work) : Prop := ∀ x ∈ w.svt.services, x.key = key → P x

/-- Edges keep what every record of a key has beside its held set. -/
theorem Work.Edges.allOf {key key' : Key} {f r : List Nat} {w u : Work} (h : w.Edges key f r u) {P : Service → Prop}
    (hP : ∀ x y : Service, y.bare = { x.bare with held := y.held } → P x → P y) (hw : w.allOf key' P) : u.allOf key' P := by
  intro y hy hk
  obtain ⟨x, hx, hxy, hbare, -⟩ := h.origin hy
  exact hP x y hbare (hw x hx (hxy.trans hk))

theorem stale_of_bare (x y : Service) (h : y.bare = { x.bare with held := y.held }) (hx : x.stale = true) : y.stale = true :=
  (congrArg Service.stale h :).trans hx

theorem unsettled_of_bare (x y : Service) (h : y.bare = { x.bare with held := y.held }) (hx : x.unsettled = true) :
    y.unsettled = true := (congrArg Service.unsettled h :).trans hx

theorem updateService_allOf {key key' : Key} {f : Service → Service} {P : Service → Prop} {w : Work} (hf : ∀ x, (f x).key = x.key)
    (hP : ∀ x, P x → P (f x)) (hw : w.allOf key' P) : (w.updateService key f).allOf key' P := by
  intro y hy hk
  obtain ⟨x, hx, rfl⟩ := List.mem_map.mp hy
  by_cases hkey : (x.key == key) = true
  · rw [if_pos hkey] at hk ⊢
    exact hP x (hw x hx ((hf x).symm.trans hk))
  · rw [if_neg hkey] at hk ⊢
    exact hw x hx hk

theorem updateService_all {key : Key} {f : Service → Service} {P : Service → Prop} {w : Work}
    (hP : ∀ x, P (f x)) : (w.updateService key f).allOf key P := by
  intro y hy hk
  obtain ⟨x, hx, rfl⟩ := List.mem_map.mp hy
  by_cases hkey : (x.key == key) = true
  · rw [if_pos hkey]
    exact hP x
  · rw [if_neg hkey] at hk
    exact absurd hk (by simpa using hkey)

/-! ### The flag, the report and the slot -/

/-- R126, R128: a record's flag set, the outcome reported, and the slot rewritten. -/
def Work.marked (key : Key) (f : Service → Service) (rep : ReportBody) (i : Nat) (o : Option Slot) (w : Work) : Work :=
  ((w.updateService key f).raise rep).mapNre fun n => { n with slots := n.slots.set i o }

/-- The stale flag set. -/
def Service.markStale (x : Service) : Service := { x with stale := true }

/-- The unsettled flag set. -/
def Service.markUnsettled (x : Service) : Service := { x with unsettled := true }

theorem expireSlot_eq (b : Base) {i h period left : Nat} {key : Key} {fresh : Bool} {w : Work}
    (hs : w.nre.slots.getD i none = some ⟨h, key, .timeout period left, fresh⟩) : w.expireSlot b i =
      if (w.svt.find key).map Service.stale = some false then
        (w.marked key Service.markStale (.watchExpired h key period) i none).flagChange b key
      else w.marked key Service.markStale (.watchExpired h key period) i none := by
  unfold Work.expireSlot
  rw [hs]
  rfl

theorem reachSlot_eq (b : Base) {i h th n : Nat} {key : Key} {fresh : Bool} {w : Work}
    (hs : w.nre.slots.getD i none = some ⟨h, key, .count th n, fresh⟩) : w.reachSlot b i =
      if (w.svt.find key).map Service.unsettled = some false then
        (w.marked key Service.markUnsettled (.watchCount h key th) i (some ⟨h, key, .count th 0, fresh⟩)).flagChange b key
      else w.marked key Service.markUnsettled (.watchCount h key th) i (some ⟨h, key, .count th 0, fresh⟩) := by
  unfold Work.reachSlot
  rw [hs]
  rfl

theorem expireSlot_other (b : Base) {i : Nat} {w : Work}
    (hs : ∀ h key period left fresh, w.nre.slots.getD i none ≠ some ⟨h, key, .timeout period left, fresh⟩) :
    w.expireSlot b i = w := by
  unfold Work.expireSlot
  split
  · next h key period left fresh heq => exact absurd heq (hs h key period left fresh)
  · rfl

section marked
variable {key : Key} {f : Service → Service} {rep : ReportBody} {i : Nat} {o : Option Slot} {w : Work}

theorem marked_slots : (w.marked key f rep i o).nre.slots = w.nre.slots.set i o := rfl

theorem marked_rules : (w.marked key f rep i o).nre.rules = w.nre.rules := rfl

theorem marked_ruleTime : (w.marked key f rep i o).nre.ruleTime = w.nre.ruleTime := rfl

theorem marked_services : (w.marked key f rep i o).svt = (w.updateService key f).svt := rfl

theorem marked_held (hf : ∀ x, (f x).key = x.key ∧ (f x).held = x.held) :
    (w.marked key f rep i o).svt.heldView = w.svt.heldView := Svt.heldView_update fun x _ _ => hf x

theorem marked_kept (hf : ∀ x, (f x).core = x.core) : (w.marked key f rep i o).kept = w.kept :=
  (Work.mapNre_kept _ _ rfl).trans ((Work.raise_kept _ _).trans (Work.updateService_kept key f hf w))

end marked

/-- R30, R114: the change that a flag brings, if it was clear: the HEADs that fall were held, and those that rise were not. -/
theorem flagged_edges (b : Base) (key : Key) (clear : Prop) [Decidable clear] (v : Work) : ∃ fallen risen,
    v.Edges key fallen risen (if clear then v.flagChange b key else v) ∧ (¬ clear → fallen = [] ∧ risen = []) ∧
      (∀ k ∈ fallen, k ∉ risen) ∧ ∀ k ∈ risen, ∃ p ∈ v.svt.heldView, p.1 = key ∧ k ∉ p.2 := by
  by_cases hc : clear
  · rw [if_pos hc]
    cases hx : v.svt.find key with
    | none =>
      exact ⟨[], [], change_absent b false hx, fun h => absurd hc h, fun _ h => absurd h List.not_mem_nil,
        fun _ h => absurd h List.not_mem_nil⟩
    | some x =>
      refine ⟨_, _, change_edges b false hx, fun h => absurd hc h, fun k hf hr =>
        (mem_rising.mp hr).2.1 (mem_falling.mp hf).2.1, fun k hk => ?_⟩
      obtain ⟨hmem, hkey⟩ := Svt.find_mem hx
      exact ⟨(x.key, x.held), List.mem_map.mpr ⟨x, hmem, rfl⟩, hkey, (mem_rising.mp hk).2.1⟩
  · rw [if_neg hc]
    exact ⟨[], [], edges_none key rfl rfl, fun _ => ⟨rfl, rfl⟩, fun _ h => absurd h List.not_mem_nil,
      fun _ h => absurd h List.not_mem_nil⟩

/-- R124: the HEAD of a bound slot is in every held set of its key. -/
theorem held_of_bound {w : Work} (hw : w.watchInv) {i : Nat} {x : Slot} (hx : w.nre.slots[i]? = some (some x))
    {p : Key × List Nat} (hp : p ∈ w.svt.heldView) (hk : p.1 = x.key) : x.head ∈ p.2 := by
  have view := (watchInv_iff w).mp hw
  obtain ⟨q, hq, hqk, hqh⟩ := view.bound i x hx
  rw [List.inj_on_of_nodup_map view.keys hp hq (hk.trans hqk.symm)]
  exact hqh

theorem slot_of_getD {l : List (Option Slot)} {i : Nat} {x : Slot} (h : l.getD i none = some x) : l[i]? = some (some x) := by
  rw [List.getD_eq_getElem?_getD] at h
  cases hi : l[i]? with
  | none => rw [hi] at h; cases h
  | some o => rw [hi] at h; exact congrArg some h

/-- R126, R128: the slots of the outcome's pair afterwards: only the rewritten one, which stays as long as its HEAD holds. -/
theorem outcome_slots {w u : Work} {i : Nat} {x : Slot} {key : Key} {f : Service → Service} {rep : ReportBody} {o : Option Slot}
    {fallen risen : List Nat} (hw : w.watchInv) (hx : w.nre.slots[i]? = some (some x)) (hk : x.key = key)
    (hf : ∀ x, (f x).key = x.key ∧ (f x).held = x.held) (hedges : (w.marked key f rep i o).Edges key fallen risen u)
    (hrisen : ∀ k ∈ risen, ∃ p ∈ (w.marked key f rep i o).svt.heldView, p.1 = key ∧ k ∉ p.2) :
    (∀ y, some y ∈ u.nre.slots → y.head = x.head → y.key = x.key → o = some y) ∧
      ∀ y, o = some y → y.head = x.head → y.key = x.key → (∃ z ∈ u.svt.services, z.key = key ∧ x.head ∈ z.held) →
        u.nre.slots[i]? = some (some y) := by
  have hnot : x.head ∉ risen := fun hm => by
    obtain ⟨p, hp, hpk, hph⟩ := hrisen _ hm
    rw [marked_held hf] at hp
    exact hph (held_of_bound hw hx hp (hpk.trans hk.symm))
  have hlt : i < w.nre.slots.length := by
    by_contra hge
    rw [List.getElem?_eq_none (Nat.le_of_not_lt hge)] at hx
    cases hx
  refine ⟨fun y hy hh hyk => ?_, fun y ho hh hyk ⟨z, hz, hzk, hzh⟩ => hedges.stays i y ?_ fun _ => ?_⟩
  · obtain ⟨j, hj⟩ := List.mem_iff_getElem?.mp hy
    rcases hedges.source j y hj with hm | ⟨-, hm⟩
    · rw [marked_slots, List.getElem?_set] at hm
      split at hm
      · exact Option.some.inj hm
      · next hij => exact absurd (((watchInv_iff w).mp hw).single j i y x hm hx hh hyk).symm hij
    · rw [hh] at hm
      exact absurd hm hnot
  · rw [marked_slots, List.getElem?_set, if_pos rfl, if_pos hlt, ho]
  · obtain ⟨z', -, -, -, -, hheld⟩ := hedges.origin hz
    rw [hh]
    rcases (hheld hzk x.head).mp hzh with ⟨-, h⟩ | h
    · exact h
    · exact absurd h hnot

/-! ### Watch outcomes taken by themselves (R126, R128) -/

theorem raised_stands {w v u : Work} {r : ReportBody} (hhlu : v.hlu = (w.raise r).hlu) (hg : v.Grows (fun _ => True) u)
    (hm : w.hlu.mask.contains r.cls = true) (hroom : w.hlu.reports.length < Config.maxReports) :
    ∃ rep ∈ u.hlu.pump.reports, rep.body = r := by
  rw [pump_reports]
  exact grows_stands (grows_step hg hhlu) hm hroom

theorem flagged_grows (b : Base) (key : Key) (clear : Prop) [Decidable clear] (v : Work) :
    v.Grows (fun _ => True) (if clear then v.flagChange b key else v) :=
  grows_ite (Work.flagChange_grows trivial trivial trivial b key v) (grows_refl v)

/-- R126: WATCH_EXPIRY. -/
theorem watchExpiry_outcome (i : Fin 24) (head : Nat) (key : Key) (fresh : Bool) (s : State) (period left : Nat)
    (hs : s.work.nre.slots.getD i none = some ⟨head, key, .timeout period left, fresh⟩) :
    ∃ t, exec (.watchExpiry i) s = .next t ∧ t.base = s.base ∧ t.scd = s.scd ∧ t.pending = s.pending ∧
      t.work.settled = s.work.settled ∧ (∀ x ∈ t.work.svt.services, x.key = key → x.stale = true) ∧
      ((s.work.svt.find key).map Service.stale = some true → t.work.nre.slots = s.work.nre.slots.set i none) ∧
      (s.work.watchInv → ∀ x, some x ∈ t.work.nre.slots → ¬ (x.head = head ∧ x.key = key)) ∧
      (s.work.hlu.mask.contains .watch = true → s.work.hlu.reports.length < 24 →
        ∃ rep ∈ t.work.hlu.reports, rep.body = .watchExpired head key period) := by
  have heq := expireSlot_eq s.base hs
  obtain ⟨fallen, risen, hedges, -, -, hrisen⟩ := flagged_edges s.base key ((s.work.svt.find key).map Service.stale = some false)
    (s.work.marked key Service.markStale (.watchExpired head key period) i none)
  have hgrows := flagged_grows s.base key ((s.work.svt.find key).map Service.stale = some false)
    (s.work.marked key Service.markStale (.watchExpired head key period) i none)
  rw [← heq] at hedges hgrows
  refine ⟨(s.mapWork (Work.expireSlot s.base i.val)).finish, rfl, rfl, rfl, rfl, ?_, ?_, fun hst => ?_, fun hw x hx hpair => ?_,
    fun hm hroom => raised_stands
      (v := s.work.marked key Service.markStale (.watchExpired head key period) i none)
      (w := s.work.updateService key Service.markStale) rfl hgrows hm hroom⟩
  · rw [finish_settled, State.mapWork_work]
    exact kept_settled (Work.expireSlot_kept ..)
  · exact hedges.allOf stale_of_bare (updateService_all (f := Service.markStale) fun _ => rfl)
  · show (s.work.expireSlot s.base i.val).nre.slots = _
    rw [heq, if_neg (by rw [hst]; decide)]
    rfl
  · have hnone := (outcome_slots hw (slot_of_getD hs) rfl (f := Service.markStale) (fun _ => ⟨rfl, rfl⟩) hedges hrisen).1
      x hx hpair.1 hpair.2
    cases hnone

/-- R128: WATCH_COUNT. -/
theorem watchCount_outcome (i : Fin 24) (head : Nat) (key : Key) (fresh : Bool) (s : State) (threshold n : Nat)
    (hs : s.work.nre.slots.getD i none = some ⟨head, key, .count threshold n, fresh⟩) :
    ∃ t, exec (.watchCount i) s = .next t ∧ t.base = s.base ∧ t.scd = s.scd ∧ t.pending = s.pending ∧
      t.work.settled = s.work.settled ∧ (∀ x ∈ t.work.svt.services, x.key = key → x.unsettled = true) ∧
      ((s.work.svt.find key).map Service.unsettled = some true →
        t.work.nre.slots = s.work.nre.slots.set i (some ⟨head, key, .count threshold 0, fresh⟩)) ∧
      (s.work.watchInv →
        (∀ x, some x ∈ t.work.nre.slots → x.head = head → x.key = key → x = ⟨head, key, .count threshold 0, fresh⟩) ∧
          ((∃ x ∈ t.work.svt.services, x.key = key ∧ head ∈ x.held) →
            t.work.nre.slots.getD i none = some ⟨head, key, .count threshold 0, fresh⟩)) ∧
      (s.work.hlu.mask.contains .watch = true → s.work.hlu.reports.length < 24 →
        ∃ rep ∈ t.work.hlu.reports, rep.body = .watchCount head key threshold) := by
  have heq := reachSlot_eq s.base hs
  obtain ⟨fallen, risen, hedges, -, -, hrisen⟩ := flagged_edges s.base key ((s.work.svt.find key).map Service.unsettled = some false)
    (s.work.marked key Service.markUnsettled (.watchCount head key threshold) i (some ⟨head, key, .count threshold 0, fresh⟩))
  have hgrows := flagged_grows s.base key ((s.work.svt.find key).map Service.unsettled = some false)
    (s.work.marked key Service.markUnsettled (.watchCount head key threshold) i (some ⟨head, key, .count threshold 0, fresh⟩))
  rw [← heq] at hedges hgrows
  refine ⟨(s.mapWork (Work.reachSlot s.base i.val)).finish, rfl, rfl, rfl, rfl, ?_, ?_, fun hst => ?_, fun hw => ?_,
    fun hm hroom => raised_stands
      (v := s.work.marked key Service.markUnsettled (.watchCount head key threshold) i (some ⟨head, key, .count threshold 0, fresh⟩))
      (w := s.work.updateService key Service.markUnsettled) rfl hgrows hm hroom⟩
  · rw [finish_settled, State.mapWork_work]
    exact kept_settled (Work.reachSlot_kept ..)
  · exact hedges.allOf unsettled_of_bare (updateService_all (f := Service.markUnsettled) fun _ => rfl)
  · show (s.work.reachSlot s.base i.val).nre.slots = _
    rw [heq, if_neg (by rw [hst]; decide)]
    rfl
  · obtain ⟨honly, hstays⟩ := outcome_slots hw (slot_of_getD hs) rfl (f := Service.markUnsettled) (fun _ => ⟨rfl, rfl⟩) hedges hrisen
    refine ⟨fun x hx hh hk => (Option.some.inj (honly x hx hh hk)).symm, fun hheld => ?_⟩
    rw [List.getD_eq_getElem?_getD]
    show ((s.work.reachSlot s.base i.val).nre.slots[i.val]?).getD none = _
    rw [hstays _ rfl rfl rfl hheld]
    rfl

end Sys2Proof.Machine
end

section
/-!
PROOF. The watch slots at a second event that brings nothing else about (R115, R126): every TIMEOUT slot is lowered, and the lowest
that reaches 0 expires.
-/

namespace Sys2Proof.Machine

/-! ### What brings nothing about -/

theorem foldl_fixed {α : Type} {f : Work → α → Work} {w : Work} {l : List α} (h : ∀ a ∈ l, f w a = w) : l.foldl f w = w := by
  induction l with
  | nil => rfl
  | cons a l ih =>
    rw [List.foldl_cons, h a (List.mem_cons_self ..)]
    exact ih fun b hb => h b (List.mem_cons_of_mem _ hb)

/-- A loop over numbers that does nothing below `i`: what it does from `i` on. -/
theorem foldl_range_from {f : Work → Nat → Work} {n i : Nat} {w : Work} (hi : i < n) (h : ∀ j < i, f w j = w) :
    ∃ l : List Nat, (List.range n).foldl f w = l.foldl f (f w i) := by
  obtain ⟨m, rfl⟩ := Nat.exists_eq_add_of_le hi
  refine ⟨(List.range m).map (i + 1 + ·), ?_⟩
  have below : (List.range i).foldl f w = w := foldl_fixed fun j hj => h j (List.mem_range.mp hj)
  rw [List.range_add, List.foldl_append, List.range_succ, List.foldl_append, below]
  rfl

/-- R25, R29: nothing is staged and no timer runs. -/
theorem serviceSecond_quiet {b : Base} {w : Work} (h : ∀ x ∈ w.svt.services, x.staged = none ∧ x.timer = none) :
    w.serviceSecond b = w := by
  have staged : w.applyStagedAll b = w := foldl_fixed fun key _ => by
    unfold Work.applyStaged
    split
    · next x hx => rw [(h x (Svt.find_mem hx).1).1]
    · rfl
  have unchanged : ∀ x ∈ w.svt.services, x.countTimer = id x := fun x hx => by
    have htimer := (h x hx).2
    obtain ⟨⟩ := x
    dsimp only at htimer
    subst htimer
    rfl
  have counted : w.svt.services.map Service.countTimer = w.svt.services :=
    (List.map_congr_left unchanged).trans (List.map_id _)
  have ended : w.countTimers b = w := by
    unfold Work.countTimers
    rw [counted]
    refine foldl_fixed fun key _ => if_neg fun hz => ?_
    obtain ⟨x, hx, ht⟩ := Option.bind_eq_some_iff.mp hz
    rw [(h x (Svt.find_mem hx).1).2] at ht
    cases ht
  unfold Work.serviceSecond
  rw [staged, ended]

/-- R86: the boards at a second event leave the rules, and of the records all but flash counts and confirmation sets. -/
theorem boardSecond_bare (b : Base) (w : Work) : (w.boardSecond b).svt.bare = w.svt.bare ∧ (w.boardSecond b).nre = w.nre := by
  have derived := deriveOnly_moves.countPages b ((List.range 16).filter w.lowerFlashes.pageEnds) w.lowerFlashes
  refine ⟨derived.bare.trans ?_, derived.nre⟩
  exact List.map_map.trans (List.map_congr_left fun _ _ => rfl)

/-- R110: nothing to tell where no set and no count has changed. -/
theorem toldOf_same (key : Key) (w : Work) : toldOf key w w = ⟨[], []⟩ := by
  unfold toldOf passedZero
  simp

/-- R115 step 2: no HEAD is a time HEAD. -/
theorem evaluateTimed_quiet {b : Base} {w : Work} (h : ∀ i r, w.nre.rule i = some r → w.nre.timeHead r = false) :
    w.evaluateTimed b = w := foldl_fixed fun key _ => by
  have same : w.evaluate b w.nre.timeHead true b.tbs.tHigh b.tbs.tHigh key = w := by
    unfold Work.evaluate
    split
    · rfl
    · next x _ =>
      have rises : w.rising b w.nre.timeHead b.tbs.tHigh b.tbs.tHigh x = [] := List.eq_nil_iff_forall_not_mem.mpr fun i hi => by
        obtain ⟨-, -, r, hr, hg, -⟩ := mem_rising.mp hi
        rw [h i r hr] at hg
        cases hg
      have falls : w.falling b w.nre.timeHead b.tbs.tHigh b.tbs.tHigh x = [] := List.eq_nil_iff_forall_not_mem.mpr fun i hi => by
        obtain ⟨-, -, r, hr, hg, -⟩ := mem_falling.mp hi
        rw [h i r hr] at hg
        cases hg
      rw [rises, falls]
      rfl
  unfold Work.evaluateTell
  rw [same, toldOf_same]
  rfl

/-! ### The slots lowered (R126) -/

/-- R126: a bound slot after a second event that does not expire it. -/
def Slot.lowered (x : Slot) : Slot :=
  { x with fresh := false, mode := match x.mode with | .timeout p left => .timeout p (left - 1) | m => m }

theorem lowerSlot_lowered (x : Slot) : lowerSlot { x with fresh := false } = x.lowered := by
  unfold lowerSlot Slot.lowered
  cases hm : x.mode <;> simp

/-- R115: the rule time and the slots before the expiries of a second event that evaluates no HEAD. -/
def Work.lowered (b : Base) (w : Work) : Work :=
  w.mapNre fun n => { n with ruleTime := b.tbs.tHigh, slots := n.slots.map (Option.map Slot.lowered) }

/-- R126: the expiry of one slot, if it has ended. -/
def Work.expireEnded (b : Base) (w : Work) (i : Nat) : Work := if slotEnded (w.nre.slots.getD i none) then w.expireSlot b i else w

theorem noticeSecond_quiet {b : Base} {w : Work} (h : ∀ i r, w.nre.rule i = some r → w.nre.timeHead r = false) :
    w.noticeSecond b = (List.range 24).foldl (Work.expireEnded b) (w.lowered b) := by
  unfold Work.noticeSecond
  dsimp only
  rw [evaluateTimed_quiet (w := w.mapNre fun n => ({ n with ruleTime := b.tbs.tHigh } : Nre).mapSlots fun s => { s with fresh := false })
    h]
  refine congrArg (List.foldl (Work.expireEnded b) · (List.range 24)) ?_
  refine congrArg (fun l => { w with nre := { w.nre with ruleTime := b.tbs.tHigh, slots := l } }) ?_
  show (w.nre.slots.map (Option.map fun s => { s with fresh := false })).map (Option.map lowerSlot) = _
  rw [List.map_map]
  refine List.map_congr_left fun o _ => ?_
  cases o with
  | none => rfl
  | some x => exact congrArg some (lowerSlot_lowered x)

theorem lowered_getD (b : Base) (w : Work) (i : Nat) :
    (w.lowered b).nre.slots.getD i none = (w.nre.slots.getD i none).map Slot.lowered := by
  rw [List.getD_eq_getElem?_getD, List.getD_eq_getElem?_getD]
  show ((w.nre.slots.map (Option.map Slot.lowered))[i]?).getD none = _
  rw [List.getElem?_map]
  cases w.nre.slots[i]? <;> rfl

/-- A slot with more than one second left has not ended. -/
theorem expireEnded_running {b : Base} {w : Work} {i : Nat}
    (h : ∀ x p left, w.nre.slots[i]? = some (some x) → x.mode = .timeout p left → 1 < left) :
    (w.lowered b).expireEnded b i = w.lowered b := by
  refine if_neg fun hended => ?_
  rw [lowered_getD] at hended
  cases hx : w.nre.slots.getD i none with
  | none => rw [hx] at hended; cases hended
  | some x =>
    rw [hx] at hended
    have running := fun p left => h x p left (slot_of_getD hx)
    unfold slotEnded at hended
    split at hended
    · next hd key p fresh heq =>
      have hmode := congrArg Slot.mode (Option.some.inj heq)
      unfold Slot.lowered at hmode
      dsimp only at hmode
      cases hm : x.mode with
      | timeout q left =>
        rw [hm] at hmode
        have := running q left hm
        injection hmode with _ hleft
        omega
      | count th n =>
        rw [hm] at hmode
        cases hmode
    · cases hended

/-- A slot with at most one second left expires. -/
theorem expireEnded_ended {b : Base} {w : Work} {i : Nat} {x : Slot} {p left : Nat} (hx : w.nre.slots[i]? = some (some x))
    (hm : x.mode = .timeout p left) (hleft : left ≤ 1) : (w.lowered b).nre.slots.getD i none = some ⟨x.head, x.key, .timeout p 0, false⟩ ∧
      (w.lowered b).expireEnded b i = (w.lowered b).expireSlot b i := by
  have hget : (w.lowered b).nre.slots.getD i none = some ⟨x.head, x.key, .timeout p 0, false⟩ := by
    rw [lowered_getD, List.getD_eq_getElem?_getD, hx]
    refine congrArg some ?_
    unfold Slot.lowered
    rw [hm]
    dsimp only
    rw [show left - 1 = 0 by omega]
  refine ⟨hget, if_pos ?_⟩
  rw [hget]
  rfl

/-! ### The expiry kept (R126) -/

/-- A later expiry leaves every stale flag. -/
theorem expireSlot_stale (b : Base) (i : Nat) {key : Key} {w : Work} (h : w.allOf key fun x => x.stale = true) :
    (w.expireSlot b i).allOf key fun x => x.stale = true := by
  by_cases hs : ∃ hd k period left fresh, w.nre.slots.getD i none = some ⟨hd, k, .timeout period left, fresh⟩
  · obtain ⟨hd, k, period, left, fresh, hs⟩ := hs
    rw [expireSlot_eq b hs]
    obtain ⟨fallen, risen, hedges, -⟩ := flagged_edges b k ((w.svt.find k).map Service.stale = some false)
      (w.marked k Service.markStale (.watchExpired hd k period) i none)
    exact hedges.allOf stale_of_bare (updateService_allOf (f := Service.markStale) (fun _ => rfl) (fun _ _ => rfl) h)
  · rw [expireSlot_other b fun hd k period left fresh heq => hs ⟨hd, k, period, left, fresh, heq⟩]
    exact h

theorem expireSlot_stales {b : Base} {i hd period left : Nat} {key : Key} {fresh : Bool} {w : Work}
    (hs : w.nre.slots.getD i none = some ⟨hd, key, .timeout period left, fresh⟩) :
    (w.expireSlot b i).allOf key fun x => x.stale = true := by
  rw [expireSlot_eq b hs]
  obtain ⟨fallen, risen, hedges, -⟩ := flagged_edges b key ((w.svt.find key).map Service.stale = some false)
    (w.marked key Service.markStale (.watchExpired hd key period) i none)
  exact hedges.allOf stale_of_bare (updateService_all (f := Service.markStale) fun _ => rfl)

theorem expireEndeds_stale (b : Base) (l : List Nat) {key : Key} {w : Work} (h : w.allOf key fun x => x.stale = true) :
    (l.foldl (Work.expireEnded b) w).allOf key fun x => x.stale = true := by
  induction l generalizing w with
  | nil => exact h
  | cons i l ih =>
    refine ih ?_
    unfold Work.expireEnded
    split
    · exact expireSlot_stale b i h
    · exact h

theorem expireEndeds_grows (b : Base) (l : List Nat) (w : Work) : w.Grows (fun _ => True) (l.foldl (Work.expireEnded b) w) :=
  grows_foldl (fun w i => grows_ite (w.expireSlot_grows trivial trivial trivial b i) (grows_refl w)) l w

theorem expireSlot_reports {b : Base} {i hd period left : Nat} {key : Key} {fresh : Bool} {w : Work}
    (hs : w.nre.slots.getD i none = some ⟨hd, key, .timeout period left, fresh⟩) :
    ((w.updateService key Service.markStale).raise (.watchExpired hd key period)).Grows (fun _ => True) (w.expireSlot b i) := by
  have h := flagged_grows b key ((w.svt.find key).map Service.stale = some false)
    (w.marked key Service.markStale (.watchExpired hd key period) i none)
  rw [← expireSlot_eq b hs] at h
  exact grows_step h rfl

/-! ### The whole second event -/

/-- The Cue Controller and the feed at a second event leave the rules, and of the records all but the confirmation sets. -/
theorem cueSecond_derive (b : Base) (w : Work) : w.DeriveOnly (w.cueSecond b) :=
  ((cuesOnly_select b _).after ((cuesOnly_mapCuc _ _).after (cuesOnly_dropWaiting _ _ w))).derive

theorem feedSecond_derive (b : Base) (w : Work) : w.DeriveOnly (w.feedSecond b) := by
  have lost : ∀ v : Work, v.DeriveOnly (v.loseFeed b) := fun v =>
    (deriveOnly_moves.deriveAll b _).after (w := v) ⟨rfl, rfl⟩
  unfold Work.feedSecond
  split
  · dsimp only
    split
    · exact (lost _).after ⟨rfl, rfl⟩
    · exact ⟨rfl, rfl⟩
  · exact deriveOnly_refl w

theorem clockSecond_derive (s : State) : (s.work.secondBlocks s.base).DeriveOnly s.clockSecond.work := by
  rw [State.clockSecond_work, State.clockEvent_work, State.mapWork_work]
  have raised : ∀ (rs : List ReportBody) (w : Work), w.DeriveOnly (w.raiseAll rs) := fun rs w =>
    (cuesOnly_foldl (fun w r => cuesOnly_raise r w) rs w).derive
  exact (feedSecond_derive s.base _).after (raised _ _)

theorem clockSecond_grows (s : State) : (s.work.secondBlocks s.base).Grows (fun _ => True) s.clockSecond.work := by
  rw [State.clockSecond_work, State.clockEvent_work, State.mapWork_work]
  exact grows_trans (Work.raiseAll_grows (fun _ _ => trivial) _) (Work.feedSecond_grows trivial trivial s.base _)

/-- The work after the notices of a second event that brings nothing else about. -/
theorem secondBlocks_quiet {b : Base} {w : Work} (hr : ∀ x ∈ w.svt.services, x.staged = none ∧ x.timer = none)
    (ht : ∀ i r, w.nre.rule i = some r → w.nre.timeHead r = false) : w.secondBlocks b =
      ((List.range 24).foldl (Work.expireEnded b) ((w.boardSecond b).lowered b)).cueSecond b := by
  unfold Work.secondBlocks
  rw [serviceSecond_quiet hr, noticeSecond_quiet (by rw [(boardSecond_bare b w).2]; exact ht)]

theorem secondEvent_quiet {s : State} (ht : s.base.tbs.t < 86399) (hm : s.base.wrap.tbs.clockSeconds % 60 ≠ 0) :
    s.secondEvent = ({ s with base := s.base.wrap } : State).clockSecond := by
  unfold State.secondEvent
  dsimp only
  rw [if_neg (by omega), State.deliverSecond_within (s := { s with base := s.base.wrap }) hm]

theorem secondEvent_derive {s : State} (ht : s.base.tbs.t < 86399) (hm : s.base.wrap.tbs.clockSeconds % 60 ≠ 0) :
    (s.work.secondBlocks s.base.wrap).DeriveOnly s.secondEvent.work := by
  rw [secondEvent_quiet ht hm]
  exact clockSecond_derive { s with base := s.base.wrap }

theorem secondEvent_grows {s : State} (ht : s.base.tbs.t < 86399) (hm : s.base.wrap.tbs.clockSeconds % 60 ≠ 0) :
    (s.work.secondBlocks s.base.wrap).Grows (fun _ => True) s.secondEvent.work := by
  rw [secondEvent_quiet ht hm]
  exact clockSecond_grows { s with base := s.base.wrap }

/-- R126: the slots of a second event at which none ends. -/
theorem blocks_lower {b : Base} {w : Work} (hr : ∀ x ∈ w.svt.services, x.staged = none ∧ x.timer = none)
    (hh : ∀ i r, w.nre.rule i = some r → w.nre.timeHead r = false)
    (hrun : ∀ x p left, some x ∈ w.nre.slots → x.mode = .timeout p left → 1 < left) :
    (w.secondBlocks b).nre.slots = w.nre.slots.map (Option.map Slot.lowered) := by
  obtain ⟨v, hv⟩ : ∃ v, v = w.boardSecond b := ⟨_, rfl⟩
  have hnre : v.nre = w.nre := by rw [hv]; exact (boardSecond_bare b w).2
  have none_ends : (List.range 24).foldl (Work.expireEnded b) (v.lowered b) = v.lowered b :=
    foldl_fixed fun i _ => expireEnded_running fun x p left hx =>
      hrun x p left (by rw [← hnre]; exact List.mem_of_getElem? hx)
  rw [secondBlocks_quiet hr hh, (cueSecond_derive _ _).nre, ← hv, none_ends, ← hnre]
  rfl

/-- R126: the lowest slot that ends at a second event expires, and its outcome stands after the blocks. -/
theorem blocks_expire {b : Base} {w : Work} (hr : ∀ x ∈ w.svt.services, x.staged = none ∧ x.timer = none)
    (hh : ∀ i r, w.nre.rule i = some r → w.nre.timeHead r = false) {i : Nat} {x : Slot} {p left : Nat} (hi : i < 24)
    (hx : w.nre.slots[i]? = some (some x)) (hmode : x.mode = .timeout p left) (hleft : left ≤ 1)
    (hlow : ∀ (j : Nat) (y : Slot) (q rest : Nat), j < i → w.nre.slots[j]? = some (some y) → y.mode = .timeout q rest →
      1 < rest) :
    ((w.secondBlocks b).allOf x.key fun y => y.stale = true) ∧ ∃ v : Work, v.hlu.mask = w.hlu.mask ∧
      (v.raise (.watchExpired x.head x.key p)).Grows (fun _ => True) (w.secondBlocks b) := by
  obtain ⟨v, hv⟩ : ∃ v, v = w.boardSecond b := ⟨_, rfl⟩
  have hnre : v.nre = w.nre := by rw [hv]; exact (boardSecond_bare b w).2
  have hmask : v.hlu.mask = w.hlu.mask := by rw [hv]; exact kept_mask (Work.boardSecond_kept b w)
  obtain ⟨l, hl⟩ := foldl_range_from (f := Work.expireEnded b) (w := v.lowered b) hi fun j hj =>
    expireEnded_running fun y q rest hy => hlow j y q rest hj (by rwa [hnre] at hy)
  obtain ⟨hget, hexp⟩ := expireEnded_ended (b := b) (by rw [hnre]; exact hx) hmode hleft
  rw [secondBlocks_quiet hr hh, ← hv, hl, hexp]
  refine ⟨((cueSecond_derive b _).edges x.key).allOf stale_of_bare (expireEndeds_stale b l (expireSlot_stales hget)),
    (v.lowered b).updateService x.key Service.markStale, hmask, ?_⟩
  exact grows_trans (expireSlot_reports hget) (grows_trans (expireEndeds_grows b l _) (Work.cueSecond_grows trivial b _))

/-- R126: the lowest slot that ends at a second event expires. -/
theorem second_expires {s : State} (ht : s.base.tbs.t < 86399) (hm : s.base.wrap.tbs.clockSeconds % 60 ≠ 0)
    (hr : ∀ x ∈ s.work.svt.services, x.staged = none ∧ x.timer = none)
    (hh : ∀ i r, s.work.nre.rule i = some r → s.work.nre.timeHead r = false) {i : Nat} {x : Slot} {p left : Nat} (hi : i < 24)
    (hx : s.work.nre.slots[i]? = some (some x)) (hmode : x.mode = .timeout p left) (hleft : left ≤ 1)
    (hlow : ∀ (j : Nat) (y : Slot) (q rest : Nat), j < i → s.work.nre.slots[j]? = some (some y) → y.mode = .timeout q rest →
      1 < rest) :
    (s.secondEvent.work.allOf x.key fun y => y.stale = true) ∧ s.secondEvent.finish.raised (.watchExpired x.head x.key p) := by
  obtain ⟨hstale, v, hmask, hgrows⟩ := blocks_expire (b := s.base.wrap) hr hh hi hx hmode hleft hlow
  refine ⟨((secondEvent_derive ht hm).edges x.key).allOf stale_of_bare hstale, fun hcls hlost => ?_⟩
  have hmask' : s.secondEvent.finish.work.hlu.mask = v.hlu.mask :=
    ((pump_kept _).1.trans (steady_mask (State.secondEvent_steady s))).trans hmask.symm
  rw [hmask'] at hcls
  refine grows_raised (grows_trans hgrows (grows_trans (secondEvent_grows ht hm) (grows_of_rep ?_ ?_))) hcls hlost
  · exact pump_reports _
  · exact (pump_kept _).2.1

/-- Settles O31: an outcome sets the flag, is reported and rewrites its slot before the change that the flag brings, and that
change frees the slot only if its HEAD falls. -/
theorem watchOutcomesSetTheFlags : Obligations.WatchOutcomesSetTheFlags := by
  refine ⟨fun s hq ht hr hh => ?_, fun i head key fresh s => ⟨watchExpiry_outcome i head key fresh s, watchCount_outcome i head key fresh s⟩⟩
  have hsecond : s.takeSecond = s.secondEvent := if_pos ((Timebase.qualified_iff _).mpr hq)
  have hbase : s.secondEvent.base = s.base.wrap := (State.secondEvent_rest s).1
  refine ⟨s.secondEvent.finish, by rw [← hsecond]; rfl, fun hm => ?_⟩
  rw [State.finish_base, hbase] at hm
  exact ⟨fun hrun => (congrArg Nre.slots (secondEvent_derive ht hm).nre).trans (blocks_lower hr hh hrun), fun i x p left hi hx hmode hleft hlow => second_expires ht hm hr hh hi hx hmode hleft hlow⟩

end Sys2Proof.Machine
end

section
/-!
PROOF. A SERVICE PUT that creates (R21, R111, R114): the record joins the table, and the evaluation of its event leaves it the HEADs
that hold for it.
-/

namespace Sys2Proof.Machine

/-! ### Held sets after an evaluation (R111, R114) -/

theorem headHolds_rules {n m : Nre} (h : m.rules = n.rules) (t a c : Int) (r : Rule) (x : Service) :
    m.headHolds t a c r x = n.headHolds t a c r x := by
  have terms : m.termHolds t a c x = n.termHolds t a c x := by
    funext i
    unfold Nre.termHolds
    rw [rule_of_rules h]
  unfold Nre.headHolds
  rw [terms]

/-- R108, R109: whether a HEAD holds does not depend on the held set. -/
theorem headHolds_held (n : Nre) (t a c : Int) (r : Rule) {x y : Service} (h : y.bare = { x.bare with held := y.held }) :
    n.headHolds t a c r y = n.headHolds t a c r x := by
  have same : ∀ z : Service, n.headHolds t a c r z = n.headHolds t a c r { z.bare with held := [] } := fun _ => rfl
  have hbare : ({ y.bare with held := [] } : Service) = { x.bare with held := [] } := by rw [h]
  rw [same, hbare, ← same]

theorem holdsAt_of_rules {b : Base} {w u : Work} (hr : u.nre.rules = w.nre.rules) (ht : u.nre.ruleTime = w.nre.ruleTime)
    (x : Service) (r : Rule) : u.holdsAt b x r = w.holdsAt b x r := by
  unfold Work.holdsAt
  rw [ht]
  exact headHolds_rules hr _ _ _ r x

/-- R111: the held set of every record of a key is that of the HEADs that hold for it. -/
def Work.judged (b : Base) (key : Key) (w : Work) : Prop :=
  w.allOf key fun x => ∀ k r, k < 64 → w.nre.rule k = some r → (k ∈ x.held ↔ w.holdsAt b x r = true)

/-- The records of a key are one record, but for what the boards keep with it. -/
def Work.alike (key : Key) (x : Service) (w : Work) : Prop := w.allOf key fun y => y.bare = x.bare

/-- R114: after the evaluation of a record change event the held set is that of the HEADs that hold. -/
theorem change_judged (b : Base) {key : Key} (p : Bool) {w : Work} {x : Service} (hx : w.svt.find key = some x)
    (ha : w.alike key x) : ((w.boardChange b key p).evaluateChange b key).judged b key := by
  have hedges := change_edges b p hx
  intro y hy hkey k r hk hr
  obtain ⟨z, hz, hzy, hbare, -, hheld⟩ := hedges.origin hy
  have hzx : z.bare = x.bare := ha z hz (hzy.trans hkey)
  have hzheld : z.held = x.held := (congrArg Service.held hzx :)
  rw [rule_of_rules hedges.rules] at hr
  have hholds : Work.holdsAt b ((w.boardChange b key p).evaluateChange b key) y r =
      w.nre.headHolds b.tbs.t w.nre.ruleTime w.nre.ruleTime r x :=
    (holdsAt_of_rules hedges.rules hedges.ruleTime y r).trans ((headHolds_held _ _ _ _ r hbare).trans (headHolds_bare _ _ _ _ r hzx))
  have hfalls : k ∈ w.falling b (fun _ => true) w.nre.ruleTime w.nre.ruleTime x ↔
      k ∈ x.held ∧ w.nre.headHolds b.tbs.t w.nre.ruleTime w.nre.ruleTime r x = false := by
    rw [mem_falling, hr]
    simp [hk]
  have hrises : k ∈ w.rising b (fun _ => true) w.nre.ruleTime w.nre.ruleTime x ↔
      k ∉ x.held ∧ w.nre.headHolds b.tbs.t w.nre.ruleTime w.nre.ruleTime r x = true := by
    rw [mem_rising, hr]
    simp [hk]
  rw [hholds, hheld hkey k, hzheld, hfalls, hrises]
  cases w.nre.headHolds b.tbs.t w.nre.ruleTime w.nre.ruleTime r x <;> simp [em]

/-! ### The arrival (R186) -/

/-- R186: a frame that ends DEGRADED leaves the rules, and of the records all but their confirmation sets. -/
theorem restoreFeed_derive (b : Base) (w : Work) : w.DeriveOnly (w.restoreFeed b) := by
  unfold Work.restoreFeed
  split
  · exact (deriveOnly_moves.deriveAll b _).after ⟨rfl, rfl⟩
  · exact deriveOnly_refl w

theorem arrives_derive (h : ReqHead) (q : Request) (s : State) : s.work.DeriveOnly (s.arrives h q).work :=
  (restoreFeed_derive s.base _).after (w := s.work) ⟨rfl, rfl⟩

/-! ### The record created (R21) -/

theorem carriedTime_eq (c0 : Nat) (c : Carried MsgTime) : carriedTime c0 c = carriedSeconds c0 c := by
  cases c <;> rfl

/-- R17, R21: the record a creation makes. -/
theorem newService_eq (c0 : Nat) (t : Int) (seq : BitVec 32) (r : PutReq) : newService c0 t seq r = createdRecord c0 t seq r := by
  have time : ∀ c : Carried MsgTime, putTime c0 c none = carriedSeconds c0 c := fun c => by cases c <;> rfl
  have current : ∀ (o : Option Int) (p : Designator), (if t < o.getD t then none else some p) =
      if o.any fun x => decide (t < x) then none else some p := fun o p => by cases o <;> simp
  have staged : ∀ (o : Option Int) (p : Designator), (if t < o.getD t then some (p, o.getD t) else none) =
      if o.any fun x => decide (t < x) then o.map fun x => (p, x) else none := fun o p => by cases o <;> simp
  have later : (match carriedSeconds c0 r.effective with | some x => decide (t < x) | none => false) =
      (carriedSeconds c0 r.effective).any fun x => decide (t < x) := by cases carriedSeconds c0 r.effective <;> rfl
  unfold newService createdRecord
  dsimp only
  rw [Service.mk.injEq, carriedTime_eq, carriedTime_eq, time, time]
  refine ⟨rfl, rfl, ?clsField, ?destinationField, ?viaField, rfl, rfl, ?statusField, ?platformField, rfl, ?stagedField, rfl,
    ?callingField, ?coachesField, rfl, rfl, rfl, rfl, rfl, rfl, rfl, rfl⟩
  case clsField => cases r.cls <;> rfl
  case destinationField => cases r.destination <;> rfl
  case viaField => cases r.via <;> rfl
  case statusField => rfl
  case platformField =>
    cases r.platform with
    | value p => exact (current _ p).trans (ite_congr (congrArg (· = true) later.symm) (fun _ => rfl) fun _ => rfl)
    | _ => rfl
  case stagedField =>
    cases r.platform with
    | value p => exact (staged _ p).trans (ite_congr (congrArg (· = true) later.symm) (fun _ => rfl) fun _ => rfl)
    | _ => rfl
  case callingField => cases r.calling <;> rfl
  case coachesField => cases r.coaches <;> rfl

theorem createService_settled (b : Base) (r : PutReq) (w : Work) : (w.createService b r).settled =
    { w.settled with svt :=
      { w.settled.svt with
        counter := w.svt.counter + 1
        services := w.svt.services.map Service.core ++ [(createdRecord b.tbs.c0 b.tbs.t (w.svt.counter + 1) r).core] } } := by
  unfold Work.createService
  dsimp only
  rw [kept_settled (Work.recordChange_kept ..), newService_eq]
  refine congrArg (fun l => { w.settled with svt := { w.settled.svt with counter := w.svt.counter + 1, services := l } }) ?_
  exact List.map_append

/-- R21, R31: the event of a creation has no mark that moves a slot. -/
theorem createService_eq (b : Base) (r : PutReq) (w : Work) : ∃ v : Work,
    v.svt.services = w.svt.services ++ [newService b.tbs.c0 b.tbs.t (w.svt.counter + 1) r] ∧ v.nre = w.nre ∧
      w.createService b r = (v.boardChange b r.key false).evaluateChange b r.key := by
  refine ⟨{ w with svt := { w.svt with
    services := w.svt.services ++ [newService b.tbs.c0 b.tbs.t (w.svt.counter + 1) r], counter := w.svt.counter + 1 } }, rfl, rfl, ?_⟩
  unfold Work.createService Work.recordChange
  dsimp only
  have unmarked : ∀ (c : Bool) (u : Work), (u.applyMarks b r.key (if c then [.created, .staged] else [.created])) = u :=
    fun c u => by cases c <;> rfl
  have plain : ∀ c : Bool, (if c then [Mark.created, .staged] else [.created]).contains .platformChange = false :=
    fun c => by cases c <;> rfl
  rw [unmarked, plain]

theorem createService_judged (b : Base) (r : PutReq) {w : Work} (h : w.svt.find r.key = none) :
    (w.createService b r).judged b r.key ∧ (w.createService b r).nre.rules = w.nre.rules ∧
      (w.createService b r).nre.ruleTime = w.nre.ruleTime := by
  obtain ⟨v, hsvt, hnre, heq⟩ := createService_eq b r w
  have absent : ∀ x ∈ w.svt.services, x.key ≠ r.key := fun x hx => by simpa using List.find?_eq_none.mp h x hx
  have hfind : v.svt.find r.key = some (newService b.tbs.c0 b.tbs.t (w.svt.counter + 1) r) := by
    have hnone : w.svt.services.find? (fun x => x.key == r.key) = none := h
    unfold Svt.find
    rw [hsvt, List.find?_append, hnone]
    simp [newService]
  have halike : v.alike r.key (newService b.tbs.c0 b.tbs.t (w.svt.counter + 1) r) := fun x hx hk => by
    rw [hsvt] at hx
    rcases List.mem_append.mp hx with hx | hx
    · exact absurd hk (absent x hx)
    · rw [List.mem_singleton.mp hx]
  have hedges := change_edges b false hfind
  rw [heq]
  exact ⟨change_judged b false hfind halike, hedges.rules.trans (by rw [hnre]), hedges.ruleTime.trans (by rw [hnre])⟩

/-- Settles O8: the request is served as a creation, and the evaluation of its event judges every HEAD for the new record. -/
theorem putCreatesTheRecord : Obligations.PutCreatesTheRecord := by
  intro h r s hr hm hok hnone hroom
  have harr := arrives_settled h (.servicePut r) s
  have hok' : putRefusal (s.arrives h (.servicePut r)) r = none := (refusalOf_arrives h (.servicePut r) (.servicePut r) s).trans hok
  have hderive := arrives_derive h (.servicePut r) s
  have hnone' := find_none_of_bare hderive.bare hnone
  have hlen : (s.arrives h (.servicePut r)).work.svt.services.length < Config.maxServices := by
    have := congrArg List.length (settled_services harr)
    rw [List.length_map, List.length_map] at this
    rw [this]
    exact hroom
  have hserved : Request.owner (.servicePut r) (s.arrives h (.servicePut r)) =
      ({ s.arrives h (.servicePut r) with work := (s.arrives h (.servicePut r)).work.createService s.base r }, some Reply.ok) := by
    simp only [Request.owner, ownServicePut, guarded_eq hok', State.putService, hnone', Work.putNew, if_pos hlen]
    rfl
  obtain ⟨t, h1, h2, hb, hs, hp, hw⟩ := request_answers hr hm hserved
  have hsettled := answers_settled hw
  obtain ⟨hjudged, hrules, htime⟩ := createService_judged s.base r hnone'
  dsimp only at hsettled hw
  refine ⟨t, h1, h2, hb, hs, hp, fun x hx hk k g hlt hg => ?_, ?_⟩
  · have hnre : t.work.nre = ((s.arrives h (.servicePut r)).work.createService s.base r).nre := by rw [hw]
    have hsvt : t.work.svt = ((s.arrives h (.servicePut r)).work.createService s.base r).svt := by rw [hw]
    rw [hsvt] at hx
    rw [hnre] at hg ⊢
    have hj := hjudged x hx hk k g hlt hg
    unfold Work.holdsAt at hj
    rw [htime, hderive.nre] at hj
    exact hj
  · rw [hsettled, createService_settled, settled_services harr]
    have hcounter : (s.arrives h (.servicePut r)).work.svt.counter = s.work.svt.counter := (congrArg Svt.counter (settled_svt harr) :)
    rw [hcounter, harr]

end Sys2Proof.Machine
end

section
/-!
PROOF. The marks of a record change event at the watch slots (R114, R126, R128): restarts, advances, and the counts reached.
-/

namespace Sys2Proof.Machine

/-! ### Records of a key through a count reached (R128) -/

/-- R128: a slot at its threshold reached, as the marks have it. -/
def Work.reachEnded (b : Base) (w : Work) (i : Nat) : Work := if slotReached (w.nre.slots.getD i none) then w.reachSlot b i else w

theorem slotReached_iff {o : Option Slot} : slotReached o = true ↔ ∃ y th n, o = some y ∧ y.mode = .count th n ∧ th ≤ n := by
  unfold slotReached
  split
  · next hd key th n fresh => simp
  · next hno =>
    refine ⟨fun h => Bool.noConfusion h, fun ⟨y, th, n, ho, hm, _⟩ => ?_⟩
    obtain ⟨hd, key, mode, fresh⟩ := y
    exact absurd (ho.trans (by rw [show mode = _ from hm])) (hno hd key th n fresh)

/-- What holds of a work before a count that is reached, and through its flag and the change that it brings, holds after it. -/
theorem reachEnded_cases (b : Base) (i : Nat) (w : Work) : w.reachEnded b i = w ∨ ∃ y th n,
    w.nre.slots[i]? = some (some y) ∧ y.mode = .count th n ∧ th ≤ n ∧ w.reachEnded b i =
      if (w.svt.find y.key).map Service.unsettled = some false then
        (w.marked y.key Service.markUnsettled (.watchCount y.head y.key th) i (some { y with mode := .count th 0 })).flagChange b y.key
      else w.marked y.key Service.markUnsettled (.watchCount y.head y.key th) i (some { y with mode := .count th 0 }) := by
  by_cases hr : slotReached (w.nre.slots.getD i none) = true
  · obtain ⟨⟨hd, key, mode, fresh⟩, th, n, hy, hm, hle⟩ := slotReached_iff.mp hr
    dsimp only at hm
    subst hm
    exact .inr ⟨_, th, n, slot_of_getD hy, rfl, hle, (if_pos hr).trans (reachSlot_eq b hy)⟩
  · exact .inl (if_neg hr)

theorem Work.Edges.even {key key' : Key} {f r : List Nat} {w u : Work} (h : w.Edges key' f r u) (hw : ∃ z, w.alike key z) :
    ∃ z, u.alike key z := by
  obtain ⟨z, hz⟩ := hw
  obtain ⟨g, hg, -⟩ := h.records
  refine ⟨heldAs key' g z.bare, fun y hy hk => ?_⟩
  have hmem : y.bare ∈ u.svt.bare := List.mem_map_of_mem hy
  rw [hg] at hmem
  obtain ⟨x', hx', hxy⟩ := List.mem_map.mp hmem
  obtain ⟨x, hx, rfl⟩ := List.mem_map.mp hx'
  have hkey : x.key = y.key := by
    have hk' : (heldAs key' g x.bare).key = y.key := (congrArg Service.key hxy :)
    unfold heldAs at hk'
    split at hk' <;> exact hk'
  show y.bare = _
  rw [← hxy, hz x hx (hkey.trans hk)]
  unfold heldAs
  split <;> rfl

theorem marked_even {key key' : Key} {f : Service → Service} {rep : ReportBody} {i : Nat} {o : Option Slot} {w : Work}
    (hf : ∀ x, (f x).key = x.key) (hb : ∀ x y : Service, x.bare = y.bare → (f x).bare = (f y).bare) (hw : ∃ z, w.alike key z) :
    ∃ z, (w.marked key' f rep i o).alike key z := by
  obtain ⟨z, hz⟩ := hw
  refine ⟨if key = key' then f z else z, fun y hy hk => ?_⟩
  obtain ⟨x, hx, rfl⟩ := List.mem_map.mp hy
  by_cases hkey : (x.key == key') = true
  · rw [if_pos hkey] at hk ⊢
    have hxk : x.key = key := (hf x).symm.trans hk
    rw [if_pos (hxk.symm.trans (beq_iff_eq.mp hkey))]
    exact hb x z (hz x hx hxk)
  · rw [if_neg hkey] at hk ⊢
    rw [if_neg fun he => hkey (beq_iff_eq.mpr (hk.trans he))]
    exact hz x hx hk

theorem reachEnded_even (b : Base) (i : Nat) {key : Key} {w : Work} (hw : ∃ z, w.alike key z) :
    ∃ z, (w.reachEnded b i).alike key z := by
  rcases reachEnded_cases b i w with h | ⟨y, th, n, -, -, -, h⟩
  · rw [h]
    exact hw
  · rw [h]
    obtain ⟨fallen, risen, hedges, -⟩ := flagged_edges b y.key ((w.svt.find y.key).map Service.unsettled = some false)
      (w.marked y.key Service.markUnsettled (.watchCount y.head y.key th) i (some { y with mode := .count th 0 }))
    exact hedges.even (marked_even (f := Service.markUnsettled) (fun _ => rfl)
      (fun x y h => congrArg Service.markUnsettled h) hw)

/-- The records of another key are not judged anew. -/
theorem Work.Edges.judged_other {b : Base} {key key' : Key} {f r : List Nat} {w u : Work} (h : w.Edges key' f r u)
    (hne : key ≠ key') (hw : w.judged b key) : u.judged b key := by
  intro y hy hk k g hlt hg
  obtain ⟨x, hx, hxy, hbare, hother, -⟩ := h.origin hy
  rw [rule_of_rules h.rules] at hg
  rw [hother (fun he => hne (hk.symm.trans he)), holdsAt_of_rules h.rules h.ruleTime, Work.holdsAt, headHolds_held _ _ _ _ _ hbare]
  exact hw x hx (hxy.trans hk) k g hlt hg

theorem marked_judged {b : Base} {key key' : Key} {f : Service → Service} {rep : ReportBody} {i : Nat} {o : Option Slot} {w : Work}
    (hf : ∀ x, (f x).key = x.key) (hsame : key = key' → ∀ x ∈ w.svt.services, x.key = key → f x = x) (hw : w.judged b key) :
    (w.marked key' f rep i o).judged b key := by
  intro y hy hk
  obtain ⟨x, hx, rfl⟩ := List.mem_map.mp hy
  by_cases hkey : (x.key == key') = true
  · rw [if_pos hkey] at hk ⊢
    have hxk : x.key = key := (hf x).symm.trans hk
    rw [hsame (hxk.symm.trans (beq_iff_eq.mp hkey)) x hx hxk]
    exact hw x hx hxk
  · rw [if_neg hkey] at hk ⊢
    exact hw x hx hk

theorem markUnsettled_same {x : Service} (h : x.unsettled = true) : x.markUnsettled = x := by
  obtain ⟨⟩ := x
  dsimp only at h
  subst h
  rfl

/-- Records of a key that are alike, and not found clear, have the unsettled flag. -/
theorem unsettled_of_not_clear {key : Key} {w : Work} (he : ∃ z, w.alike key z)
    (hc : ¬ (w.svt.find key).map Service.unsettled = some false) : w.allOf key fun x => x.unsettled = true := by
  obtain ⟨z, hz⟩ := he
  intro x hx hk
  obtain ⟨y, hy⟩ := Svt.find_of_mem hx
  rw [hk] at hy
  obtain ⟨hym, hyk⟩ := Svt.find_mem hy
  have hyz : y.unsettled = z.unsettled := (congrArg Service.unsettled (hz y hym hyk) :)
  have hxz : x.unsettled = z.unsettled := (congrArg Service.unsettled (hz x hx hk) :)
  rw [hy, Option.map_some] at hc
  rw [hxz, ← hyz]
  cases hu : y.unsettled with
  | true => rfl
  | false => rw [hu] at hc; exact absurd rfl hc

/-- R114: a count that is reached leaves the held sets those of the HEADs that hold. -/
theorem reachEnded_judged (b : Base) (i : Nat) {key : Key} {w : Work} (he : ∃ z, w.alike key z) (hw : w.judged b key) :
    (w.reachEnded b i).judged b key := by
  rcases reachEnded_cases b i w with h | ⟨y, th, n, -, -, -, h⟩
  · rw [h]
    exact hw
  · rw [h]
    obtain ⟨v, hv⟩ : ∃ v, v = w.marked y.key Service.markUnsettled (.watchCount y.head y.key th) i (some { y with mode := .count th 0 }) :=
      ⟨_, rfl⟩
    rw [← hv]
    by_cases hkey : key = y.key
    · by_cases hclear : (w.svt.find y.key).map Service.unsettled = some false
      · rw [if_pos hclear]
        have heven : ∃ z, v.alike key z := by
          rw [hv]
          exact marked_even (f := Service.markUnsettled) (fun _ => rfl) (fun x y h => congrArg Service.markUnsettled h) he
        obtain ⟨z, hz⟩ := heven
        obtain ⟨x, hx, -⟩ := Option.map_eq_some_iff.mp hclear
        obtain ⟨hxm, hxk⟩ := Svt.find_mem hx
        have hmem : x.markUnsettled ∈ v.svt.services := by
          rw [hv]
          exact List.mem_map.mpr ⟨x, hxm, if_pos (beq_iff_eq.mpr hxk)⟩
        obtain ⟨x', hx'⟩ := Svt.find_of_mem hmem
        rw [show x.markUnsettled.key = key from hxk.trans hkey.symm] at hx'
        obtain ⟨hxm', hxk'⟩ := Svt.find_mem hx'
        rw [← hkey]
        exact change_judged b false hx' fun q hq hqk => (hz q hq hqk).trans (hz x' hxm' hxk').symm
      · rw [if_neg hclear, hv]
        exact marked_judged (f := Service.markUnsettled) (fun _ => rfl) (fun _ x hx hk =>
          markUnsettled_same (unsettled_of_not_clear he (by rw [hkey]; exact hclear) x hx hk)) hw
    · have hmarked : v.judged b key := by
        rw [hv]
        exact marked_judged (f := Service.markUnsettled) (fun _ => rfl) (fun h => absurd h hkey) hw
      obtain ⟨fallen, risen, hedges, -⟩ := flagged_edges b y.key ((w.svt.find y.key).map Service.unsettled = some false) v
      exact hedges.judged_other hkey hmarked

theorem reachEnded_rules (b : Base) (i : Nat) (w : Work) : (w.reachEnded b i).nre.rules = w.nre.rules ∧
    (w.reachEnded b i).nre.ruleTime = w.nre.ruleTime := by
  rcases reachEnded_cases b i w with h | ⟨y, th, n, -, -, -, h⟩
  · rw [h]
    exact ⟨rfl, rfl⟩
  · rw [h]
    obtain ⟨fallen, risen, hedges, -⟩ := flagged_edges b y.key ((w.svt.find y.key).map Service.unsettled = some false)
      (w.marked y.key Service.markUnsettled (.watchCount y.head y.key th) i (some { y with mode := .count th 0 }))
    exact ⟨hedges.rules, hedges.ruleTime⟩

/-- What a count reached keeps of every record of a key. -/
theorem reachEnded_allOf (b : Base) (i : Nat) {key : Key} {P : Service → Prop} {w : Work}
    (hbare : ∀ x y : Service, y.bare = { x.bare with held := y.held } → P x → P y) (hmark : ∀ x, P x → P x.markUnsettled)
    (hw : w.allOf key P) : (w.reachEnded b i).allOf key P := by
  rcases reachEnded_cases b i w with h | ⟨y, th, n, -, -, -, h⟩
  · rw [h]
    exact hw
  · rw [h]
    obtain ⟨fallen, risen, hedges, -⟩ := flagged_edges b y.key ((w.svt.find y.key).map Service.unsettled = some false)
      (w.marked y.key Service.markUnsettled (.watchCount y.head y.key th) i (some { y with mode := .count th 0 }))
    exact hedges.allOf hbare (updateService_allOf (f := Service.markUnsettled) (fun _ => rfl) hmark hw)

theorem reachEnded_grows (b : Base) (i : Nat) (w : Work) : w.Grows (fun _ => True) (w.reachEnded b i) :=
  grows_ite (w.reachSlot_grows trivial trivial trivial b i) (grows_refl w)

theorem reachEnded_mask (b : Base) (i : Nat) (w : Work) : (w.reachEnded b i).hlu.mask = w.hlu.mask := by
  unfold Work.reachEnded
  split
  · exact kept_mask (Work.reachSlot_kept ..)
  · rfl

/-! ### One slot through the counts reached -/

/-- A HEAD has fallen for a service, and no later flag of these counts judges it anew. -/
def Work.fallen (key : Key) (h : Nat) (w : Work) : Prop := w.lacks key h ∧ w.allOf key fun x => x.unsettled = true

/-- A slot stands in its place, or its HEAD has fallen for its service. -/
def Work.carries (i : Nat) (y : Slot) (w : Work) : Prop := w.nre.slots[i]? = some (some y) ∨ w.fallen y.key y.head

theorem lacks_of {key : Key} {h : Nat} {w : Work} (hw : ∀ x ∈ w.svt.services, x.key = key → h ∉ x.held) : w.lacks key h := by
  intro p hp hk
  obtain ⟨x, hx, rfl⟩ := List.mem_map.mp hp
  exact hw x hx hk

theorem lacks_held {key : Key} {h : Nat} {w : Work} (hl : w.lacks key h) {x : Service} (hx : x ∈ w.svt.services) (hk : x.key = key) :
    h ∉ x.held := hl (x.key, x.held) (List.mem_map.mpr ⟨x, hx, rfl⟩) hk

/-- Edges of a flag keep a slot, or its HEAD falls. -/
theorem flagged_carries (b : Base) {i : Nat} {y : Slot} {key : Key} {v : Work} (clear : Prop) [Decidable clear]
    (hslot : v.nre.slots[i]? = some (some y)) (hflag : v.allOf key fun x => x.unsettled = true) :
    (if clear then v.flagChange b key else v).carries i y := by
  obtain ⟨fallen, risen, hedges, -, hdisjoint, -⟩ := flagged_edges b key clear v
  by_cases hfall : y.key = key ∧ y.head ∈ fallen
  · obtain ⟨hk, hf⟩ := hfall
    refine .inr ⟨lacks_of fun x hx hxk => ?_, ?_⟩
    · obtain ⟨z, -, -, -, -, hheld⟩ := hedges.origin hx
      rw [hheld (hxk.trans hk)]
      rintro (⟨-, hn⟩ | hr)
      · exact hn hf
      · exact hdisjoint _ hf hr
    · rw [hk]
      exact hedges.allOf unsettled_of_bare hflag
  · exact .inl (hedges.stays i y hslot fun hk hf => hfall ⟨hk, hf⟩)

/-- A HEAD that has fallen does not rise again at a count that is reached. -/
theorem reachEnded_fallen (b : Base) (j : Nat) {key : Key} {h : Nat} {w : Work} (hw : w.fallen key h) :
    (w.reachEnded b j).fallen key h := by
  obtain ⟨hlacks, huns⟩ := hw
  refine ⟨?_, reachEnded_allOf b j unsettled_of_bare (fun _ _ => rfl) huns⟩
  rcases reachEnded_cases b j w with heq | ⟨z, th, n, -, -, -, heq⟩
  · rw [heq]
    exact hlacks
  · rw [heq]
    obtain ⟨fallen, risen, hedges, hquiet, -⟩ := flagged_edges b z.key ((w.svt.find z.key).map Service.unsettled = some false)
      (w.marked z.key Service.markUnsettled (.watchCount z.head z.key th) j (some { z with mode := .count th 0 }))
    refine lacks_of fun x hx hxk => ?_
    obtain ⟨y, hy, hyx, -, hother, hheld⟩ := hedges.origin hx
    have hlacks' : h ∉ y.held := lacks_held (fun p hp => by
      rw [marked_held (f := Service.markUnsettled) fun _ => ⟨rfl, rfl⟩] at hp
      exact hlacks p hp) hy (hyx.trans hxk)
    by_cases hk : key = z.key
    · obtain ⟨hf, hr⟩ := hquiet fun hclear => by
        obtain ⟨q, hq, hqu⟩ := Option.map_eq_some_iff.mp hclear
        obtain ⟨hqm, hqk⟩ := Svt.find_mem hq
        rw [huns q hqm (hqk.trans hk.symm)] at hqu
        cases hqu
      rw [hheld (hxk.trans hk), hf, hr]
      simpa using hlacks'
    · rw [hother fun he => hk (hxk.symm.trans he)]
      exact hlacks'

/-- A slot through the counts that other slots reach. -/
theorem reachEnded_carries (b : Base) {i j : Nat} (hne : j ≠ i) {y : Slot} {w : Work} (hw : w.carries i y) :
    (w.reachEnded b j).carries i y := by
  rcases hw with hslot | hfallen
  · rcases reachEnded_cases b j w with h | ⟨z, th, n, -, -, -, h⟩
    · rw [h]
      exact .inl hslot
    · rw [h]
      refine flagged_carries b _ ?_ (updateService_all (f := Service.markUnsettled) fun _ => rfl)
      rw [marked_slots, List.getElem?_set, if_neg hne]
      exact hslot
  · exact .inr (reachEnded_fallen b j hfallen)

/-- R128: a slot after its own count: afresh at its threshold. -/
def Slot.reached (y : Slot) : Slot :=
  match y.mode with
  | .count th n => if th ≤ n then { y with mode := .count th 0 } else y
  | .timeout .. => y

/-- R128: a count below its threshold, or a TIMEOUT slot, stays. -/
theorem reached_stays {y : Slot} (h : slotReached (some y) ≠ true) : y.reached = y := by
  unfold Slot.reached
  split
  · next th n hm => exact if_neg fun hle => h (slotReached_iff.mpr ⟨y, th, n, rfl, hm, hle⟩)
  · rfl

theorem getD_of_slot {l : List (Option Slot)} {i : Nat} {x : Slot} (h : l[i]? = some (some x)) : l.getD i none = some x := by
  rw [List.getD_eq_getElem?_getD, h]
  rfl

theorem length_of_slot {l : List (Option Slot)} {i : Nat} {o : Option Slot} (h : l[i]? = some o) : i < l.length :=
  (List.getElem?_eq_some_iff.mp h).1

/-- R128: a slot and its own count: below its threshold it stays, and at it the flag is set and the count reported. -/
theorem reachEnded_own (b : Base) {i : Nat} {y : Slot} {w : Work} (hw : w.nre.slots[i]? = some (some y)) :
    (w.reachEnded b i).carries i y.reached ∧ ∀ th n, y.mode = .count th n → th ≤ n →
      (w.reachEnded b i).allOf y.key (fun x => x.unsettled = true) ∧
        ∃ v : Work, v.hlu.mask = w.hlu.mask ∧ (v.raise (.watchCount y.head y.key th)).Grows (fun _ => True) (w.reachEnded b i) := by
  by_cases hr : slotReached (some y) = true
  · obtain ⟨_, th, n, hy, hm, hle⟩ := slotReached_iff.mp hr
    cases hy
    have hreached : y.reached = { y with mode := .count th 0 } := by
      unfold Slot.reached
      rw [hm]
      exact if_pos hle
    have heq : w.reachEnded b i = if (w.svt.find y.key).map Service.unsettled = some false then
        (w.marked y.key Service.markUnsettled (.watchCount y.head y.key th) i (some { y with mode := .count th 0 })).flagChange b y.key
      else w.marked y.key Service.markUnsettled (.watchCount y.head y.key th) i (some { y with mode := .count th 0 }) := by
      have hget := getD_of_slot hw
      refine (if_pos (by rw [hget]; exact hr)).trans (reachSlot_eq b (n := n) ?_)
      rw [hget, ← hm]
    have hflag : (w.marked y.key Service.markUnsettled (.watchCount y.head y.key th) i (some { y with mode := .count th 0 })).allOf
        y.key fun x => x.unsettled = true := updateService_all (f := Service.markUnsettled) fun _ => rfl
    have hgrows := flagged_grows b y.key ((w.svt.find y.key).map Service.unsettled = some false)
      (w.marked y.key Service.markUnsettled (.watchCount y.head y.key th) i (some { y with mode := .count th 0 }))
    obtain ⟨fallen, risen, hedges, -⟩ := flagged_edges b y.key ((w.svt.find y.key).map Service.unsettled = some false)
      (w.marked y.key Service.markUnsettled (.watchCount y.head y.key th) i (some { y with mode := .count th 0 }))
    rw [heq]
    constructor
    · rw [hreached]
      refine flagged_carries b _ ?_ hflag
      rw [marked_slots, List.getElem?_set, if_pos rfl, if_pos (length_of_slot hw)]
    · intro th' n' hm' hle'
      cases hm.symm.trans hm'
      exact ⟨hedges.allOf unsettled_of_bare hflag, w.updateService y.key Service.markUnsettled, rfl, grows_step hgrows rfl⟩
  · have hstay : w.reachEnded b i = w := if_neg (by rw [getD_of_slot hw]; exact hr)
    rw [hstay, reached_stays hr]
    exact ⟨.inl hw, fun th n hm hle => absurd (slotReached_iff.mpr ⟨y, th, n, rfl, hm, hle⟩) hr⟩

/-! ### All counts of an event -/

theorem reachEndeds_carries (b : Base) {i : Nat} {l : List Nat} (hl : i ∉ l) {y : Slot} {w : Work} (hw : w.carries i y) :
    (l.foldl (Work.reachEnded b) w).carries i y := by
  induction l generalizing w with
  | nil => exact hw
  | cons j l ih =>
    exact ih (fun h => hl (List.mem_cons_of_mem _ h)) (reachEnded_carries b (fun h => hl (by rw [h]; exact List.mem_cons_self ..)) hw)

/-- What every count that is reached keeps. -/
theorem reachEndeds_keep (b : Base) {P : Work → Prop} (h : ∀ w i, P w → P (w.reachEnded b i)) (l : List Nat) {w : Work} (hw : P w) :
    P (l.foldl (Work.reachEnded b) w) := by
  induction l generalizing w with
  | nil => exact hw
  | cons i l ih => exact ih (h w i hw)

theorem range_split {i n : Nat} (hi : i < n) : ∃ l : List Nat, List.range n = List.range i ++ i :: l ∧ i ∉ l := by
  obtain ⟨m, rfl⟩ := Nat.exists_eq_add_of_le hi
  refine ⟨(List.range m).map (i + 1 + ·), ?_, ?_⟩
  · rw [List.range_add, List.range_succ, List.append_assoc]
    rfl
  · intro hm
    obtain ⟨k, -, hk⟩ := List.mem_map.mp hm
    omega

/-- R128: a bound slot through the counts of an event. -/
theorem counts_slot (b : Base) {i : Nat} (hi : i < 24) {y : Slot} {w : Work} (hw : w.nre.slots[i]? = some (some y)) :
    let u := (List.range 24).foldl (Work.reachEnded b) w
    u.carries i y.reached ∧ ∀ th n, y.mode = .count th n → th ≤ n → u.lacks y.key y.head ∨
      (u.allOf y.key (fun x => x.unsettled = true) ∧
        ∃ v : Work, v.hlu.mask = w.hlu.mask ∧ (v.raise (.watchCount y.head y.key th)).Grows (fun _ => True) u) := by
  intro u
  obtain ⟨l, hsplit, hl⟩ := range_split hi
  have hu : u = l.foldl (Work.reachEnded b) (((List.range i).foldl (Work.reachEnded b) w).reachEnded b i) := by
    show (List.range 24).foldl (Work.reachEnded b) w = _
    rw [hsplit, List.foldl_append]
    rfl
  have hkey : y.reached.key = y.key ∧ y.reached.head = y.head := by
    unfold Slot.reached
    split
    · split <;> exact ⟨rfl, rfl⟩
    · exact ⟨rfl, rfl⟩
  obtain ⟨v, hv⟩ : ∃ v, v = (List.range i).foldl (Work.reachEnded b) w := ⟨_, rfl⟩
  have hmask : v.hlu.mask = w.hlu.mask := by
    rw [hv]
    exact reachEndeds_keep b (P := fun u => u.hlu.mask = w.hlu.mask) (fun u i h => (reachEnded_mask b i u).trans h) _ rfl
  rw [hu, ← hv]
  have before : v.carries i y := by
    rw [hv]
    exact reachEndeds_carries b (fun h => absurd (List.mem_range.mp h) (Nat.lt_irrefl i)) (.inl hw)
  rcases before with hslot | hfallen
  · obtain ⟨hown, hreach⟩ := reachEnded_own b hslot
    refine ⟨reachEndeds_carries b hl hown, fun th n hm hle => .inr ?_⟩
    obtain ⟨huns, v', hmask', hgrows⟩ := hreach th n hm hle
    exact ⟨reachEndeds_keep b (fun u i => reachEnded_allOf b i unsettled_of_bare fun _ _ => rfl) l huns, v', hmask'.trans hmask,
      grows_trans hgrows (grows_foldl (fun w i => reachEnded_grows b i w) l _)⟩
  · have gone := reachEndeds_keep b (P := Work.fallen y.key y.head) (fun u i h => reachEnded_fallen b i h) (i :: l) hfallen
    refine ⟨.inr ?_, fun _ _ _ _ => .inl gone.1⟩
    rw [hkey.1, hkey.2]
    exact gone

end Sys2Proof.Machine
end

section
/-!
PROOF. A SERVICE PUT that updates (R22, R24 to R27, R114, R126, R128): the record it leaves, the evaluation of its event, and the
marks at the watch slots.
-/

namespace Sys2Proof.Machine

/-! ### The marks of an event (R114) -/

/-- R114, R126, R128: a slot after the marks of an event, the expected field carried or not, the platform changed or not. -/
def Slot.after (carried moved : Bool) (y : Slot) : Slot :=
  { y with mode := match y.mode with
    | .timeout p left => .timeout p (if carried = true then p else left)
    | .count th n => .count th (if moved = true then (if th ≤ n + 1 then 0 else n + 1) else n) }

/-- R126: the restarts of an event. -/
def Work.restarted (carried : Bool) (key : Key) (w : Work) : Work := if carried then w.mapSlotsOf key restartSlot else w

theorem applyMarks_eq (b : Base) (key : Key) (marks : List Mark) (w : Work) : w.applyMarks b key marks =
    if marks.contains .platformChange then
      (List.range 24).foldl (Work.reachEnded b) ((w.restarted (marks.contains .expectedCarried) key).mapSlotsOf key advanceSlot)
    else w.restarted (marks.contains .expectedCarried) key := rfl

theorem mapSlotsOf_slot {key : Key} {f : Slot → Slot} {w : Work} {i : Nat} {y : Slot} (h : w.nre.slots[i]? = some (some y))
    (hk : y.key = key) : (w.mapSlotsOf key f).nre.slots[i]? = some (some (f y)) := by
  show (w.nre.slots.map (Option.map fun s => if s.key == key then f s else s))[i]? = _
  rw [List.getElem?_map, h, Option.map_some, Option.map_some, if_pos (beq_iff_eq.mpr hk)]

/-- The slot of a TIMEOUT restarted, if the expected field was carried. -/
def Slot.restarted (carried : Bool) (y : Slot) : Slot := if carried then restartSlot y else y

theorem restarted_slot {carried : Bool} {key : Key} {w : Work} {i : Nat} {y : Slot} (h : w.nre.slots[i]? = some (some y))
    (hk : y.key = key) : (w.restarted carried key).nre.slots[i]? = some (some (y.restarted carried)) := by
  cases carried with
  | true => exact mapSlotsOf_slot h hk
  | false => exact h

theorem restarted_svt (carried : Bool) (key : Key) (w : Work) : (w.restarted carried key).svt = w.svt ∧
    (w.restarted carried key).hlu = w.hlu := by
  cases carried <;> exact ⟨rfl, rfl⟩

theorem after_still (carried : Bool) (y : Slot) : y.restarted carried = y.after carried false := by
  unfold Slot.restarted restartSlot Slot.after
  cases hm : y.mode <;> cases carried <;> simp [← hm]

theorem after_moved (carried : Bool) (y : Slot) : (advanceSlot (y.restarted carried)).reached = y.after carried true := by
  obtain ⟨head, key, mode, fresh⟩ := y
  cases mode with
  | timeout p left => cases carried <;> rfl
  | count th n =>
    have hadvanced : advanceSlot (Slot.restarted carried ⟨head, key, .count th n, fresh⟩) = ⟨head, key, .count th (n + 1), fresh⟩ := by
      cases carried <;> rfl
    rw [hadvanced]
    show (if th ≤ n + 1 then (⟨head, key, .count th 0, fresh⟩ : Slot) else ⟨head, key, .count th (n + 1), fresh⟩) =
      ⟨head, key, .count th (if th ≤ n + 1 then 0 else n + 1), fresh⟩
    split <;> rfl

theorem advanced_pair (carried : Bool) (y : Slot) : (advanceSlot (y.restarted carried)).key = y.key ∧
    (advanceSlot (y.restarted carried)).head = y.head := by
  obtain ⟨hh, hk⟩ := advanceSlot_same (y.restarted carried)
  have h : (y.restarted carried).head = y.head ∧ (y.restarted carried).key = y.key := by
    cases carried with
    | true => exact restartSlot_same y
    | false => exact ⟨rfl, rfl⟩
  exact ⟨hk.trans h.2, hh.trans h.1⟩

theorem after_pair (carried moved : Bool) (y : Slot) : (y.after carried moved).key = y.key ∧ (y.after carried moved).head = y.head :=
  ⟨rfl, rfl⟩

/-- R114, R126, R128: a bound slot of the event's service through its marks. -/
theorem applyMarks_slot (b : Base) {key : Key} {marks : List Mark} {carried moved : Bool} (hc : marks.contains .expectedCarried = carried)
    (hm : marks.contains .platformChange = moved) {w : Work} {i : Nat} (hi : i < 24) {y : Slot}
    (h : w.nre.slots[i]? = some (some y)) (hk : y.key = key) :
    (w.applyMarks b key marks).carries i (y.after carried moved) ∧
      ∀ th n, y.mode = .count th n → moved = true → th ≤ n + 1 → (w.applyMarks b key marks).lacks key y.head ∨
        ((w.applyMarks b key marks).allOf key (fun x => x.unsettled = true) ∧ ∃ v : Work, v.hlu.mask = w.hlu.mask ∧
          (v.raise (.watchCount y.head key th)).Grows (fun _ => True) (w.applyMarks b key marks)) := by
  rw [applyMarks_eq, hc, hm]
  have hrestarted := restarted_slot (carried := carried) h hk
  have hpair := advanced_pair carried y
  cases moved with
  | false =>
    refine ⟨.inl ?_, fun _ _ _ h => by cases h⟩
    rw [if_neg Bool.false_ne_true, ← after_still]
    exact hrestarted
  | true =>
    have hkey : (y.restarted carried).key = key := by
      rw [after_still]
      exact hk
    obtain ⟨hcarries, hreach⟩ := counts_slot b hi (mapSlotsOf_slot (f := advanceSlot) hrestarted hkey)
    rw [if_pos rfl]
    rw [after_moved] at hcarries
    refine ⟨hcarries, fun th n hmode _ hle => ?_⟩
    have hadvanced : (advanceSlot (y.restarted carried)).mode = .count th (n + 1) := by
      rw [after_still]
      unfold advanceSlot Slot.after
      rw [hmode]
      rfl
    rcases hreach th (n + 1) hadvanced hle with hl | ⟨huns, v, hmask, hgrows⟩
    · rw [hpair.1, hpair.2, hk] at hl
      exact .inl hl
    · rw [hpair.1, hk] at huns hgrows
      rw [hpair.2] at hgrows
      exact .inr ⟨huns, v, hmask.trans (congrArg Hlu.mask (restarted_svt carried key w).2), hgrows⟩

/-- What the marks of an event keep, if a count that is reached keeps it and the slots do not matter. -/
theorem applyMarks_keep (b : Base) (key : Key) (marks : List Mark) {P : Work → Prop}
    (hreach : ∀ w i, P w → P (w.reachEnded b i)) (hslots : ∀ (w : Work) (f : Slot → Slot), P w → P (w.mapSlotsOf key f)) {w : Work} (hw : P w) :
    P (w.applyMarks b key marks) := by
  have hrestarted : P (w.restarted (marks.contains .expectedCarried) key) := by
    unfold Work.restarted
    split
    · exact hslots w restartSlot hw
    · exact hw
  rw [applyMarks_eq]
  split
  · exact reachEndeds_keep b hreach _ (hslots _ advanceSlot hrestarted)
  · exact hrestarted

theorem applyMarks_judged (b : Base) (key : Key) (marks : List Mark) {w : Work} (he : ∃ z, w.alike key z) (hw : w.judged b key) :
    (w.applyMarks b key marks).judged b key :=
  (applyMarks_keep b key marks (P := fun w => (∃ z, w.alike key z) ∧ w.judged b key)
    (fun _ i h => ⟨reachEnded_even b i h.1, reachEnded_judged b i h.1 h.2⟩) (fun _ _ h => h) ⟨he, hw⟩).2

theorem applyMarks_rules (b : Base) (key : Key) (marks : List Mark) (w : Work) :
    (w.applyMarks b key marks).nre.rules = w.nre.rules ∧ (w.applyMarks b key marks).nre.ruleTime = w.nre.ruleTime :=
  applyMarks_keep b key marks (P := fun u => u.nre.rules = w.nre.rules ∧ u.nre.ruleTime = w.nre.ruleTime)
    (fun u i h => ⟨(reachEnded_rules b i u).1.trans h.1, (reachEnded_rules b i u).2.trans h.2⟩) (fun _ _ h => h) ⟨rfl, rfl⟩

theorem applyMarks_fresh (b : Base) (key : Key) (marks : List Mark) {w : Work} (hw : w.allOf key fun x => x.stale = false) :
    (w.applyMarks b key marks).allOf key fun x => x.stale = false :=
  applyMarks_keep b key marks (P := fun w => w.allOf key fun x => x.stale = false)
    (fun _ i h => reachEnded_allOf b i (fun _ _ hb hx => (congrArg Service.stale hb :).trans hx) (fun _ h => h) h) (fun _ _ h => h) hw

/-! ### The record updated (R22, R24 to R27) -/

/-- R22: the record after a SERVICE PUT, with its stale flag. -/
def putRecord (c0 : Nat) (t : Int) (r : PutReq) (x : Service) : Service :=
  { updatedRecord c0 t r x with stale := x.stale && !isPresent r.expected }

/-- R22: the fields that a SERVICE PUT replaces. -/
def replacedFields (c0 : Nat) (r : PutReq) (x : Service) : Service :=
  { x with
    cls := match r.cls with | .value c => c | _ => x.cls
    destination := match r.destination with | .value i => i | _ => x.destination
    via := match r.via with | .value i => some i | .none => none | _ => x.via
    scheduled := match r.scheduled with | .value m => (convertTime c0 m).getD x.scheduled | _ => x.scheduled
    expected := match r.expected with | .value m => convertTime c0 m | .none => none | _ => x.expected
    calling := match r.calling with | .value is => is | _ => x.calling
    coaches := match r.coaches with | .value n => some n | .none => none | _ => x.coaches
    actual := match r.actual with | .value m => convertTime c0 m | .none => none | _ => x.actual }

theorem putFields_eq (c0 : Nat) (r : PutReq) (x : Service) : x.putFields c0 r = replacedFields c0 r x := by
  unfold Service.putFields replacedFields
  simp only [Service.mk.injEq, true_and, and_true]
  exact ⟨by cases r.cls <;> rfl, by cases r.destination <;> rfl, by cases r.via <;> rfl, by cases r.scheduled <;> rfl,
    by cases r.expected <;> rfl, by cases r.calling <;> rfl, by cases r.coaches <;> rfl, by cases r.actual <;> rfl⟩

/-- R24, R25: whether the platform that a SERVICE PUT carries is to take effect later. -/
def effectiveLater (c0 : Nat) (t : Int) (r : PutReq) : Bool :=
  match carriedSeconds c0 r.effective with | some e => decide (t < e) | none => false

/-- R24, R25, R26: the platform of a SERVICE PUT, with the marks it gives. -/
theorem putPlatform_value {c0 : Nat} {t : Int} {r : PutReq} {x : Service} {p : Designator} (hp : r.platform = .value p) :
    x.putPlatform c0 t r = if effectiveLater c0 t r = true then
        ({ x with staged := (carriedSeconds c0 r.effective).map fun e => (p, e) }, [.staged])
      else ((x.changePlatform p t).1, if (x.changePlatform p t).2 then [.platformChange] else []) := by
  unfold Service.putPlatform effectiveLater
  rw [hp]
  dsimp only
  rw [carriedTime_eq]
  cases carriedSeconds c0 r.effective with
  | none => rfl
  | some e => simp

theorem withdrawPlatform_eq (x : Service) : x.withdrawPlatform.1 =
    { x with previous := if x.current = none then x.previous else x.current, current := none, staged := none } := by
  unfold Service.withdrawPlatform
  cases x.current <;> rfl

theorem putPlatform_record (c0 : Nat) (t : Int) (r : PutReq) (x : Service) : (x.putPlatform c0 t r).1 = platformAfter c0 t r x := by
  cases hp : r.platform with
  | value p =>
    rw [putPlatform_value hp]
    unfold platformAfter
    rw [hp]
    show _ = if effectiveLater c0 t r = true then _ else _
    split
    · rfl
    · exact changePlatform_eq p t x
  | none =>
    unfold Service.putPlatform platformAfter
    rw [hp]
    exact withdrawPlatform_eq x
  | _ =>
    unfold Service.putPlatform platformAfter
    rw [hp]

theorem putPlatform_moved (c0 : Nat) (t : Int) (r : PutReq) (x : Service) : (x.putPlatform c0 t r).2.contains .platformChange =
    (decide ((x.putPlatform c0 t r).1.current ≠ x.current) && (x.putPlatform c0 t r).1.current.isSome) := by
  cases hp : r.platform with
  | value p =>
    rw [putPlatform_value hp]
    split
    · simp
    · unfold Service.changePlatform
      split
      · simp
      · next hne => simp [Ne.symm hne]
  | none =>
    unfold Service.putPlatform Service.withdrawPlatform
    rw [hp]
    cases x.current <;> cases x.staged <;> simp
  | _ =>
    unfold Service.putPlatform
    rw [hp]
    simp

theorem putCarriedStatus_record (r : PutReq) (x : Service) : (x.putCarriedStatus r).1 =
    { x with
      status := match r.status with | .value (some st) => st | _ => x.status
      timer := match r.status with | .value (some st) => if st = x.status then x.timer else none | _ => x.timer } := by
  unfold Service.putCarriedStatus
  cases hs : r.status with
  | value o =>
    cases o with
    | some st =>
      dsimp only
      unfold Service.putStatus
      by_cases h : x.status = st
      · rw [if_pos h, if_pos h.symm, ← h]
      · rw [if_neg h, if_neg fun e => h e.symm]
    | none => rfl
  | _ => rfl

theorem platformAfter_value {c0 : Nat} {t : Int} {r : PutReq} {p : Designator} (hp : r.platform = .value p) (x : Service) :
    platformAfter c0 t r x = if effectiveLater c0 t r = true then
        { x with staged := (carriedSeconds c0 r.effective).map fun e => (p, e) }
      else if x.current = some p then { x with staged := none }
      else
        { x with
          previous := if x.current = none then x.previous else x.current
          current := some p, changeTime := some t, staged := none } := by
  unfold platformAfter
  rw [hp]
  rfl

/-- R24, R25, R26: a SERVICE PUT's platform reads and writes four fields of the record: a change of the others goes through it. -/
theorem platformAfter_through (c0 : Nat) (t : Int) (r : PutReq) {f : Service → Service}
    (hf : ∀ (x : Service) previous current staged changeTime,
      f { x with previous := previous, current := current, staged := staged, changeTime := changeTime } =
        { f x with previous := previous, current := current, staged := staged, changeTime := changeTime }) (x : Service) :
    platformAfter c0 t r (f x) = f (platformAfter c0 t r x) := by
  have same : f x = { f x with previous := x.previous, current := x.current, staged := x.staged, changeTime := x.changeTime } :=
    hf x x.previous x.current x.staged x.changeTime
  have previous : (f x).previous = x.previous := (congrArg Service.previous same :)
  have current : (f x).current = x.current := (congrArg Service.current same :)
  have changeTime : (f x).changeTime = x.changeTime := (congrArg Service.changeTime same :)
  cases hp : r.platform with
  | value p =>
    rw [platformAfter_value hp, platformAfter_value hp, current]
    split
    · refine Eq.trans ?_ (hf x x.previous x.current ((carriedSeconds c0 r.effective).map fun e => (p, e)) x.changeTime).symm
      rw [← previous, ← current, ← changeTime]
    · split
      · refine Eq.trans ?_ (hf x x.previous x.current none x.changeTime).symm
        rw [← previous, ← current, ← changeTime]
      · refine Eq.trans ?_ (hf x (if x.current = none then x.previous else x.current) (some p) none (some t)).symm
        rw [previous]
  | none =>
    unfold platformAfter
    rw [hp]
    refine Eq.trans ?_ (hf x (if x.current = none then x.previous else x.current) none none x.changeTime).symm
    rw [← changeTime, ← previous, ← current]
  | _ =>
    unfold platformAfter
    rw [hp]

theorem platformAfter_replaced (c0 : Nat) (t : Int) (r : PutReq) (x : Service) :
    platformAfter c0 t r (replacedFields c0 r x) = replacedFields c0 r (platformAfter c0 t r x) :=
  platformAfter_through c0 t r (f := replacedFields c0 r) (fun _ _ _ _ _ => rfl) x

theorem platformAfter_fields (c0 : Nat) (t : Int) (r : PutReq) (x : Service) : ∃ previous current staged changeTime,
    platformAfter c0 t r x =
      { x with previous := previous, current := current, staged := staged, changeTime := changeTime } := by
  cases hp : r.platform with
  | value p =>
    rw [platformAfter_value hp]
    split
    · exact ⟨x.previous, x.current, _, x.changeTime, rfl⟩
    · split
      · exact ⟨x.previous, x.current, none, x.changeTime, rfl⟩
      · exact ⟨_, some p, none, some t, rfl⟩
  | none =>
    unfold platformAfter
    rw [hp]
    exact ⟨_, none, none, x.changeTime, rfl⟩
  | _ =>
    unfold platformAfter
    rw [hp]
    exact ⟨x.previous, x.current, x.staged, x.changeTime, rfl⟩

theorem putUpdateAll_record (c0 : Nat) (t : Int) (r : PutReq) (x : Service) : (x.putUpdateAll c0 t r).1 = putRecord c0 t r x := by
  obtain ⟨a, b, c, d, h⟩ := platformAfter_fields c0 t r x
  unfold Service.putUpdateAll
  dsimp only
  rw [putCarriedStatus_record, putPlatform_record, putFields_eq, platformAfter_replaced]
  unfold putRecord updatedRecord
  rw [h]
  rfl

theorem putUpdateAll_marks (c0 : Nat) (t : Int) (r : PutReq) (x : Service) : (x.putUpdateAll c0 t r).2 =
    fieldMarks r x.stale ++ ((x.putFields c0 r).putPlatform c0 t r).2 ++
      (if ((((x.putFields c0 r).putPlatform c0 t r).1).putCarriedStatus r).2 then [.status] else []) := rfl

theorem contains_append (a b : List Mark) (m : Mark) : (a ++ b).contains m = (a.contains m || b.contains m) := by
  rw [Bool.eq_iff_iff, Bool.or_eq_true, List.contains_iff_mem, List.contains_iff_mem, List.contains_iff_mem, List.mem_append]

/-- R31: the marks of an update's fields. -/
theorem fieldMarks_contain (r : PutReq) (stale : Bool) : (fieldMarks r stale).contains .platformChange = false ∧
    (fieldMarks r stale).contains .expectedCarried = isPresent r.expected := by
  have other : ∀ c : Bool, (if c then [Mark.other] else []).contains .platformChange = false ∧
      (if c then [Mark.other] else []).contains .expectedCarried = false := fun c => by cases c <;> decide
  have times : ∀ c : Bool, (if c then [Mark.times] else []).contains .platformChange = false ∧
      (if c then [Mark.times] else []).contains .expectedCarried = false := fun c => by cases c <;> decide
  unfold fieldMarks
  simp only [contains_append, (other _).1, (other _).2, (times _).1, (times _).2, Bool.false_or, Bool.or_false]
  cases isPresent r.expected <;> cases stale <;> decide

/-- R31: the marks of an update: those of its fields and its platform, and that of its status. -/
theorem putUpdateAll_contains (c0 : Nat) (t : Int) (r : PutReq) (x : Service) {m : Mark} (hm : m ≠ .status) :
    (x.putUpdateAll c0 t r).2.contains m =
      ((fieldMarks r x.stale).contains m || ((x.putFields c0 r).putPlatform c0 t r).2.contains m) := by
  have status : ∀ c : Bool, (if c then [Mark.status] else []).contains m = false := fun c => by
    cases c with
    | true => simpa using hm
    | false => rfl
  rw [putUpdateAll_marks, contains_append, contains_append, status, Bool.or_false]

theorem putUpdateAll_moved (c0 : Nat) (t : Int) (r : PutReq) (x : Service) : (x.putUpdateAll c0 t r).2.contains .platformChange =
    (decide ((putRecord c0 t r x).current ≠ x.current) && (putRecord c0 t r x).current.isSome) := by
  rw [putUpdateAll_contains c0 t r x (by decide), (fieldMarks_contain ..).1, Bool.false_or, putPlatform_moved, putPlatform_record,
    putFields_eq, platformAfter_replaced]
  rfl

theorem putPlatform_plain (c0 : Nat) (t : Int) (r : PutReq) (x : Service) :
    (x.putPlatform c0 t r).2.contains .expectedCarried = false := by
  cases hp : r.platform with
  | value p =>
    rw [putPlatform_value hp]
    split
    · rfl
    · split <;> rfl
  | none =>
    unfold Service.putPlatform
    rw [hp]
    dsimp only
    split <;> rfl
  | _ =>
    unfold Service.putPlatform
    rw [hp]
    rfl

theorem putUpdateAll_carried (c0 : Nat) (t : Int) (r : PutReq) (x : Service) :
    (x.putUpdateAll c0 t r).2.contains .expectedCarried = isPresent r.expected := by
  rw [putUpdateAll_contains c0 t r x (by decide), (fieldMarks_contain ..).2, putPlatform_plain, Bool.or_false]

theorem putRecord_bare (c0 : Nat) (t : Int) (r : PutReq) (x : Service) : (putRecord c0 t r x).bare = putRecord c0 t r x.bare := by
  have platform : platformAfter c0 t r x.bare = (platformAfter c0 t r x).bare :=
    platformAfter_through c0 t r (f := Service.bare) (fun _ _ _ _ _ => rfl) x
  unfold putRecord updatedRecord
  rw [platform]
  rfl

end Sys2Proof.Machine
end

section
/-!
PROOF. A SERVICE PUT that updates, settled: the evaluation of its event on the record it leaves, and then the marks.
-/

namespace Sys2Proof.Machine

/-! ### The slot of a HEAD that rises alone (R125) -/

theorem slotsBound_free {x : Slot} {l : List (Option Slot)} {i : Nat} (h : l[i]? = some none) :
    ∃ j, j ≤ i ∧ (slotsBound x l)[j]? = some (some x) := by
  obtain ⟨hlt, hi⟩ := List.getElem?_eq_some_iff.mp h
  unfold slotsBound
  cases hj : l.findIdx? Option.isNone with
  | none => exact absurd (List.findIdx?_eq_none_iff.mp hj none (List.mem_of_getElem? h)) (by decide)
  | some j =>
    obtain ⟨hjlt, -, hlow⟩ := List.findIdx?_eq_some_iff_getElem.mp hj
    refine ⟨j, Nat.le_of_not_lt fun hij => hlow i hij (by rw [hi]; rfl), ?_⟩
    dsimp only
    rw [List.getElem?_set, if_pos rfl, if_pos hjlt]

/-- R125: a HEAD that alone rises takes a slot, if one is free. -/
theorem evaluate_starts (b : Base) (group : Rule → Bool) (loud : Bool) (a c : Int) {key : Key} {w : Work} {x : Service}
    (hx : w.svt.find key = some x) {h : Nat} (halone : ∀ k, k ∈ w.rising b group a c x ↔ k = h) {g : Rule} (hg : w.nre.rule h = some g)
    {wt : Watch} (hwt : g.watch = some wt) {i : Nat} (hi : w.nre.slots[i]? = some none) :
    ∃ j, j ≤ i ∧ (w.evaluate b group loud a c key).nre.slots[j]? = some (some (newSlot h key wt)) := by
  have hnodup : (w.rising b group a c x).Nodup := List.nodup_range.filter _
  have hrising : w.rising b group a c x = [h] := by
    refine List.perm_singleton.mp ((List.perm_ext_iff_of_nodup hnodup (List.nodup_singleton h)).mpr fun k => ?_)
    rw [halone k, List.mem_singleton]
  have falls := fallEdges_edges b key (w.falling b group a c x) w
  obtain ⟨v, hv⟩ : ∃ v, v = (w.falling b group a c x).foldl (Work.fallEdge b key) w := ⟨_, rfl⟩
  have heq : w.evaluate b group loud a c key = v.riseEdge b loud key h := by
    unfold Work.evaluate
    rw [hx]
    dsimp only
    rw [hrising, ← hv]
    rfl
  rw [← hv] at falls
  rw [heq, (riseEdge_exact b loud key v h ((rule_of_rules falls.rules h).trans hg)).2]
  dsimp only
  unfold slotsStarted
  rw [hwt]
  exact slotsBound_free (falls.free i hi rfl)

/-! ### The work of an update (R22) -/

section update
variable {b : Base} {r : PutReq} {x : Service} {w : Work}

theorem putRecord_key (c0 : Nat) (t : Int) (r : PutReq) (x : Service) : (putRecord c0 t r x).key = x.key ∧
    (putRecord c0 t r x).held = x.held := by
  obtain ⟨_, _, _, _, h⟩ := platformAfter_fields c0 t r x
  unfold putRecord updatedRecord
  rw [h]
  exact ⟨rfl, rfl⟩

/-- R22: the table with the record updated. -/
def Work.putInto (b : Base) (r : PutReq) (x : Service) (w : Work) : Work :=
  w.updateService r.key fun _ => putRecord b.tbs.c0 b.tbs.t r x

/-- R22, R31: an update, the evaluation of its event, and its marks. -/
theorem updateByPut_eq (b : Base) (r : PutReq) (x : Service) (w : Work) : w.updateByPut b r x =
    (((w.putInto b r x).boardChange b r.key ((x.putUpdateAll b.tbs.c0 b.tbs.t r).2.contains .platformChange)).evaluateChange b
      r.key).applyMarks b r.key (x.putUpdateAll b.tbs.c0 b.tbs.t r).2 := by
  unfold Work.updateByPut Work.putInto
  dsimp only
  rw [putUpdateAll_record]
  rfl

theorem putInto_alike (hx : w.svt.find r.key = some x) : (w.putInto b r x).alike r.key (putRecord b.tbs.c0 b.tbs.t r x) ∧
    (w.putInto b r x).svt.find r.key = some (putRecord b.tbs.c0 b.tbs.t r x) := by
  obtain ⟨hmem, hkey⟩ := Svt.find_mem hx
  have hall : (w.putInto b r x).allOf r.key fun y => y = putRecord b.tbs.c0 b.tbs.t r x :=
    updateService_all (f := fun _ => putRecord b.tbs.c0 b.tbs.t r x) fun _ => rfl
  have hput : putRecord b.tbs.c0 b.tbs.t r x ∈ (w.putInto b r x).svt.services :=
    List.mem_map.mpr ⟨x, hmem, if_pos (beq_iff_eq.mpr hkey)⟩
  obtain ⟨y, hy⟩ := Svt.find_of_mem hput
  rw [(putRecord_key ..).1, hkey] at hy
  obtain ⟨hym, hyk⟩ := Svt.find_mem hy
  exact ⟨fun z hz hzk => congrArg Service.bare (hall z hz hzk), hy.trans (congrArg some (hall y hym hyk))⟩

/-- R111, R114: the held set after an update, and what it keeps of rules and stale flag. -/
theorem updateByPut_judged (hx : w.svt.find r.key = some x) : (w.updateByPut b r x).judged b r.key ∧
    (w.updateByPut b r x).nre.rules = w.nre.rules ∧ (w.updateByPut b r x).nre.ruleTime = w.nre.ruleTime ∧
      (isPresent r.expected = true → (w.updateByPut b r x).allOf r.key fun y => y.stale = false) := by
  obtain ⟨halike, hfind⟩ := putInto_alike (b := b) hx
  rw [updateByPut_eq]
  have hedges := change_edges b ((x.putUpdateAll b.tbs.c0 b.tbs.t r).2.contains .platformChange) hfind
  have hjudged := change_judged b ((x.putUpdateAll b.tbs.c0 b.tbs.t r).2.contains .platformChange) hfind halike
  obtain ⟨hrules, htime⟩ := applyMarks_rules b r.key (x.putUpdateAll b.tbs.c0 b.tbs.t r).2
    (((w.putInto b r x).boardChange b r.key ((x.putUpdateAll b.tbs.c0 b.tbs.t r).2.contains .platformChange)).evaluateChange b r.key)
  refine ⟨applyMarks_judged b r.key _ (hedges.even ⟨_, halike⟩) hjudged, hrules.trans hedges.rules, htime.trans hedges.ruleTime,
    fun hp => applyMarks_fresh b r.key _ (hedges.allOf (fun _ _ h hs => (congrArg Service.stale h :).trans hs) ?_)⟩
  refine updateService_all (f := fun _ => putRecord b.tbs.c0 b.tbs.t r x) fun _ => ?_
  show (x.stale && !isPresent r.expected) = false
  rw [hp]
  exact Bool.and_false _

/-- R22: whether an update changes the platform. -/
def putMoves (c0 : Nat) (t : Int) (r : PutReq) (x : Service) : Bool :=
  decide ((putRecord c0 t r x).current ≠ x.current) && (putRecord c0 t r x).current.isSome

/-- R114, R126, R128: a slot that the evaluation of an update leaves bound, through the marks. -/
theorem updateByPut_marks {i : Nat} (hi : i < 24) {y : Slot} (hk : y.key = r.key)
    (hy : (((w.putInto b r x).boardChange b r.key ((x.putUpdateAll b.tbs.c0 b.tbs.t r).2.contains .platformChange)).evaluateChange b
      r.key).nre.slots[i]? = some (some y)) :
    (w.updateByPut b r x).carries i (y.after (isPresent r.expected) (putMoves b.tbs.c0 b.tbs.t r x)) ∧
      ∀ th n, y.mode = .count th n → putMoves b.tbs.c0 b.tbs.t r x = true → th ≤ n + 1 → (w.updateByPut b r x).lacks r.key y.head ∨
        ((w.updateByPut b r x).allOf r.key (fun x => x.unsettled = true) ∧ ∃ v : Work, v.hlu.mask = (w.updateByPut b r x).hlu.mask ∧
          (v.raise (.watchCount y.head r.key th)).Grows (fun _ => True) (w.updateByPut b r x)) := by
  have h := applyMarks_slot b (key := r.key) (putUpdateAll_carried b.tbs.c0 b.tbs.t r x) (putUpdateAll_moved b.tbs.c0 b.tbs.t r x) hi hy hk
  rw [updateByPut_eq]
  rw [kept_mask (Work.applyMarks_kept b r.key _ _)]
  exact h

/-- R114: a bound slot of the service whose HEAD does not fall. -/
theorem updateByPut_bound (hx : w.svt.find r.key = some x) {i : Nat} {y : Slot} (hy : w.nre.slots[i]? = some (some y))
    (hholds : ∀ g, w.nre.rule y.head = some g → w.holdsAt b (putRecord b.tbs.c0 b.tbs.t r x) g = true) (p : Bool) :
    (((w.putInto b r x).boardChange b r.key p).evaluateChange b r.key).nre.slots[i]? = some (some y) := by
  refine (change_edges b p (putInto_alike (b := b) hx).2).stays i y hy fun _ hf => ?_
  obtain ⟨-, -, g, hg, -, hnot⟩ := mem_falling.mp hf
  have := hholds g hg
  unfold Work.holdsAt at this
  rw [show (w.putInto b r x).nre = w.nre from rfl, this] at hnot
  cases hnot

/-- R125: the slot of a HEAD that rises alone at the update's event. -/
theorem updateByPut_started (hx : w.svt.find r.key = some x) {h : Nat} (hlt : h < 64) {g : Rule} (hg : w.nre.rule h = some g)
    {wt : Watch} (hwt : g.watch = some wt) (hnot : h ∉ x.held)
    (hholds : w.holdsAt b (putRecord b.tbs.c0 b.tbs.t r x) g = true)
    (halone : ∀ k q, k < 64 → w.nre.rule k = some q → w.holdsAt b (putRecord b.tbs.c0 b.tbs.t r x) q = true → k ∈ x.held ∨ k = h)
    {i : Nat} (hi : w.nre.slots[i]? = some none) (p : Bool) : ∃ j, j ≤ i ∧
      (((w.putInto b r x).boardChange b r.key p).evaluateChange b r.key).nre.slots[j]? = some (some (newSlot h r.key wt)) := by
  obtain ⟨v, hv⟩ : ∃ v, v = (w.putInto b r x).boardChange b r.key p := ⟨_, rfl⟩
  obtain ⟨hbare, hnre⟩ := boardChange_bare b r.key p (w.putInto b r x)
  obtain ⟨z, hz, hzb⟩ := find_of_bare hbare (putInto_alike (b := b) hx).2
  rw [← hv] at hbare hnre hz ⊢
  have hnre : v.nre = w.nre := hnre
  have hheld : z.held = x.held := (congrArg Service.held hzb :).trans (putRecord_key ..).2
  have hjudge : ∀ q, v.nre.headHolds b.tbs.t v.nre.ruleTime v.nre.ruleTime q z =
      w.holdsAt b (putRecord b.tbs.c0 b.tbs.t r x) q := fun q => by
    rw [hnre, headHolds_bare _ _ _ _ q hzb]
    rfl
  have hrises : ∀ k, k ∈ v.rising b (fun _ => true) v.nre.ruleTime v.nre.ruleTime z ↔ k = h := fun k => by
    rw [mem_rising, hheld]
    constructor
    · rintro ⟨hklt, hknot, q, hq, -, hkh⟩
      rw [hjudge] at hkh
      exact (halone k q hklt (by rwa [hnre] at hq) hkh).resolve_left hknot
    · rintro rfl
      exact ⟨hlt, hnot, g, by rw [hnre]; exact hg, rfl, by rw [hjudge]; exact hholds⟩
  obtain ⟨j, hj, hslot⟩ := evaluate_starts b (fun _ => true) true v.nre.ruleTime v.nre.ruleTime hz hrises (by rw [hnre]; exact hg) hwt
    (by rw [hnre]; exact hi)
  refine ⟨j, hj, ?_⟩
  unfold Work.evaluateChange Work.evaluateTell
  rw [(deriveOnly_moves.tell ..).nre]
  exact hslot

theorem updateByPut_settled (b : Base) (r : PutReq) (x : Service) (w : Work) : (w.updateByPut b r x).settled =
    { w.settled with svt :=
      { w.settled.svt with
        services := w.svt.services.map fun y =>
          if y.key = r.key then (updatedRecord b.tbs.c0 b.tbs.t r x).core else y.core } } := by
  rw [updateByPut_eq, kept_settled (Work.applyMarks_kept ..), kept_settled (Work.evaluateChange_kept ..),
    kept_settled (Work.boardChange_kept ..)]
  exact updateService_settled r.key (fun _ => putRecord b.tbs.c0 b.tbs.t r x) w

end update

/-- A HEAD that the record found holds has not fallen for every record of its key. -/
theorem not_lacks_of_find {w : Work} {key : Key} {h : Nat} (hs : (w.svt.find key).map (fun y => y.held.contains h) = some true) :
    ¬ w.lacks key h := by
  intro hl
  obtain ⟨y, hy, hc⟩ := Option.map_eq_some_iff.mp hs
  obtain ⟨hmem, hkey⟩ := Svt.find_mem hy
  exact lacks_held hl hmem hkey (List.contains_iff_mem.mp hc)

theorem core_of_bare {x y : Service} (h : y.bare = x.bare) : y.core = x.core := by
  have same : ∀ z : Service, z.core = z.bare.core := fun _ => rfl
  rw [same, h, ← same]

/-- The records of two tables that agree in what the table keeps, with the record of a key replaced. -/
theorem map_replaced {l m : List Service} (h : l.map Service.core = m.map Service.core) (key : Key) {x y : Service}
    (hxy : x.core = y.core) : (l.map fun z => if z.key = key then x.core else z.core) =
      m.map fun z => if z.key = key then y.core else z.core := by
  have through : ∀ n : List Service, (n.map fun z => if z.key = key then x.core else z.core) =
      (n.map Service.core).map fun z => if z.key = key then x.core else z := fun n => by
    rw [List.map_map]
    rfl
  rw [through, h, ← through, hxy]

/-- A report that stands in a work stands in the state that a reply to the host leaves. -/
theorem raised_of_grows {t : State} {u v : Work} {r : ReportBody}
    (hw : t.work = { u with hlu := { u.hlu with inbound := t.work.hlu.inbound, tx := t.work.hlu.tx } })
    (hmask : v.hlu.mask = u.hlu.mask) (hg : (v.raise r).Grows (fun _ => True) u) : t.raised r := fun hm hl => by
  refine grows_raised (grows_trans hg (grows_of_rep (by rw [hw]) (by rw [hw]))) ?_ hl
  rw [hmask]
  rw [hw] at hm
  exact hm

/-- Settles O9: the request is served as an update, whose evaluation judges every HEAD and keeps the slots of those that hold, and
whose marks move them. -/
theorem putUpdatesTheRecord : Obligations.PutUpdatesTheRecord := by
  intro h r x s hr hm hok hx
  have harr := arrives_settled h (.servicePut r) s
  have hok' : putRefusal (s.arrives h (.servicePut r)) r = none := (refusalOf_arrives h (.servicePut r) (.servicePut r) s).trans hok
  have hderive := arrives_derive h (.servicePut r) s
  obtain ⟨x', hx', hbare⟩ := find_of_bare hderive.bare hx
  have hserved : Request.owner (.servicePut r) (s.arrives h (.servicePut r)) =
      ((s.arrives h (.servicePut r)).mapWork (Work.updateByPut s.base r x'), some Reply.ok) := by
    simp only [Request.owner, ownServicePut, guarded_eq hok', State.putService, hx']
    rfl
  obtain ⟨t, h1, h2, hb, hs, hp, hw⟩ := request_answers hr hm hserved
  have hsettled := answers_settled hw
  rw [State.mapWork_work] at hsettled hw
  obtain ⟨v, hv⟩ : ∃ v, v = (s.arrives h (.servicePut r)).work := ⟨_, rfl⟩
  rw [← hv] at hsettled hw hx' harr hderive
  have hnre := hderive.nre
  have hsvt : t.work.svt = (v.updateByPut s.base r x').svt := by rw [hw]
  have hnre' : t.work.nre = (v.updateByPut s.base r x').nre := by rw [hw]
  have hput : (putRecord s.base.tbs.c0 s.base.tbs.t r x').bare = (putRecord s.base.tbs.c0 s.base.tbs.t r x).bare := by
    rw [putRecord_bare, hbare, ← putRecord_bare]
  obtain ⟨hjudged, hrules, htime, hfresh⟩ := updateByPut_judged (b := s.base) (r := r) hx'
  have hmoves : putMoves s.base.tbs.c0 s.base.tbs.t r x' = putMoves s.base.tbs.c0 s.base.tbs.t r x := by
    have hnew : (putRecord s.base.tbs.c0 s.base.tbs.t r x').current = (putRecord s.base.tbs.c0 s.base.tbs.t r x).current :=
      (congrArg Service.current hput :)
    have hold : x'.current = x.current := (congrArg Service.current hbare :)
    unfold putMoves
    rw [hnew, hold]
  have hholds : ∀ g, v.holdsAt s.base (putRecord s.base.tbs.c0 s.base.tbs.t r x') g =
      s.work.nre.headHolds s.base.tbs.t s.work.nre.ruleTime s.work.nre.ruleTime g (putRecord s.base.tbs.c0 s.base.tbs.t r x) :=
    fun g => by
      unfold Work.holdsAt
      rw [hnre]
      exact headHolds_bare _ _ _ _ g hput
  refine ⟨t, h1, h2, hb, hs, hp, fun y hy hk k g hlt hg => ?_, ?_, fun hp y hy hk => ?_, ?_⟩
  · rw [hsvt] at hy
    rw [hnre'] at hg ⊢
    have hj := hjudged y hy hk k g hlt hg
    unfold Work.holdsAt at hj
    rw [htime, hnre] at hj
    exact hj
  · have hrecord : (updatedRecord s.base.tbs.c0 s.base.tbs.t r x').core = (updatedRecord s.base.tbs.c0 s.base.tbs.t r x).core :=
      (core_of_bare hput :)
    rw [hsettled, updateByPut_settled, harr, map_replaced (settled_services harr) r.key hrecord]
  · rw [hsvt] at hy
    exact hfresh hp y hy hk
  · intro u moved holds stays
    have hstays : ∀ k, stays k → ¬ (v.updateByPut s.base r x').lacks r.key k := fun k hk =>
      not_lacks_of_find (by rw [← hsvt]; exact hk)
    have hmoved : putMoves s.base.tbs.c0 s.base.tbs.t r x' = moved := hmoves
    constructor
    · intro i slot hi hslot hk hh hst
      have hbound := updateByPut_bound (b := s.base) hx' (y := slot) (by rw [hnre]; exact hslot)
        (fun g hg => by rw [hholds]; exact hh g (by rwa [hnre] at hg))
        ((x'.putUpdateAll s.base.tbs.c0 s.base.tbs.t r).2.contains .platformChange)
      obtain ⟨hcarries, hreach⟩ := updateByPut_marks hi hk hbound
      rw [hmoved] at hcarries hreach
      refine ⟨?_, fun th n hmode hmv hle => ?_⟩
      · rw [hnre']
        rcases hcarries with hc | ⟨hl, -⟩
        · exact hc
        · exact absurd (hk ▸ hl) (hstays _ hst)
      · obtain ⟨huns, v', hmask, hgrows⟩ := (hreach th n hmode hmv hle).resolve_left (hstays _ hst)
        refine ⟨fun y hy hyk => ?_, raised_of_grows hw hmask hgrows⟩
        rw [hsvt] at hy
        exact huns y hy hyk
    · intro k g wt hlt hg hwt hnot hh hst halone ⟨i, hi, hfree⟩
      have hheld : x'.held = x.held := (congrArg Service.held hbare :)
      obtain ⟨j, hj, hslot⟩ := updateByPut_started (b := s.base) (r := r) hx' hlt (by rw [hnre]; exact hg) hwt (by rw [hheld]; exact hnot)
        (by rw [hholds]; exact hh)
        (fun k' q hk' hq hq' => by
          rw [hheld]
          exact halone k' q hk' (by rwa [hnre] at hq) (by rwa [hholds] at hq'))
        (by rw [hnre]; exact hfree) ((x'.putUpdateAll s.base.tbs.c0 s.base.tbs.t r).2.contains .platformChange)
      obtain ⟨hnh, hnk⟩ := newSlot_pair k r.key wt
      obtain ⟨hcarries, -⟩ := updateByPut_marks (Nat.lt_of_le_of_lt hj hi) hnk hslot
      rw [hmoved] at hcarries
      rw [hnre']
      rcases hcarries with hc | ⟨hl, -⟩
      · have hmem := List.mem_of_getElem? hc
        cases wt with
        | timeout p => simpa [newSlot, Slot.after] using hmem
        | count th => exact hmem
      · rw [(after_pair ..).1, (after_pair ..).2, hnh, hnk] at hl
        exact absurd hl (hstays _ hst)

end Sys2Proof.Machine
end

section
/-!
PROOF. Derivations of rows (R67): what the desired content of a row is after the derivation of its board, and that no other act of
the board writes it.
-/

namespace Sys2Proof.Machine

/-! ### What the rows are worked out from -/

/-- What the assignment and the contents of rows read of the work stays. -/
structure Work.Sources (w u : Work) : Prop where
  svt : u.svt = w.svt
  nre : u.nre = w.nre
  overrideText : u.bcp.overrideText = w.bcp.overrideText
  startText : u.bcp.startText = w.bcp.startText
  degradedText : u.bcp.degradedText = w.bcp.degradedText
  tolerance : u.bcp.tolerance = w.bcp.tolerance

theorem sourcesKept : WallMoves Work.Sources where
  refl _ := ⟨rfl, rfl, rfl, rfl, rfl, rfl⟩
  trans h k := ⟨k.svt.trans h.svt, k.nre.trans h.nre, k.overrideText.trans h.overrideText, k.startText.trans h.startText,
    k.degradedText.trans h.degradedText, k.tolerance.trans h.tolerance⟩
  offer b s a c w := by
    have h := wallOnly_offer b s a c w
    refine ⟨h.svt, h.nre, ?_, ?_, ?_, ?_⟩ <;> rw [Work.offer_eq] <;> rfl
  cell _ _ _ _ _ := ⟨rfl, rfl, rfl, rfl, rfl, rfl⟩
  board _ _ _ _ := ⟨rfl, rfl, rfl, rfl, rfl, rfl⟩

theorem Work.Sources.sourceOf {w u : Work} (h : w.Sources u) (b : Base) (bd : Board) (only : Option (List Nat)) (r : Nat) :
    u.sourceOf b bd only r = w.sourceOf b bd only r := by
  have banner : bannerText u = bannerText w := by
    funext src
    unfold bannerText
    rw [h.degradedText, h.nre]
  have listed : u.listed b bd only = w.listed b bd only := by
    unfold Work.listed eligibleRecords
    rw [h.svt]
  unfold Work.sourceOf rowSource
  rw [listed, banner, h.overrideText, h.startText]

theorem Work.Sources.readsChanged {w u : Work} (h : w.Sources u) (only : Option (List Nat)) (src : RowSource) :
    readsChanged u only src = readsChanged w only src := by
  have indexes : indexesOf u src = indexesOf w src := by
    unfold indexesOf
    rw [h.nre]
  unfold Sys2Proof.Machine.readsChanged
  rw [indexes]

theorem Work.Sources.contentOf {w u : Work} (h : w.Sources u) (b : Base) (rec : BoardRec) (src : RowSource) :
    contentOf b u rec src = contentOf b w rec src := by
  unfold Sys2Proof.Machine.contentOf serviceRow
  rw [h.tolerance, h.nre]

/-! ### Rows that are not written -/

/-- Offers and releases leave what every row should show. -/
theorem desiredKept (s a : Nat) : OfferMoves fun w u => (u.cell s a).desired = (w.cell s a).desired where
  refl _ := rfl
  trans h k := k.trans h
  offer b s' a' c w := by
    rw [Work.offer_eq]
    exact Work.cell_setCell_keeps (g := Cell.desired) (fun k => (k.offered_keeps c _).1) (w.setString s' _) s' a' s a
  cell s' a' f w h := Work.cell_setCell_keeps (g := Cell.desired) (fun c => (h c).2.2) w s' a' s a

theorem deriveRow_other (b : Base) (bd : Board) (only : Option (List Nat)) (w : Work) (r : Nat) {s a : Nat}
    (h : ¬ (s = bd.record.string ∧ a - 1 = bd.record.address r - 1)) : (w.deriveRow b bd only r).cell s a = w.cell s a := by
  unfold Work.deriveRow
  dsimp only
  split
  · exact Work.cell_setCell_other h
  · rfl

theorem deriveRows_other (b : Base) (bd : Board) (only : Option (List Nat)) {l : List Nat} {s a : Nat}
    (h : ∀ r ∈ l, ¬ (s = bd.record.string ∧ a - 1 = bd.record.address r - 1)) (w : Work) :
    (l.foldl (Work.deriveRow b bd only) w).cell s a = w.cell s a := by
  induction l generalizing w with
  | nil => rfl
  | cons r l ih =>
    rw [List.foldl_cons, ih fun q hq => h q (List.mem_cons_of_mem _ hq)]
    exact deriveRow_other b bd only w r (h r (List.mem_cons_self ..))

/-- R61: the rows of a board stand at addresses of their own. -/
theorem address_inj {rec : BoardRec} (hf : 1 ≤ rec.first) {q r : Nat} (hq : 1 ≤ q) (hr : 1 ≤ r) (h : rec.address q - 1 = rec.address r - 1) :
    q = r := by
  unfold BoardRec.address at h
  omega

theorem rowList_split {rec : BoardRec} {r : Nat} (h : r ∈ rec.rowList) : ∃ l₁ l₂, rec.rowList = l₁ ++ r :: l₂ ∧
    (∀ q ∈ l₁, q ≠ r ∧ 1 ≤ q) ∧ ∀ q ∈ l₂, q ≠ r ∧ 1 ≤ q := by
  obtain ⟨l₁, l₂, hl⟩ := List.append_of_mem h
  have hnodup : rec.rowList.Nodup := List.nodup_range.map fun _ _ h => Nat.succ.inj h
  rw [hl, List.nodup_append, List.nodup_cons] at hnodup
  obtain ⟨-, ⟨hr₂, -⟩, hdisjoint⟩ := hnodup
  have hmem : ∀ q ∈ rec.rowList, 1 ≤ q := fun q hq => (mem_rowList.mp hq).1
  rw [hl] at hmem
  exact ⟨l₁, l₂, hl, fun q hq => ⟨fun e => hdisjoint q hq r (List.mem_cons_self ..) e, hmem q (List.mem_append_left _ hq)⟩,
    fun q hq => ⟨fun e => hr₂ (e ▸ hq), hmem q (List.mem_append_right _ (List.mem_cons_of_mem _ hq))⟩⟩

/-- R67 step 4: the rows of a board derived, at one of them. -/
theorem deriveRows_cell (b : Base) {bd : Board} (only : Option (List Nat)) {w : Work} {r : Nat} (hf : 1 ≤ bd.record.first)
    (hr : r ∈ bd.record.rowList) (hcell : w.HasCell bd.record.string (bd.record.address r)) :
    ((bd.record.rowList.foldl (Work.deriveRow b bd only) w).cell bd.record.string (bd.record.address r)).desired =
      if readsChanged w only (w.sourceOf b bd only r) then contentOf b w bd.record (w.sourceOf b bd only r)
      else (w.cell bd.record.string (bd.record.address r)).desired := by
  obtain ⟨l₁, l₂, hl, h₁, h₂⟩ := rowList_split hr
  have hr1 := (mem_rowList.mp hr).1
  have other : ∀ l : List Nat, (∀ q ∈ l, q ≠ r ∧ 1 ≤ q) → ∀ q ∈ l,
      ¬ (bd.record.string = bd.record.string ∧ bd.record.address r - 1 = bd.record.address q - 1) :=
    fun l h q hq he => (h q hq).1 (address_inj hf hr1 (h q hq).2 he.2).symm
  rw [hl, List.foldl_append, List.foldl_cons, deriveRows_other b bd only (other l₂ h₂)]
  obtain ⟨v, hv⟩ : ∃ v, v = l₁.foldl (Work.deriveRow b bd only) w := ⟨_, rfl⟩
  have sources : w.Sources v := by
    rw [hv]
    exact sourcesKept.foldl (sourcesKept.deriveRow b bd only) l₁ w
  have shape : v.HasCell bd.record.string (bd.record.address r) := by
    rw [hv]
    exact hcell.of_shape (shapeKept.foldl (shapeKept.deriveRow b bd only) l₁ w)
  have same : v.cell bd.record.string (bd.record.address r) = w.cell bd.record.string (bd.record.address r) := by
    rw [hv]
    exact deriveRows_other b bd only (other l₁ h₁) w
  rw [← hv]
  unfold Work.deriveRow
  dsimp only
  rw [sources.sourceOf, sources.readsChanged, sources.contentOf]
  split
  · rw [Work.cell_setCell_of shape]
  · rw [same]

/-! ### One derivation of a board (R67) -/

/-- R67 steps 1 and 2, R59: the board as a derivation leaves it. -/
def Board.derived (b : Base) (w : Work) (n : Nat) (only : Option (List Nat)) (bd : Board) : Board :=
  if only.isNone then bd.refresh b w n else bd

theorem derived_record (b : Base) (w : Work) (n : Nat) (only : Option (List Nat)) (bd : Board) :
    (bd.derived b w n only).record = bd.record := by
  unfold Board.derived
  split <;> rfl

theorem deriveBoard_eq {b : Base} {only : Option (List Nat)} {e : Bool} {n : Nat} {w : Work} {bd : Board} (h : w.board n = some bd) :
    w.deriveBoard b only e n =
      ((bd.derived b w n only).record.rowList.foldl
        (Work.releaseRow (bd.derived b w n only) e
          ((bd.derived b w n only).presentation == .normal && bd.presentation != .normal))
        ((bd.derived b w n only).record.rowList.foldl (Work.deriveRow b (bd.derived b w n only) only)
          (w.setBoard n fun _ => bd.derived b w n only))).offerRows b n := by
  unfold Work.deriveBoard
  rw [h]
  rfl

/-- R67: what a row should show after the derivation of its board. -/
theorem deriveBoard_cell (b : Base) (only : Option (List Nat)) (e : Bool) {n : Nat} {w : Work} {bd : Board} (h : w.board n = some bd)
    (hf : 1 ≤ bd.record.first) {r : Nat} (hr : r ∈ bd.record.rowList) (hcell : w.HasCell bd.record.string (bd.record.address r)) :
    ((w.deriveBoard b only e n).cell bd.record.string (bd.record.address r)).desired =
      if readsChanged w only (w.sourceOf b (bd.derived b w n only) only r) then
        contentOf b w bd.record (w.sourceOf b (bd.derived b w n only) only r)
      else (w.cell bd.record.string (bd.record.address r)).desired := by
  obtain ⟨bd', hbd'⟩ : ∃ bd', bd' = bd.derived b w n only := ⟨_, rfl⟩
  have hrec : bd'.record = bd.record := hbd' ▸ derived_record b w n only bd
  have kept := desiredKept bd.record.string (bd.record.address r)
  have sources : w.Sources (w.setBoard n fun _ => bd') := ⟨rfl, rfl, rfl, rfl, rfl, rfl⟩
  rw [deriveBoard_eq h, ← hbd', kept.offerRows b n _, kept.foldl (kept.releaseRow bd' e _) _ _]
  have rows := deriveRows_cell b (bd := bd') only (w := w.setBoard n fun _ => bd') (by rw [hrec]; exact hf) (by rw [hrec]; exact hr)
    (by rw [hrec]; exact hcell)
  rw [sources.sourceOf, sources.readsChanged, sources.contentOf, hrec] at rows
  rw [hrec]
  exact rows

/-- R67: a derivation leaves what the rows of no other board should show. -/
theorem deriveBoard_other (b : Base) (only : Option (List Nat)) (e : Bool) {n : Nat} {w : Work} {s a : Nat}
    (h : ∀ bd r, w.board n = some bd → r ∈ bd.record.rowList → ¬ (s = bd.record.string ∧ a - 1 = bd.record.address r - 1)) :
    ((w.deriveBoard b only e n).cell s a).desired = (w.cell s a).desired := by
  cases hb : w.board n with
  | none =>
    unfold Work.deriveBoard
    rw [hb]
  | some bd =>
    have kept := desiredKept s a
    rw [deriveBoard_eq hb, kept.offerRows b n _, kept.foldl (kept.releaseRow _ e _) _ _,
      deriveRows_other b (bd.derived b w n only) only fun r hr he => by
        rw [derived_record] at hr he
        exact h bd r hb hr he]
    rfl

end Sys2Proof.Machine
end

section
/-!
PROOF. What a derivation gives the rows of a board (R43 to R49, R66 to R74): the assignment, the list, the banner, the notice, the
fields of a SERVICE row, and the pages.
-/

namespace Sys2Proof.Machine

/-! ### The best rule (R69, R74) -/

/-- A loaded HEAD that satisfies `p`. -/
def Nre.candidate (n : Nre) (p : Nat → Rule → Bool) (h : Nat) (r : Rule) : Prop :=
  n.rule h = some r ∧ r.kind = .head ∧ p h r = true

theorem bestRule_skip {n : Nre} {p : Nat → Rule → Bool} {k : Nat} {l : List Nat} (h : ∀ r, ¬ n.candidate p k r) :
    bestRule n p (k :: l) = bestRule n p l := by
  rw [bestRule]
  cases hk : n.rule k with
  | none => rfl
  | some q =>
    refine if_neg fun hc => h q ⟨hk, ?_, (Bool.and_eq_true_iff.mp hc).2⟩
    exact beq_iff_eq.mp (Bool.and_eq_true_iff.mp hc).1

theorem bestRule_take {n : Nre} {p : Nat → Rule → Bool} {k : Nat} {l : List Nat} {q : Rule} (h : n.candidate p k q) :
    bestRule n p (k :: l) = match bestRule n p l with
      | some (g, r) => if q.priority < r.priority then some (g, r) else some (k, q)
      | none => some (k, q) := by
  obtain ⟨hk, hhead, hp⟩ := h
  rw [bestRule, hk]
  exact if_pos (Bool.and_eq_true_iff.mpr ⟨beq_iff_eq.mpr hhead, hp⟩)

theorem candidate_unique {n : Nre} {p : Nat → Rule → Bool} {k : Nat} {q r : Rule} (h : n.candidate p k q) (h' : n.candidate p k r) :
    r = q := Option.some.inj (h'.1.symm.trans h.1)

/-- R69, R74: of the rules of a list the one chosen is the best: it has the highest priority and, of equal priorities, the lowest
number; none is chosen where there is no candidate. -/
theorem bestRule_spec (n : Nre) (p : Nat → Rule → Bool) {l : List Nat} (hl : l.Pairwise (· < ·)) :
    match bestRule n p l with
    | none => ∀ g ∈ l, ∀ q, ¬ n.candidate p g q
    | some (h, r) => h ∈ l ∧ n.candidate p h r ∧ ∀ g ∈ l, ∀ q, n.candidate p g q →
        g = h ∨ q.priority < r.priority ∨ (q.priority = r.priority ∧ h < g) := by
  induction l with
  | nil => exact fun g hg => absurd hg List.not_mem_nil
  | cons k l ih =>
    obtain ⟨hlow, hl⟩ := List.pairwise_cons.mp hl
    have ih := ih hl
    by_cases hk : ∃ q, n.candidate p k q
    · obtain ⟨q, hq⟩ := hk
      rw [bestRule_take hq]
      cases hb : bestRule n p l with
      | none =>
        rw [hb] at ih
        refine ⟨List.mem_cons_self .., hq, fun g hg q' hq' => ?_⟩
        rcases List.mem_cons.mp hg with rfl | hg
        · exact .inl rfl
        · exact absurd hq' (ih g hg q')
      | some best =>
        obtain ⟨h, r⟩ := best
        rw [hb] at ih
        obtain ⟨hm, hc, hall⟩ := ih
        dsimp only
        by_cases hlt : q.priority < r.priority
        · rw [if_pos hlt]
          refine ⟨List.mem_cons_of_mem _ hm, hc, fun g hg q' hq' => ?_⟩
          rcases List.mem_cons.mp hg with rfl | hg
          · rw [candidate_unique hq hq']
            exact .inr (.inl hlt)
          · exact hall g hg q' hq'
        · rw [if_neg hlt]
          refine ⟨List.mem_cons_self .., hq, fun g hg q' hq' => ?_⟩
          rcases List.mem_cons.mp hg with rfl | hg
          · exact .inl rfl
          · have hkg := hlow g hg
            rcases hall g hg q' hq' with rfl | hp | ⟨hp, -⟩
            · rw [candidate_unique hc hq']
              omega
            · omega
            · omega
    · have hnone : ∀ r, ¬ n.candidate p k r := fun r hr => hk ⟨r, hr⟩
      rw [bestRule_skip hnone]
      cases hb : bestRule n p l with
      | none =>
        rw [hb] at ih
        intro g hg q'
        rcases List.mem_cons.mp hg with rfl | hg
        · exact hnone q'
        · exact ih g hg q'
      | some best =>
        obtain ⟨h, r⟩ := best
        rw [hb] at ih
        obtain ⟨hm, hc, hall⟩ := ih
        refine ⟨List.mem_cons_of_mem _ hm, hc, fun g hg q' hq' => ?_⟩
        rcases List.mem_cons.mp hg with rfl | hg
        · exact absurd hq' (hnone q')
        · exact hall g hg q' hq'

theorem ruleNumbers_ascend : (List.range Config.ruleCount).Pairwise (· < ·) := List.pairwise_lt_range

/-! ### Eligibility, banner and notice (R66, R69, R74) -/

/-- R66. -/
theorem isEligible_iff (b : Base) (w : Work) (rec : BoardRec) (x : Service) : isEligible w.svt b.tbs.t rec x = true ↔
    (rec.classes = [] ∨ x.cls ∈ rec.classes) ∧
      (rec.platforms = [] ∨ ∃ p, x.current = some p ∧ p.num ∈ rec.platforms) ∧
      (x.status = .departing ∨
        ((x.status = .scheduled ∨ x.status = .delayed ∨ x.status = .cancelled) ∧
          x.k - b.tbs.t ≤ 60 * (rec.horizon : Int) ∧ b.tbs.t - x.k ≤ 60 * (w.svt.overdue : Int))) := by
  have platforms : (match x.current with | some p => rec.platforms.contains p.num | none => false) = true ↔
      ∃ p, x.current = some p ∧ p.num ∈ rec.platforms := by
    cases x.current with
    | none => simp
    | some p => simp
  have status : (x.status == .departing || (x.status != .departed && decide (x.k - b.tbs.t ≤ 60 * (rec.horizon : Int)) &&
      decide (b.tbs.t - x.k ≤ 60 * (w.svt.overdue : Int)))) = true ↔ x.status = .departing ∨
        ((x.status = .scheduled ∨ x.status = .delayed ∨ x.status = .cancelled) ∧
          x.k - b.tbs.t ≤ 60 * (rec.horizon : Int) ∧ b.tbs.t - x.k ≤ 60 * (w.svt.overdue : Int)) := by
    rw [Bool.or_eq_true, Bool.and_eq_true, Bool.and_eq_true, decide_eq_true_eq, decide_eq_true_eq, and_assoc]
    cases x.status <;> simp
  unfold isEligible
  rw [Bool.and_eq_true, Bool.and_eq_true, and_assoc]
  refine and_congr ?_ (and_congr ?_ status)
  · rw [Bool.or_eq_true, List.isEmpty_iff, List.contains_iff_mem]
  · rw [Bool.or_eq_true, List.isEmpty_iff]
    exact or_congr_right platforms

/-- R110: a rule has holders when a record holds it. -/
theorem holders_pos {v : Svt} {h : Nat} : 0 < v.holders h ↔ ∃ x ∈ v.services, h ∈ x.held := by
  unfold Svt.holders
  rw [List.countP_pos_iff]
  simp only [List.contains_iff_mem]

/-- R69: whether a rule's banner is one for a board and the rule is held. -/
def bannerFor (w : Work) (n : Nat) (h : Nat) (r : Rule) : Bool :=
  (match r.banner with | some (_, bs) => bs.contains n | none => false) && w.svt.holders h > 0

theorem bannerFor_iff {w : Work} {n h : Nat} {r : Rule} : bannerFor w n h r = true ↔
    (∃ i bs, r.banner = some (i, bs) ∧ n ∈ bs) ∧ ∃ x ∈ w.svt.services, h ∈ x.held := by
  unfold bannerFor
  rw [Bool.and_eq_true, decide_eq_true_eq, gt_iff_lt, holders_pos]
  refine and_congr_left fun _ => ?_
  cases r.banner with
  | none => simp
  | some p =>
    obtain ⟨i, bs⟩ := p
    simp

theorem bannerSource_normal {b : Base} {w : Work} {n : Nat} (ho : b.fiu.override = false) (hu : b.tbs.state ≠ .unset) :
    bannerSource b w n =
      if w.hlu.degraded then .degraded
      else match bestRule w.nre (bannerFor w n) (List.range Config.ruleCount) with
        | some (h, _) => .rule h
        | none => .none := by
  have hnormal : presentationOf b = .normal := by rw [presentationOf_eq, ho, if_neg Bool.false_ne_true, if_neg hu]
  unfold bannerSource
  rw [hnormal]
  exact if_neg fun h => h rfl

/-- R69: the banner chosen. -/
theorem bannerSource_spec (b : Base) (w : Work) (n : Nat) (ho : b.fiu.override = false) (hu : b.tbs.state ≠ .unset) :
    let candidate := fun (h : Nat) (r : Rule) => h < 64 ∧ w.nre.rule h = some r ∧ r.kind = .head ∧
      (∃ i bs, r.banner = some (i, bs) ∧ n ∈ bs) ∧ ∃ x ∈ w.svt.services, h ∈ x.held
    match bannerSource b w n with
    | .degraded => w.hlu.degraded = true ∧ bannerText w .degraded = some w.bcp.degradedText
    | .none => w.hlu.degraded = false ∧ ∀ h r, ¬ candidate h r
    | .rule h => w.hlu.degraded = false ∧ ∃ r, candidate h r ∧ bannerText w (.rule h) = r.banner.map Prod.fst ∧
        ∀ g q, candidate g q → g = h ∨ q.priority < r.priority ∨ (q.priority = r.priority ∧ h < g) := by
  intro candidate
  have same : ∀ h r, candidate h r ↔ h ∈ List.range Config.ruleCount ∧ w.nre.candidate (bannerFor w n) h r := fun h r => by
    rw [List.mem_range]
    exact and_congr_right fun _ => and_congr_right fun _ => and_congr_right fun _ => bannerFor_iff.symm
  have spec := bestRule_spec w.nre (bannerFor w n) ruleNumbers_ascend
  rw [bannerSource_normal ho hu]
  cases hd : w.hlu.degraded with
  | true => exact ⟨rfl, rfl⟩
  | false =>
    rw [if_neg Bool.false_ne_true]
    cases hb : bestRule w.nre (bannerFor w n) (List.range Config.ruleCount) with
    | none =>
      rw [hb] at spec
      exact ⟨rfl, fun h r hc => spec h ((same h r).mp hc).1 r ((same h r).mp hc).2⟩
    | some best =>
      obtain ⟨h, r⟩ := best
      rw [hb] at spec
      obtain ⟨hm, hc, hall⟩ := spec
      refine ⟨rfl, r, (same h r).mpr ⟨hm, hc⟩, ?_, fun g q hq => hall g ((same g q).mp hq).1 q ((same g q).mp hq).2⟩
      show (w.nre.rule h).bind _ = _
      rw [hc.1]
      rfl

/-- R74: whether a rule's notice is one for a service. -/
def noticeFor (x : Service) (h : Nat) (r : Rule) : Bool := r.notice.isSome && x.held.contains h

theorem noticeFor_iff {x : Service} {h : Nat} {r : Rule} : noticeFor x h r = true ↔ r.notice ≠ none ∧ h ∈ x.held := by
  unfold noticeFor
  rw [Bool.and_eq_true, List.contains_iff_mem, Option.isSome_iff_ne_none]

/-- R74: the notice of a service is that of the best HEAD of its held set that has one. -/
theorem noticeIndex_iff (n : Nre) (x : Service) (i : Nat) : noticeIndex n x = some i ↔
    ∃ h r, (h < 64 ∧ n.candidate (noticeFor x) h r) ∧ r.notice = some i ∧
      ∀ g q, g < 64 → n.candidate (noticeFor x) g q → g = h ∨ q.priority < r.priority ∨ (q.priority = r.priority ∧ h < g) := by
  have spec := bestRule_spec n (noticeFor x) ruleNumbers_ascend
  show (bestRule n (noticeFor x) (List.range Config.ruleCount)).bind (fun p => p.2.notice) = some i ↔ _
  cases hb : bestRule n (noticeFor x) (List.range Config.ruleCount) with
  | none =>
    rw [hb] at spec
    refine ⟨fun h => (Option.some_ne_none i h.symm).elim, fun ⟨h, r, ⟨hlt, hc⟩, _⟩ => absurd hc (spec h (List.mem_range.mpr hlt) r)⟩
  | some best =>
    obtain ⟨h, r⟩ := best
    rw [hb] at spec
    obtain ⟨hm, hc, hall⟩ := spec
    rw [Option.bind_some]
    constructor
    · intro hn
      exact ⟨h, r, ⟨List.mem_range.mp hm, hc⟩, hn, fun g q hg hq => hall g (List.mem_range.mpr hg) q hq⟩
    · rintro ⟨h', r', ⟨hlt', hc'⟩, hn', hall'⟩
      have one := hall h' (List.mem_range.mpr hlt') r' hc'
      have two := hall' h r (List.mem_range.mp hm) hc
      have heq : h' = h := by omega
      subst heq
      rw [← candidate_unique hc hc']
      exact hn'

end Sys2Proof.Machine
end

section
/-!
PROOF. A derivation of a board, settled (R67 to R75): the fields of its rows, its pages, and the content of every row.
-/

namespace Sys2Proof.Machine

/-! ### The fields of a SERVICE row (R43 to R49, R73) -/

/-- R42, R43: a minute of the service day as the clock shows it. -/
def clockMinute (c0 : Nat) (m : Int) : HourMin := ⟨((m + c0) % 1440 / 60).toNat, ((m + c0) % 60).toNat⟩

theorem displayed_minute (c0 : Nat) (m : Int) : displayed c0 (60 * m) = clockMinute c0 m := by
  unfold displayed clockMinute Config.day
  dsimp only
  rw [show (60 * m + 60 * (c0 : Int)) % 86400 / 3600 = (m + c0) % 1440 / 60 by omega,
    show (60 * m + 60 * (c0 : Int)) % 86400 % 3600 / 60 = (m + c0) % 60 by omega]

theorem expText_eq (c0 : Nat) (x : Service) : expText c0 x = x.expected.map fun e => clockMinute c0 ((e + 30) / 60) := by
  unfold expText expMinute
  simp only [displayed_minute]

/-- R49: the remark, by the first condition that holds. -/
theorem remark_eq (c0 tolerance : Nat) (t : Int) (x : Service) : remark c0 tolerance t x =
    (if x.status = .cancelled then .cancelled
    else if x.status = .departing then .departing
    else if x.stale = true then .awaiting
    else if x.k - t ≤ 0 ∧ (x.status = .scheduled ∨ x.status = .delayed) then .due
    else if x.status = .delayed ∧ x.expected = none then .delayed
    else if x.delay ≤ tolerance then .onTime
    else match x.expected with
      | some e => if x.delay ≤ 999 then .expected (clockMinute c0 ((e + 30) / 60)) x.delay else .delayed
      | none => .delayed) := by
  have last : (if x.delay ≤ 999 then (match expText c0 x with | some e => Remark.expected e x.delay | none => .delayed) else .delayed) =
      match x.expected with
      | some e => if x.delay ≤ 999 then .expected (clockMinute c0 ((e + 30) / 60)) x.delay else .delayed
      | none => .delayed := by
    rw [expText_eq]
    cases x.expected with
    | none => exact ite_self _
    | some e => rfl
  have steps : remark c0 tolerance t x =
      (if x.status = .cancelled then .cancelled
      else if x.status = .departing then .departing
      else if x.stale = true then .awaiting
      else if x.k - t ≤ 0 ∧ (x.status = .scheduled ∨ x.status = .delayed) then .due
      else if x.status = .delayed ∧ x.expected = none then .delayed
      else if x.delay ≤ tolerance then .onTime
      else if x.delay ≤ 999 then (match expText c0 x with | some e => Remark.expected e x.delay | none => .delayed)
      else .delayed) := rfl
  rw [steps, last]

/-- R49: which remarks say that a service is cancelled or departing. -/
theorem remark_ended (c0 tolerance : Nat) (t : Int) (x : Service) :
    (remark c0 tolerance t x = .cancelled ∨ remark c0 tolerance t x = .departing) ↔
      (x.status = .cancelled ∨ x.status = .departing) := by
  unfold remark
  by_cases hc : x.status = .cancelled
  · simp [hc]
  · by_cases hd : x.status = .departing
    · simp [hd]
    · rw [if_neg hc, if_neg hd]
      refine iff_of_false ?_ (by simp [hc, hd])
      repeat' split
      all_goals simp

/-- R48: the DUE column. -/
theorem dueText_eq (c0 tolerance : Nat) (t : Int) (x : Service) : dueText (remark c0 tolerance t x) (x.k - t) =
    (if x.status = .cancelled ∨ x.status = .departing then .blank
    else if x.k - t ≤ 0 then .word
    else if x.k - t ≤ 99 * 60 then .figure ((x.k - t + 59) / 60).toNat
    else .blank) := by
  unfold dueText
  rw [if_congr (remark_ended c0 tolerance t x) rfl rfl]
  refine ite_congr rfl (fun _ => rfl) fun _ => ite_congr rfl (fun _ => rfl) fun hpos => ?_
  have hcount : countdown (x.k - t) = ((x.k - t + 59) / 60).toNat := if_pos (by omega)
  rw [hcount]
  refine ite_congr (propext ?_) (fun _ => rfl) fun _ => rfl
  omega

/-! ### Pages (R70, R71) -/

theorem refresh_eligible (b : Base) (w : Work) (n : Nat) (bd : Board) :
    (bd.refresh b w n).eligible = (eligibleRecords b w bd.record).map Service.key := rfl

/-- R70: a page count above 1 is the rotating services divided by the rotating rows and rounded up. -/
theorem countPages_up {rec : BoardRec} {shown n : Nat} (hk : rec.kind = .list) (hp : 0 < rotatingRows rec shown)
    (hn : fixedRows rec shown + rotatingRows rec shown < n) :
    rotatingRows rec shown * (countPages rec shown n - 1) < n - fixedRows rec shown ∧
      n - fixedRows rec shown ≤ rotatingRows rec shown * countPages rec shown n := by
  have hnot : ¬ (rec.kind = .platform ∨ rotatingRows rec shown = 0 ∨ n ≤ fixedRows rec shown + rotatingRows rec shown) := by
    rw [hk]
    rintro (h | h | h)
    · cases h
    · omega
    · omega
  have hcount : countPages rec shown n = (n - fixedRows rec shown + rotatingRows rec shown - 1) / rotatingRows rec shown :=
    if_neg hnot
  obtain ⟨p, hpe⟩ : ∃ p, p = rotatingRows rec shown := ⟨_, rfl⟩
  obtain ⟨m, hme⟩ : ∃ m, m = n - fixedRows rec shown := ⟨_, rfl⟩
  rw [hcount, ← hpe, ← hme]
  rw [← hpe] at hp
  have hm : 0 < m := by omega
  have hdiv := Nat.div_add_mod (m + p - 1) p
  have hmod := Nat.mod_lt (m + p - 1) hp
  have hq : 1 ≤ (m + p - 1) / p := (Nat.one_le_div_iff hp).mpr (by omega)
  obtain ⟨q, hqe⟩ : ∃ q, (m + p - 1) / p = q + 1 := ⟨(m + p - 1) / p - 1, by omega⟩
  rw [hqe] at hdiv ⊢
  rw [Nat.add_sub_cancel]
  rw [Nat.mul_add, Nat.mul_one] at hdiv ⊢
  omega

/-- R67, R68, R70, R71: the board that a derivation leaves. -/
theorem refresh_spec (b : Base) (w : Work) (n : Nat) (bd : Board) :
    let bd' := bd.refresh b w n
    let normal := b.fiu.override = false ∧ b.tbs.state ≠ .unset
    let shown := bannerRows bd.record (bannerSource b w n)
    let fixed := min bd.record.fixed (bd.record.rows - shown)
    let rotating := bd.record.rows - fixed - shown
    let listed := bd'.eligible.length
    bd'.record = bd.record ∧ bd'.banner = bannerSource b w n ∧
      (normal → bd'.eligible = (w.svt.ordered.filter (isEligible w.svt b.tbs.t bd.record)).map Service.key) ∧
      (¬ normal → bd'.eligible = []) ∧
      (bd.record.kind = .platform ∨ rotating = 0 ∨ listed ≤ fixed + rotating → bd'.pageCount = 1) ∧
      (bd.record.kind = .list → 0 < rotating → fixed + rotating < listed →
        rotating * (bd'.pageCount - 1) < listed - fixed ∧ listed - fixed ≤ rotating * bd'.pageCount) ∧
      (normal → bd.presentation ≠ .normal → bd'.page = 0 ∧ bd'.timer = 0) ∧
      (bd'.pageCount ≤ bd.page → bd'.page = 0) ∧
      (¬ normal ∨ bd.presentation = .normal → (bd.page < bd'.pageCount → bd'.page = bd.page) ∧ bd'.timer = bd.timer) := by
  intro bd' normal shown fixed rotating listed
  have hnormal : presentationOf b = .normal ↔ normal := by
    rw [presentationOf_eq]
    show _ ↔ b.fiu.override = false ∧ b.tbs.state ≠ .unset
    cases b.fiu.override <;> cases b.tbs.state <;> simp
  have hlisted : listed = (eligibleRecords b w bd.record).length := List.length_map ..
  have hpages : bd'.pageCount = countPages bd.record shown listed := by rw [hlisted]; rfl
  refine ⟨rfl, rfl, fun hn => ?_, fun hn => ?_, fun h => ?_, fun hk hp hl => ?_, fun hn hb => ?_, fun h => ?_, fun h => ?_⟩
  · show (eligibleRecords b w bd.record).map Service.key = _
    unfold eligibleRecords
    rw [if_pos (hnormal.mpr hn)]
  · show (eligibleRecords b w bd.record).map Service.key = _
    unfold eligibleRecords
    rw [if_neg fun h => hn (hnormal.mp h)]
    rfl
  · rw [hpages]
    exact if_pos h
  · rw [hpages]
    exact countPages_up hk hp hl
  · exact ⟨if_pos (.inl ⟨hnormal.mpr hn, hb⟩), if_pos ⟨hnormal.mpr hn, hb⟩⟩
  · exact if_pos (.inr h)
  · have hstay : ¬ (presentationOf b = .normal ∧ bd.presentation ≠ .normal) := fun ⟨hn, hb⟩ =>
      h.elim (fun hnot => hnot (hnormal.mp hn)) fun heq => hb heq
    exact ⟨fun hlt => if_neg fun hor => hor.elim hstay fun hle => absurd hle (Nat.not_le.mpr hlt), if_neg hstay⟩

/-! ### The content of a row (R70, R72, R73) -/

theorem contentOf_position (b : Base) (w : Work) (rec : BoardRec) (list : List Service) (i : Nat) :
    contentOf b w rec (positionSource list i) =
      match list[i - 1]? with | some x => RowContent.service (serviceRow b w rec x) | none => .blank := by
  unfold positionSource
  cases list[i - 1]? <;> rfl

theorem contentOf_banner (b : Base) (w : Work) (rec : BoardRec) (o : Option Nat) :
    contentOf b w rec (match o with | some t => .banner t | none => .blank) =
      match o with | some i => RowContent.banner (textEntry b.txs i).text | none => .blank := by
  cases o <;> rfl

theorem contentOf_head (b : Base) (w : Work) (rec : BoardRec) (list : List Service) :
    contentOf b w rec (match list.head? with | some x => .calling x | none => .blank) =
      match list.head? with
      | some x => RowContent.calling x.key (x.calling.map fun i => (textEntry b.txs i).text)
      | none => .blank := by
  cases list.head? <;> rfl

theorem refreshed_source (b : Base) (w : Work) (n : Nat) (bd : Board) (r : Nat) : w.sourceOf b (bd.refresh b w n) none r =
    rowSource b w bd.record (eligibleRecords b w bd.record) (bannerSource b w n) (bd.refresh b w n).page r := rfl

theorem rowSource_override {b : Base} (h : b.fiu.override = true) (w : Work) (rec : BoardRec) (list : List Service) (src : BannerSource)
    (page r : Nat) : rowSource b w rec list src page r = if r = 1 then .banner w.bcp.overrideText else .blank := by
  unfold rowSource
  rw [presentationOf_eq, if_pos h]

theorem rowSource_startUp {b : Base} (h : ¬ b.fiu.override = true) (hu : b.tbs.state = .unset) (w : Work) (rec : BoardRec)
    (list : List Service) (src : BannerSource) (page r : Nat) :
    rowSource b w rec list src page r = if r = 1 then .banner w.bcp.startText else .blank := by
  unfold rowSource
  rw [presentationOf_eq, if_neg h, if_pos hu]

theorem rowSource_normal {b : Base} (h : ¬ b.fiu.override = true) (hu : ¬ b.tbs.state = .unset) (w : Work) (rec : BoardRec)
    (list : List Service) (src : BannerSource) (page r : Nat) : rowSource b w rec list src page r =
      if rec.kind = .list then listRow rec list (bannerText w src) (bannerRows rec src) page r
      else platformRow rec list (bannerText w src) (bannerRows rec src) r := by
  unfold rowSource
  rw [presentationOf_eq, if_neg h, if_neg hu]
  cases rec.kind <;> rfl

/-- R67: every row of a derived board has the content of its source. -/
theorem deriveBoard_row (b : Base) (e : Bool) {w : Work} {n : Nat} {bd : Board} {row : Nat} (h : w.board n = some bd)
    (hs : bd.record.string < w.bcp.cells.length) (hf : 1 ≤ bd.record.first)
    (ha : bd.record.first + bd.record.rows - 1 ≤ (w.bcp.cells.getD bd.record.string []).length) (h1 : 1 ≤ row)
    (h2 : row ≤ bd.record.rows) : ((w.deriveBoard b none e n).cell bd.record.string (bd.record.first + row - 1)).desired =
      contentOf b w bd.record (w.sourceOf b (bd.refresh b w n) none row) := by
  have hcell : w.HasCell bd.record.string (bd.record.address row) := ⟨hs, by unfold BoardRec.address; omega⟩
  exact (deriveBoard_cell b none e h hf (mem_rowList.mpr ⟨h1, h2⟩) hcell).trans (if_pos rfl)

/-- Settles O22, part by part: rows, list, banner, fields, notice and pages. -/
theorem derivationAssignsTheRows : Obligations.DerivationAssignsTheRows := by
  refine ⟨?_, fun b w rec' x => isEligible_iff b w rec' x, bannerSource_spec, fun _ _ => rfl, ?_, ?_, ?_⟩
  · intro b w n bd row hbd hs hf ha h1 h2 rec' u desired list src fixed rotating page position
    have hdesired : desired = contentOf b w rec' (w.sourceOf b (bd.refresh b w n) none row) :=
      deriveBoard_row b false hbd hs hf ha h1 h2
    have hpage : page = (bd.refresh b w n).page := by
      show ((u.board n).map Board.page).getD 0 = _
      rw [deriveBoard_board, if_pos rfl, hbd]
      rfl
    rw [refreshed_source, ← hpage] at hdesired
    by_cases ho : b.fiu.override = true
    · rw [if_pos ho, hdesired, rowSource_override ho]
      split <;> rfl
    rw [if_neg ho]
    by_cases hu : b.tbs.state = .unset
    · rw [if_pos hu, hdesired, rowSource_startUp ho hu]
      split <;> rfl
    have hlist : eligibleRecords b w rec' = list := by
      unfold eligibleRecords
      rw [presentationOf_eq, if_neg ho, if_neg hu, if_pos rfl]
    rw [if_neg hu, hdesired, rowSource_normal ho hu, hlist]
    by_cases hk : rec'.kind = .list
    · rw [if_pos hk, if_pos hk]
      unfold listRow
      split
      · exact contentOf_banner b w rec' (bannerText w src)
      · show if row ≤ fixed then _ else _
        split
        · next hrow =>
          exact (congrArg (contentOf b w rec') (if_pos hrow)).trans (contentOf_position b w rec' list row)
        · next hrow =>
          exact (congrArg (contentOf b w rec') (if_neg hrow)).trans (contentOf_position b w rec' list _)
    · rw [if_neg hk, if_neg hk]
      unfold platformRow
      split
      · exact contentOf_banner b w rec' (bannerText w src)
      · split
        · exact contentOf_position b w rec' list 1
        · split
          · exact contentOf_head b w rec' list
          · exact contentOf_position b w rec' list (row - 1)
  · intro b w rec' x shown chars left row
    exact ⟨rfl, displayed_minute .., expText_eq .., rfl, rfl, rfl, decide_eq_true_iff, rfl, rfl, rfl, rfl, remark_eq .., dueText_eq ..⟩
  · intro b w rec' x candidate
    have same : ∀ h r i, candidate h r i ↔ (h < 64 ∧ w.nre.candidate (noticeFor x) h r) ∧ r.notice = some i := by
      intro h r i
      unfold Nre.candidate
      rw [noticeFor_iff]
      constructor
      · rintro ⟨hlt, hheld, hr, hk, hn⟩
        exact ⟨⟨hlt, hr, hk, by rw [hn]; exact Option.some_ne_none i, hheld⟩, hn⟩
      · rintro ⟨⟨hlt, hr, hk, -, hheld⟩, hn⟩
        exact ⟨hlt, hheld, hr, hk, hn⟩
    constructor
    · intro hnone
      show (noticeIndex w.nre x).map _ = none
      cases hi : noticeIndex w.nre x with
      | none => rfl
      | some i =>
        obtain ⟨h, r, hc, hn, -⟩ := (noticeIndex_iff w.nre x i).mp hi
        exact absurd ((same h r i).mpr ⟨hc, hn⟩) (hnone h r i)
    · intro h r i hc hbest
      obtain ⟨hc', hn⟩ := (same h r i).mp hc
      show (noticeIndex w.nre x).map _ = _
      rw [(noticeIndex_iff w.nre x i).mpr ⟨h, r, hc', hn, fun g q hg hq => ?_⟩]
      · rfl
      · obtain ⟨j, hj⟩ := Option.ne_none_iff_exists'.mp (noticeFor_iff.mp hq.2.2).1
        exact hbest g q j ((same g q j).mpr ⟨⟨hg, hq⟩, hj⟩)
  · intro b w n bd hbd
    refine ⟨bd.refresh b w n, ?_, refresh_spec b w n bd⟩
    rw [deriveBoard_board, if_pos rfl, hbd]
    rfl

end Sys2Proof.Machine
end

section
/-!
PROOF. How rows are staged and offered (R77 to R82).
-/

namespace Sys2Proof.Machine

/-! ### Dirty, urgent, rotating, due (R77 to R79) -/

theorem dirty_iff (c : Cell) : c.dirty = true ↔ c.reference ≠ some c.desired := by
  unfold Cell.dirty
  exact bne_iff_ne

/-- R78: the differences of two rows of one service that are urgent. -/
def urgentChange (e r : ServiceRow) : Prop :=
  e.platform ≠ r.platform ∨ (e.remark = .cancelled ∧ r.remark ≠ .cancelled) ∨
    (e.remark ≠ .cancelled ∧ r.remark = .cancelled) ∨ (e.remark = .departing ∧ r.remark ≠ .departing) ∨
    (e.remark ≠ .departing ∧ r.remark = .departing) ∨ e.flash ≠ r.flash

theorem urgentChange_iff (e r : ServiceRow) : (e.platform != r.platform || ((e.remark == .cancelled) != (r.remark == .cancelled)) ||
    ((e.remark == .departing) != (r.remark == .departing)) || (e.flash != r.flash)) = true ↔ urgentChange e r := by
  have differ : ∀ k : Remark, ((e.remark == k) != (r.remark == k)) = true ↔
      (e.remark = k ∧ r.remark ≠ k) ∨ (e.remark ≠ k ∧ r.remark = k) := fun k => by
    by_cases he : e.remark = k <;> by_cases hr : r.remark = k <;> simp [he, hr]
  unfold urgentChange
  rw [Bool.or_eq_true, Bool.or_eq_true, Bool.or_eq_true, differ, differ, bne_iff_ne, bne_iff_ne]
  simp only [or_assoc]

/-- R78: an urgent difference. -/
theorem urgent_iff (c : Cell) (list : List Key) : c.urgent list = true ↔
    c.reference = none ∨ (∃ txt, c.reference = some (.banner txt)) ∨
      ∃ r, c.reference = some (.service r) ∧ (r.key ∉ list ∨ ∃ e, c.desired = .service e ∧ e.key = r.key ∧ urgentChange e r) := by
  unfold Cell.urgent
  cases hr : c.reference with
  | none => simp
  | some content =>
    cases content with
    | service r =>
      cases hd : c.desired with
      | service e =>
        dsimp only
        rw [Bool.or_eq_true, Bool.and_eq_true, urgentChange_iff]
        simp
      | _ => simp
    | _ => simp

theorem rotating_iff (bd : Board) (r : Nat) : bd.rotating r = true ↔
    bd.record.kind = .list ∧ bd.presentation = .normal ∧
      min bd.record.fixed (bd.record.rows - bannerRows bd.record bd.banner) < r ∧ r ≤ bd.record.rows - bannerRows bd.record bd.banner := by
  have last : fixedRows bd.record (bannerRows bd.record bd.banner) + rotatingRows bd.record (bannerRows bd.record bd.banner) =
      bd.record.rows - bannerRows bd.record bd.banner := by
    unfold rotatingRows fixedRows
    omega
  unfold Board.rotating
  dsimp only
  rw [last]
  simp only [Bool.and_eq_true, beq_iff_eq, decide_eq_true_eq, and_assoc]
  rfl

theorem due_iff (bd : Board) (r : Nat) (c : Cell) :
    bd.due r c = true ↔ c.dirty = true ∧ (bd.rotating r = false ∨ c.released = true) := by
  unfold Board.due
  rw [Bool.and_eq_true, Bool.or_eq_true, Bool.not_eq_true']

/-! ### One offer at its cell (R80) -/

section offers
variable {b : Base} {s a : Nat} {c : RowContent} {w : Work}

theorem offer_cell_own (h : w.HasCell s a) : (w.offer b s a c).1.cell s a =
    (w.cell s a).offered c ((w.string s).offer b.elapsed a c).2 := by
  rw [Work.offer_eq]
  exact Work.cell_setCell_of (w := w.setString s _) h

theorem offer_cell_other {s' a' : Nat} (h : ¬ (s' = s ∧ a' - 1 = a - 1)) : (w.offer b s a c).1.cell s' a' = w.cell s' a' := by
  rw [Work.offer_eq]
  exact Work.cell_setCell_other (w := w.setString s _) h

theorem offer_string_own (h : s < w.wsc.length) : (w.offer b s a c).1.string s = ((w.string s).offer b.elapsed a c).1 := by
  rw [Work.offer_eq]
  exact Work.string_setString_self h

theorem offer_answer : (w.offer b s a c).2 = ((w.string s).offer b.elapsed a c).2 := by
  rw [Work.offer_eq]

theorem offer_hasCell {s' a' : Nat} (h : w.HasCell s' a') : (w.offer b s a c).1.HasCell s' a' := h.of_shape (shapeKept.offer b s a c w)

end offers

/-! ### A row offered (R80, R82) -/

/-- R80: a cell after its desired content has been offered. -/
def Cell.offeredDesired (x : OfferAnswer) (c : Cell) : Cell :=
  match x with
  | .refused => { c with heldBack := false }
  | .queued => { c with outstanding := c.outstanding ++ [c.desired], released := false, heldBack := false }
  | .replaced => { c with outstanding := c.outstanding.dropLast ++ [c.desired], released := false, heldBack := false }

section rows
variable {b : Base} {bd : Board} {w : Work}

theorem offerDesired_other {rec : BoardRec} {r : Nat} {s a : Nat} (h : ¬ (s = rec.string ∧ a - 1 = rec.address r - 1)) :
    (w.offerDesired b rec r).cell s a = w.cell s a := by
  unfold Work.offerDesired
  dsimp only
  split <;> rw [Work.cell_setCell_other h, offer_cell_other h]

theorem offerDesired_own {rec : BoardRec} {r : Nat} (h : w.HasCell rec.string (rec.address r)) :
    (w.offerDesired b rec r).cell rec.string (rec.address r) = (w.rowCell rec r).offeredDesired
      ((w.string rec.string).offer b.elapsed (rec.address r) (w.rowCell rec r).desired).2 := by
  unfold Work.offerDesired
  dsimp only
  rw [offer_answer]
  have hcell := offer_hasCell (b := b) (s := rec.string) (a := rec.address r) (c := (w.rowCell rec r).desired) h
  split
  · next hx =>
    rw [Work.cell_setCell_of hcell, offer_cell_own h, hx]
    rfl
  · next hx =>
    rw [Work.cell_setCell_of hcell, offer_cell_own h]
    cases hans : ((w.string rec.string).offer b.elapsed (rec.address r) (w.rowCell rec r).desired).2 with
    | refused => exact absurd hans hx
    | queued => rfl
    | replaced => rfl

theorem offerDesired_string {rec : BoardRec} {r : Nat} (h : rec.string < w.wsc.length) :
    (w.offerDesired b rec r).string rec.string =
      ((w.string rec.string).offer b.elapsed (rec.address r) (w.rowCell rec r).desired).1 := by
  have hstr := offer_string_own (b := b) (a := rec.address r) (c := (w.rowCell rec r).desired) h
  unfold Work.offerDesired
  dsimp only
  split <;> exact hstr

/-- R82: what a cell shows of a service. -/
theorem shows_iff (k : Key) (c : Cell) : c.shows k = true ↔
    ∃ e : ServiceRow, e.key = k ∧ (c.onWall = some (.service e) ∨ .service e ∈ c.outstanding) := by
  unfold Cell.shows
  rw [Bool.or_eq_true, List.any_eq_true]
  constructor
  · rintro (h | ⟨x, hx, h⟩)
    · cases ho : c.onWall with
      | none => rw [ho] at h; cases h
      | some x =>
        rw [ho] at h
        obtain ⟨e, rfl, hk⟩ := (occupant_iff ..).mp (beq_iff_eq.mp h)
        exact ⟨e, hk, .inl rfl⟩
    · obtain ⟨e, rfl, hk⟩ := (occupant_iff ..).mp (beq_iff_eq.mp h)
      exact ⟨e, hk, .inr hx⟩
  · rintro ⟨e, rfl, h | h⟩
    · rw [h]
      exact .inl (beq_iff_eq.mpr rfl)
    · exact .inr ⟨_, h, beq_iff_eq.mpr rfl⟩

theorem mem_rowsShowing {rec : BoardRec} {r q : Nat} {k : Key} : q ∈ w.rowsShowing rec r k ↔
    (1 ≤ q ∧ q ≤ rec.rows) ∧ q ≠ r ∧ (w.rowCell rec q).shows k = true := by
  unfold Work.rowsShowing
  rw [List.mem_filter, mem_rowList, Bool.and_eq_true, bne_iff_ne]

theorem offerRow_idle {r : Nat} (h : bd.due r (w.rowCell bd.record r) = false) : w.offerRow b bd r = w := by
  unfold Work.offerRow
  dsimp only
  rw [h]
  rfl

/-- R80: a due row in whose way no row stands is offered its desired content. -/
theorem offerRow_free {r : Nat} (h : bd.due r (w.rowCell bd.record r) = true)
    (hno : ∀ e q, (w.rowCell bd.record r).desired = .service e → q ∉ w.rowsShowing bd.record r e.key) :
    w.offerRow b bd r = w.offerDesired b bd.record r := by
  unfold Work.offerRow
  dsimp only
  rw [if_pos h]
  split
  · next k hk =>
    obtain ⟨e, hd, rfl⟩ := (occupant_iff ..).mp hk
    exact if_pos (List.isEmpty_iff.mpr (List.eq_nil_iff_forall_not_mem.mpr fun q => hno e q hd))
  · rfl

/-- R82: a row held back. -/
def Work.holdBack (rec : BoardRec) (r : Nat) (w : Work) : Work :=
  w.setCell rec.string (rec.address r) fun c => { c with heldBack := true }

/-- R82: a due row in whose way a row stands is held back, with an interim BLANK where it shows another service. -/
theorem offerRow_held {r : Nat} {e : ServiceRow} {q : Nat} (h : bd.due r (w.rowCell bd.record r) = true)
    (hd : (w.rowCell bd.record r).desired = .service e) (hq : q ∈ w.rowsShowing bd.record r e.key) : w.offerRow b bd r =
      match (w.rowCell bd.record r).reference with
      | some (.service x) =>
        if x.key = e.key then w.holdBack bd.record r
        else ((w.holdBack bd.record r).offer b bd.record.string (bd.record.address r) .blank).1
      | _ => w.holdBack bd.record r := by
  have hne : (w.rowsShowing bd.record r e.key).isEmpty = false := by
    cases hl : w.rowsShowing bd.record r e.key with
    | nil => rw [hl] at hq; cases hq
    | cons _ _ => rfl
  unfold Work.offerRow
  dsimp only
  rw [if_pos h, hd]
  show (if (w.rowsShowing bd.record r e.key).isEmpty = true then _ else _) = _
  rw [hne, if_neg Bool.false_ne_true]
  rfl

/-- R80, R82: an offer of a row leaves every other cell. -/
theorem offerRow_other {r s a : Nat} (h : ¬ (s = bd.record.string ∧ a - 1 = bd.record.address r - 1)) :
    (w.offerRow b bd r).cell s a = w.cell s a := by
  by_cases hdue : bd.due r (w.rowCell bd.record r) = true
  · by_cases hway : ∃ e q, (w.rowCell bd.record r).desired = .service e ∧ q ∈ w.rowsShowing bd.record r e.key
    · obtain ⟨e, q, hd, hq⟩ := hway
      have held : (w.holdBack bd.record r).cell s a = w.cell s a := Work.cell_setCell_other h
      rw [offerRow_held hdue hd hq]
      split
      · split
        · exact held
        · rw [offer_cell_other h, held]
      · exact held
    · rw [offerRow_free hdue fun e q hd hq => hway ⟨e, q, hd, hq⟩]
      exact offerDesired_other h
  · rw [offerRow_idle (Bool.not_eq_true _ ▸ hdue)]

/-- R82: a row held back, at its cell and its string. -/
theorem offerRow_held_cell {r : Nat} {e : ServiceRow} {q : Nat} (h : bd.due r (w.rowCell bd.record r) = true)
    (hd : (w.rowCell bd.record r).desired = .service e) (hq : q ∈ w.rowsShowing bd.record r e.key)
    (hcell : w.HasCell bd.record.string (bd.record.address r)) (hs : bd.record.string < w.wsc.length) :
    let c := w.rowCell bd.record r
    let d := (w.offerRow b bd r).rowCell bd.record r
    d.heldBack = true ∧ d.desired = c.desired ∧ d.onWall = c.onWall ∧ d.released = c.released ∧
      ((∃ x, c.reference = some (.service x) ∧ x.key ≠ e.key) →
        (w.offerRow b bd r).string bd.record.string =
          ((w.string bd.record.string).offer b.elapsed (bd.record.address r) .blank).1) ∧
      ((¬ ∃ x, c.reference = some (.service x) ∧ x.key ≠ e.key) →
        (w.offerRow b bd r).string bd.record.string = w.string bd.record.string ∧ d.outstanding = c.outstanding) := by
  intro c d
  have held : (w.holdBack bd.record r).cell bd.record.string (bd.record.address r) = { c with heldBack := true } :=
    Work.cell_setCell_of hcell
  have hcell' : (w.holdBack bd.record r).HasCell bd.record.string (bd.record.address r) :=
    hcell.of_shape (Work.shape_setCell ..)
  by_cases hother : ∃ x, c.reference = some (.service x) ∧ x.key ≠ e.key
  · have heq : w.offerRow b bd r = ((w.holdBack bd.record r).offer b bd.record.string (bd.record.address r) .blank).1 := by
      obtain ⟨x, hx, hne⟩ := hother
      rw [offerRow_held h hd hq]
      have hx' : (w.rowCell bd.record r).reference = some (.service x) := hx
      rw [hx']
      exact if_neg hne
    have hd' : d = ({ c with heldBack := true } : Cell).offered .blank
        (((w.holdBack bd.record r).string bd.record.string).offer b.elapsed (bd.record.address r) .blank).2 := by
      show (w.offerRow b bd r).cell bd.record.string (bd.record.address r) = _
      rw [heq, offer_cell_own hcell', held]
    obtain ⟨k1, k2, k3, k4⟩ := Cell.offered_keeps .blank
      (((w.holdBack bd.record r).string bd.record.string).offer b.elapsed (bd.record.address r) .blank).2 { c with heldBack := true }
    rw [hd']
    refine ⟨k4, k1, k2, k3, fun _ => ?_, fun hno => absurd hother hno⟩
    rw [heq]
    exact offer_string_own (w := w.holdBack bd.record r) hs
  · have heq : w.offerRow b bd r = w.holdBack bd.record r := by
      rw [offerRow_held h hd hq]
      split
      · next x hx => exact if_pos (Decidable.of_not_not fun hne => hother ⟨x, hx, hne⟩)
      · rfl
    have hd' : d = { c with heldBack := true } := by
      show (w.offerRow b bd r).cell bd.record.string (bd.record.address r) = _
      rw [heq, held]
    rw [hd', heq]
    exact ⟨rfl, rfl, rfl, rfl, fun hyes => absurd hyes hother, fun _ => ⟨rfl, rfl⟩⟩

theorem offerRow_hasCell {r s a : Nat} (h : w.HasCell s a) : (w.offerRow b bd r).HasCell s a := h.of_shape (shapeKept.offerRow b bd w r)

end rows

/-! ### The guard's releases (R82) -/

/-- A cell that may have been released, and is otherwise as before. -/
structure Cell.Looser (c d : Cell) : Prop where
  same : d = { c with released := d.released }
  released : c.released = true → d.released = true

theorem looser_refl (c : Cell) : c.Looser c := ⟨rfl, id⟩

theorem Cell.Looser.trans {c d e : Cell} (h : c.Looser d) (k : d.Looser e) : c.Looser e :=
  ⟨by rw [k.same, h.same], k.released ∘ h.released⟩

theorem Cell.Looser.dirty {c d : Cell} (h : c.Looser d) : d.dirty = c.dirty := by rw [h.same]; rfl

theorem Cell.Looser.desired {c d : Cell} (h : c.Looser d) : d.desired = c.desired := by rw [h.same]

theorem Cell.Looser.shows {c d : Cell} (h : c.Looser d) (k : Key) : d.shows k = c.shows k := by rw [h.same]; rfl

theorem Cell.Looser.due {c d : Cell} (h : c.Looser d) {bd : Board} {r : Nat} (hd : bd.due r c = true) : bd.due r d = true := by
  obtain ⟨hdirty, hr⟩ := (due_iff bd r c).mp hd
  exact (due_iff bd r d).mpr ⟨h.dirty.trans hdirty, hr.imp_right h.released⟩

/-- R82: one dirty row released. -/
def Work.freeRow (bd : Board) (w : Work) (q : Nat) : Work :=
  w.setCell bd.record.string (bd.record.address q) fun c => if c.dirty then { c with released := true } else c

theorem freeRow_looser (bd : Board) (w : Work) (q s a : Nat) : (w.cell s a).Looser ((w.freeRow bd q).cell s a) := by
  unfold Work.freeRow
  rw [Work.cell_setCell]
  split
  · split
    · exact ⟨rfl, fun _ => rfl⟩
    · exact looser_refl _
  · exact looser_refl _

theorem freeRow_own {bd : Board} {w : Work} {q : Nat} (h : w.HasCell bd.record.string (bd.record.address q))
    (hd : (w.rowCell bd.record q).dirty = true) : ((w.freeRow bd q).rowCell bd.record q).released = true := by
  unfold Work.rowCell at hd ⊢
  unfold Work.freeRow
  rw [Work.cell_setCell_of h, if_pos hd]

theorem guardRow_eq (bd : Board) (w : Work) (r : Nat) : w.guardRow bd r =
    if bd.due r (w.rowCell bd.record r) then
      match occupant (w.rowCell bd.record r).desired with
      | some k => (w.rowsShowing bd.record r k).foldl (Work.freeRow bd) w
      | none => w
    else w := rfl

/-- What acts that keep a state of things and achieve `P` at one of a list achieve by the whole list. -/
theorem foldl_achieves {α : Type} {f : Work → α → Work} {I P : Work → Prop} (hI : ∀ w a, I w → I (f w a)) (hP : ∀ w a, P w → P (f w a))
    {a : α} {l : List α} (ha : a ∈ l) (hdo : ∀ w, I w → P (f w a)) {w : Work} (hw : I w) : P (l.foldl f w) := by
  obtain ⟨l₁, l₂, rfl⟩ := List.append_of_mem ha
  have keep : ∀ (Q : Work → Prop), (∀ w a, Q w → Q (f w a)) → ∀ (l : List α) w, Q w → Q (l.foldl f w) := fun Q hQ l => by
    induction l with
    | nil => exact fun w h => h
    | cons c l ih => exact fun w h => ih (f w c) (hQ w c h)
  rw [List.foldl_append, List.foldl_cons]
  exact keep P hP l₂ _ (hdo _ (keep I hI l₁ w hw))

theorem foldl_looser {α : Type} {f : Work → α → Work} {s a : Nat} (h : ∀ (w : Work) x, (w.cell s a).Looser ((f w x).cell s a))
    (l : List α) (w : Work) : (w.cell s a).Looser ((l.foldl f w).cell s a) := by
  induction l generalizing w with
  | nil => exact looser_refl _
  | cons x l ih => exact (h w x).trans (ih (f w x))

theorem guardRow_looser (bd : Board) (w : Work) (r s a : Nat) : (w.cell s a).Looser ((w.guardRow bd r).cell s a) := by
  rw [guardRow_eq]
  split
  · split
    · exact foldl_looser (fun w q => freeRow_looser bd w q s a) _ w
    · exact looser_refl _
  · exact looser_refl _

theorem guardRound_looser (bd : Board) (w : Work) (s a : Nat) :
    (w.cell s a).Looser ((bd.record.rowList.foldl (Work.guardRow bd) w).cell s a) :=
  foldl_looser (fun w r => guardRow_looser bd w r s a) _ w

theorem guardReleases_looser (bd : Board) (w : Work) (s a : Nat) : (w.cell s a).Looser ((w.guardReleases bd).cell s a) :=
  foldl_looser (fun w _ => guardRound_looser bd w s a) _ w

/-- R82: a dirty row that stands in the way of a due row is released. -/
theorem guardRow_releases {bd : Board} {w : Work} {r q : Nat} {e : ServiceRow} (hdue : bd.due r (w.rowCell bd.record r) = true)
    (hd : (w.rowCell bd.record r).desired = .service e) (hq : q ∈ w.rowsShowing bd.record r e.key)
    (hdirty : (w.rowCell bd.record q).dirty = true) (hcell : w.HasCell bd.record.string (bd.record.address q)) :
    ((w.guardRow bd r).rowCell bd.record q).released = true := by
  rw [guardRow_eq, if_pos hdue, hd]
  refine foldl_achieves (I := fun v => (w.rowCell bd.record q).Looser (v.rowCell bd.record q) ∧ v.shape = w.shape)
    (P := fun v => (v.rowCell bd.record q).released = true) (fun v p hv => ⟨hv.1.trans (freeRow_looser ..), ?_⟩)
    (fun v p hv => (freeRow_looser bd v p _ _).released hv) hq (fun v hv => ?_) ⟨looser_refl _, rfl⟩
  · exact (Work.shape_setCell ..).trans hv.2
  · exact freeRow_own (hcell.of_shape hv.2) (hv.1.dirty.trans hdirty)

theorem guardReleases_releases {bd : Board} {w : Work} {r q : Nat} {e : ServiceRow} (hr : r ∈ bd.record.rowList)
    (hdue : bd.due r (w.rowCell bd.record r) = true) (hd : (w.rowCell bd.record r).desired = .service e)
    (hq : q ∈ w.rowsShowing bd.record r e.key) (hdirty : (w.rowCell bd.record q).dirty = true)
    (hcell : w.HasCell bd.record.string (bd.record.address q)) : ((w.guardReleases bd).rowCell bd.record q).released = true := by
  have shape : ∀ (v : Work) p, (v.guardRow bd p).shape = v.shape := fun v p => by
    rw [guardRow_eq]
    split
    · split
      · exact shapeKept.foldl (f := Work.freeRow bd) (fun v q => Work.shape_setCell ..) _ v
      · rfl
    · rfl
  have round : ∀ v : Work, (bd.record.rowList.foldl (Work.guardRow bd) v).shape = v.shape := fun v =>
    shapeKept.foldl (f := Work.guardRow bd) shape _ v
  have mono : ∀ (v u : Work), (v.cell bd.record.string (bd.record.address q)).Looser (u.cell bd.record.string (bd.record.address q)) →
      (v.rowCell bd.record q).released = true → (u.rowCell bd.record q).released = true := fun v u h => h.released
  obtain ⟨hrange, hne, hshows⟩ := mem_rowsShowing.mp hq
  have hrows := mem_rowList.mp hr
  refine foldl_achieves (l := List.range bd.record.rows) (a := 0)
    (I := fun v => (w.rowCell bd.record r).Looser (v.rowCell bd.record r) ∧ (w.rowCell bd.record q).Looser (v.rowCell bd.record q) ∧
      v.shape = w.shape)
    (P := fun v => (v.rowCell bd.record q).released = true)
    (fun v _ hv => ⟨hv.1.trans (guardRound_looser ..), hv.2.1.trans (guardRound_looser ..), (round v).trans hv.2.2⟩)
    (fun v _ hv => mono v _ (guardRound_looser ..) hv) (List.mem_range.mpr (by omega)) (fun v hv => ?_)
    ⟨looser_refl _, looser_refl _, rfl⟩
  refine foldl_achieves (l := bd.record.rowList) (a := r)
    (I := fun v => (w.rowCell bd.record r).Looser (v.rowCell bd.record r) ∧ (w.rowCell bd.record q).Looser (v.rowCell bd.record q) ∧
      v.shape = w.shape)
    (P := fun v => (v.rowCell bd.record q).released = true)
    (fun v p hv => ⟨hv.1.trans (guardRow_looser ..), hv.2.1.trans (guardRow_looser ..), (shape v p).trans hv.2.2⟩)
    (fun v p hv => mono v _ (guardRow_looser ..) hv) hr (fun v hv => ?_) hv
  obtain ⟨hvr, hvq, hvs⟩ := hv
  exact guardRow_releases (hvr.due hdue) (hvr.desired.trans hd) (mem_rowsShowing.mpr ⟨hrange, hne, (hvq.shows e.key).trans hshows⟩)
    (hvq.dirty.trans hdirty) (hcell.of_shape hvs)

/-- R79: the release flag of a row. -/
theorem releaseRow_released {bd : Board} {w : Work} {r : Nat} (expired returning : Bool)
    (hcell : w.HasCell bd.record.string (bd.record.address r)) :
    ((w.releaseRow bd expired returning r).rowCell bd.record r).released =
      if (w.rowCell bd.record r).dirty = false then false
      else (w.rowCell bd.record r).released || returning ||
        (bd.rotating r && (expired || (w.rowCell bd.record r).urgent bd.eligible)) := by
  unfold Work.releaseRow Work.rowCell
  rw [Work.cell_setCell_of hcell]
  have flag : ∀ (c : Cell) (x : Bool), (if !c.dirty then { c with released := false, heldBack := false }
      else if returning || x then { c with released := true } else c).released =
        if c.dirty = false then false else c.released || returning || x := fun c x => by
    cases c.dirty with
    | false => rfl
    | true => cases returning <;> cases x <;> simp
  exact flag _ _

end Sys2Proof.Machine
end

section
/-!
PROOF. Page expiries and flashes (R71, R76), and the staging of rows put together (R77 to R82).
-/

namespace Sys2Proof.Machine

/-! ### One board derived at an event -/

/-- R67: an event that derives one board. -/
theorem foldl_one_board (b : Base) (e : Nat → Bool) {n : Nat} {w : Work} (hn : n < 16) (ho : w.online n = true) :
    (List.range 16).foldl (fun v m => if v.online m && (m == n) then v.deriveBoard b none (e m) m else v) w =
      w.deriveBoard b none (e n) n := by
  obtain ⟨l, hl, hnl⟩ := range_split hn
  have still : ∀ (l : List Nat) (v : Work), n ∉ l →
      l.foldl (fun v m => if v.online m && (m == n) then v.deriveBoard b none (e m) m else v) v = v := fun l v h =>
    foldl_fixed fun m hm => if_neg fun hc => h (by
      have hmn : m = n := beq_iff_eq.mp (Bool.and_eq_true_iff.mp hc).2
      rwa [← hmn])
  rw [hl, List.foldl_append, still _ _ (fun h => absurd (List.mem_range.mp h) (Nat.lt_irrefl n)), List.foldl_cons, still _ _ hnl]
  exact if_pos (Bool.and_eq_true_iff.mpr ⟨ho, beq_iff_eq.mpr rfl⟩)

/-! ### Released rows stay released (R71, R79) -/

/-- A dirty row is released. -/
def Cell.freed (c : Cell) : Prop := c.dirty = true → c.released = true

theorem Cell.Looser.freed {c d : Cell} (h : c.Looser d) (hc : c.freed) : d.freed := fun hd =>
  h.released (hc (h.dirty.symm.trans hd))

theorem releaseRow_keeps_freed (bd : Board) (e returning : Bool) (w : Work) (q s a : Nat) (h : (w.cell s a).freed) :
    ((w.releaseRow bd e returning q).cell s a).freed := by
  unfold Work.releaseRow
  rw [Work.cell_setCell]
  split
  · split
    · next hd => exact fun hdirty => absurd hdirty (by simpa [Cell.dirty, Cell.reference, Cell.queued] using hd)
    · split
      · exact fun _ => rfl
      · exact h
  · exact h

/-- R71: at a page expiry every rotating row that is dirty is released. -/
theorem releaseRow_frees {bd : Board} {returning : Bool} {w : Work} {r : Nat} (hcell : w.HasCell bd.record.string (bd.record.address r))
    (hrot : bd.rotating r = true) : ((w.releaseRow bd true returning r).rowCell bd.record r).freed := by
  intro hd
  rw [releaseRow_released true returning hcell]
  have same : ((w.releaseRow bd true returning r).rowCell bd.record r).dirty = (w.rowCell bd.record r).dirty := by
    unfold Work.releaseRow Work.rowCell
    rw [Work.cell_setCell_of hcell]
    split
    · rfl
    · split <;> rfl
  rw [same] at hd
  rw [hd, hrot]
  simp

theorem offeredDesired_freed (x : OfferAnswer) {c : Cell} (h : c.freed) : (c.offeredDesired x).freed := by
  have clean : ∀ l : List RowContent, ¬ ({ c with outstanding := l ++ [c.desired], released := false, heldBack := false } : Cell).dirty = true :=
    fun l hd => by
      rw [dirty_iff] at hd
      unfold Cell.reference Cell.queued at hd
      simp at hd
  cases x with
  | refused => exact h
  | queued => exact fun hd => absurd hd (clean _)
  | replaced => exact fun hd => absurd hd (clean _)

theorem offerRow_keeps_freed {b : Base} {bd : Board} {w : Work} {q r : Nat} (hf : 1 ≤ bd.record.first) (hq : 1 ≤ q) (hr : 1 ≤ r)
    (hcell : w.HasCell bd.record.string (bd.record.address r)) (hs : bd.record.string < w.wsc.length) (hrot : bd.rotating r = true)
    (h : (w.rowCell bd.record r).freed) : ((w.offerRow b bd q).rowCell bd.record r).freed := by
  by_cases hqr : q = r
  · subst hqr
    by_cases hdue : bd.due q (w.rowCell bd.record q) = true
    · by_cases hway : ∃ e p, (w.rowCell bd.record q).desired = .service e ∧ p ∈ w.rowsShowing bd.record q e.key
      · obtain ⟨e, p, hd, hp⟩ := hway
        obtain ⟨-, -, -, hreleased, -⟩ := offerRow_held_cell (b := b) hdue hd hp hcell hs
        obtain ⟨-, hor⟩ := (due_iff ..).mp hdue
        exact fun _ => hreleased.trans (hor.resolve_left (by rw [hrot]; exact Bool.noConfusion))
      · rw [offerRow_free hdue fun e p hd hp => hway ⟨e, p, hd, hp⟩]
        unfold Work.rowCell
        rw [offerDesired_own hcell]
        exact offeredDesired_freed _ h
    · rw [offerRow_idle (Bool.not_eq_true _ ▸ hdue)]
      exact h
  · unfold Work.rowCell
    rw [offerRow_other fun he => hqr (address_inj hf hq hr he.2.symm)]
    exact h

/-- What the acts on every element of a list keep. -/
theorem foldl_keeps {α : Type} {f : Work → α → Work} {I : Work → Prop} {l : List α} (h : ∀ a ∈ l, ∀ w, I w → I (f w a)) {w : Work}
    (hw : I w) : I (l.foldl f w) := by
  induction l generalizing w with
  | nil => exact hw
  | cons a l ih => exact ih (fun b hb => h b (List.mem_cons_of_mem _ hb)) (h a (List.mem_cons_self ..) w hw)

/-- The strings keep their number through every offer. -/
theorem stringsKept : RowMoves fun w u => u.wsc.length = w.wsc.length where
  refl _ := rfl
  trans h k := k.trans h
  offer b s a c w := by
    rw [Work.offer_eq]
    exact List.length_modify ..
  cell _ _ _ _ _ := rfl

/-- R71, R79: after the derivation of a page expiry no rotating row is dirty and not released. -/
theorem deriveBoard_frees (b : Base) {n : Nat} {w : Work} {bd : Board} (hbd : w.board n = some bd) (hs : bd.record.string < w.wsc.length)
    (hf : 1 ≤ bd.record.first) {r : Nat} (hr : r ∈ bd.record.rowList) (hcell : w.HasCell bd.record.string (bd.record.address r))
    (hrot : (bd.refresh b w n).rotating r = true) :
    ((w.deriveBoard b none true n).cell bd.record.string (bd.record.address r)).freed := by
  obtain ⟨bd', hbd'⟩ : ∃ bd', bd' = bd.derived b w n none := ⟨_, rfl⟩
  have hrec : bd'.record = bd.record := hbd' ▸ derived_record b w n none bd
  have hrot' : bd'.rotating r = true := hbd' ▸ hrot
  rw [deriveBoard_eq hbd, ← hbd', ← hrec]
  rw [← hrec] at hs hf hr hcell
  have hr1 := (mem_rowList.mp hr).1
  obtain ⟨v, hv⟩ : ∃ v, v = bd'.record.rowList.foldl (Work.deriveRow b bd' none) (w.setBoard n fun _ => bd') := ⟨_, rfl⟩
  have hvshape : v.shape = w.shape := hv ▸ shapeKept.foldl (shapeKept.deriveRow b bd' none) _ _
  have hvcell : v.HasCell bd'.record.string (bd'.record.address r) := hcell.of_shape hvshape
  obtain ⟨u, hu⟩ : ∃ u, u = bd'.record.rowList.foldl
    (Work.releaseRow bd' true (bd'.presentation == .normal && bd.presentation != .normal)) v := ⟨_, rfl⟩
  have hufreed : (u.rowCell bd'.record r).freed := by
    rw [hu]
    exact foldl_achieves (I := fun x => x.shape = w.shape) (P := fun x => (x.rowCell bd'.record r).freed)
      (fun x q hx => (Work.shape_setCell ..).trans hx) (fun x q hx => releaseRow_keeps_freed bd' true _ x q _ _ hx) hr
      (fun x hx => releaseRow_frees (hcell.of_shape hx) hrot') hvshape
  have hushape : u.shape = w.shape := (hu ▸ shapeKept.foldl (shapeKept.releaseRow bd' true _) _ v : u.shape = v.shape).trans hvshape
  have hustrings : u.wsc.length = w.wsc.length := by
    have hvstrings : v.wsc.length = w.wsc.length := hv ▸ stringsKept.foldl (stringsKept.deriveRow b bd' none) _ _
    exact (hu ▸ stringsKept.foldl (stringsKept.releaseRow bd' true _) _ v : u.wsc.length = v.wsc.length).trans hvstrings
  have huboard : u.board n = some bd' := by
    have hboards : u.bcp.boards = (w.setBoard n fun _ => bd').bcp.boards := by
      rw [hu, hv]
      exact boardsKept.trans (boardsKept.foldl (boardsKept.deriveRow b bd' none) _ _) (boardsKept.foldl (boardsKept.releaseRow bd' true _) _ _)
    rw [board_of_boards hboards, Work.board_setBoard, if_pos rfl, hbd]
    rfl
  rw [← hv, ← hu]
  unfold Work.offerRows
  rw [huboard]
  dsimp only
  have hguard : (u.guardReleases bd').shape = w.shape ∧ (u.guardReleases bd').wsc.length = w.wsc.length ∧
      ((u.guardReleases bd').rowCell bd'.record r).freed :=
    ⟨(shapeKept.guardReleases bd' u).trans hushape, (stringsKept.guardReleases bd' u).trans hustrings,
      (guardReleases_looser bd' u _ _).freed hufreed⟩
  exact (foldl_keeps (I := fun x => x.shape = w.shape ∧ x.wsc.length = w.wsc.length ∧ (x.rowCell bd'.record r).freed)
    (fun q hq x hx => ⟨(shapeKept.offerRow b bd' x q).trans hx.1, (stringsKept.offerRow b bd' x q).trans hx.2.1,
      offerRow_keeps_freed hf (mem_rowList.mp hq).1 hr1 (hcell.of_shape hx.1) (by rw [hx.2.1]; exact hs) hrot' hx.2.2⟩) hguard).2.2

/-- R64: the string of an ONLINE board is one of the strings. -/
theorem string_of_online {w : Work} {n : Nat} {bd : Board} (hbd : w.board n = some bd) (ho : w.online n = true) :
    bd.record.string < w.wsc.length := by
  have henabled := ((Work.online_iff hbd).mp ho).2
  by_contra hno
  rw [Work.string, List.getD_eq_default _ _ (Nat.not_lt.mp hno)] at henabled
  exact absurd henabled Bool.false_ne_true

/-! ### The page expiry and the end of a flash (R71, R76) -/

/-- R71: a running board at its page expiry. -/
theorem expirePage_eq {b : Base} {n : Nat} {w : Work} {bd : Board} (hn : n < 16) (ho : w.online n = true) (hbd : w.board n = some bd)
    (hk : bd.record.kind = .list) (hp : bd.presentation = .normal) : w.expirePage b n =
      ((w.setBoard n Board.turnPage).deriveBoard b none true n).refreshConfirmations b [] := by
  have hpaging : w.paging n = true := by
    unfold Work.paging
    rw [ho, hbd]
    dsimp only
    rw [hk, hp]
    rfl
  have hturned : (w.setBoard n Board.turnPage).online n = true := by
    have hbd' : (w.setBoard n Board.turnPage).board n = some bd.turnPage := by rw [Work.board_setBoard, if_pos rfl, hbd]; rfl
    rw [Work.online_iff hbd']
    exact (Work.online_iff hbd).mp ho
  unfold Work.expirePage
  rw [if_pos hpaging]
  unfold Work.deriveWith
  rw [foldl_one_board b (fun m => [n].contains m) hn hturned, show [n].contains n = true by simp]

theorem pageExpiry_outcome (n : Fin 16) (bd : Board) (s : State) (ho : s.work.online n = true) (hbd : s.work.board n = some bd)
    (hk : bd.record.kind = .list) (hp : bd.presentation = .normal) :
    ∃ t bd', exec (.pageExpiry n) s = .next t ∧ t.base = s.base ∧ t.scd = s.scd ∧ t.pending = s.pending ∧
      t.work.settled = s.work.settled ∧ t.work.board n = some bd' ∧ bd'.record = bd.record ∧ bd'.timer = 0 ∧
      (let next := if bd.page + 1 < bd.pageCount then bd.page + 1 else 0
       bd'.page = if next < bd'.pageCount then next else 0) ∧
      (bd.record.string < s.work.bcp.cells.length → 1 ≤ bd.record.first →
        bd.record.first + bd.record.rows - 1 ≤ (s.work.bcp.cells.getD bd.record.string []).length →
        ∀ row, 1 ≤ row → row ≤ bd.record.rows → bd'.rotating row = true →
          let c := t.work.cell bd.record.string (bd.record.first + row - 1)
          c.dirty = true → c.released = true) := by
  have heq := expirePage_eq (b := s.base) n.isLt ho hbd hk hp
  obtain ⟨v, hv⟩ : ∃ v, v = s.work.setBoard n Board.turnPage := ⟨_, rfl⟩
  have hvbd : v.board n = some bd.turnPage := by rw [hv, Work.board_setBoard, if_pos rfl, hbd]; rfl
  rw [← hv] at heq
  have hbcp : (s.mapWork (Work.expirePage s.base n)).finish.work.bcp = (v.deriveBoard s.base none true n).bcp := by
    show (s.work.expirePage s.base n).bcp = _
    rw [heq, (refreshConfirmations_keeps ..).1]
  refine ⟨(s.mapWork (Work.expirePage s.base n)).finish, bd.turnPage.refresh s.base v n, rfl, rfl, rfl, rfl, ?_, ?_, rfl, ?_, ?_, ?_⟩
  · rw [finish_settled, State.mapWork_work]
    exact kept_settled (Work.expirePage_kept ..)
  · rw [Work.board, hbcp]
    show (v.deriveBoard s.base none true n).board n = _
    rw [deriveBoard_board, if_pos rfl, hvbd]
    rfl
  · exact ite_self _
  · intro next
    have hstay : ¬ (presentationOf s.base = .normal ∧ bd.turnPage.presentation ≠ .normal) := fun h => h.2 hp
    show (if (presentationOf s.base = .normal ∧ bd.turnPage.presentation ≠ .normal) ∨
      (bd.turnPage.refresh s.base v n).pageCount ≤ next then 0 else next) = _
    rw [if_congr (or_iff_right hstay) rfl rfl]
    split
    · next h => rw [if_neg (Nat.not_lt.mpr h)]
    · next h => rw [if_pos (Nat.not_le.mp h)]
  · intro hs hf ha row h1 h2 hrot
    have hstr : bd.turnPage.record.string < v.wsc.length := by
      rw [hv]
      exact (string_of_online hbd ho :)
    have hplace : bd.record.address row - 1 < (s.work.bcp.cells.getD bd.record.string []).length := by
      unfold BoardRec.address
      omega
    have hfreed := deriveBoard_frees s.base hvbd (r := row) hstr hf (mem_rowList.mpr ⟨h1, h2⟩)
      (by rw [hv]; exact ⟨hs, hplace⟩) hrot
    intro c hd
    have hc : c = (v.deriveBoard s.base none true n).cell bd.record.string (bd.record.address row) := by
      show Work.cell _ _ _ = _
      rw [Work.cell, hbcp]
      rfl
    rw [hc] at hd ⊢
    exact hfreed hd

theorem flashEnd_outcome (key : Key) (x : Service) (s : State) (hx : s.work.svt.find key = some x) (hf : 0 < x.flash) :
    ∃ t, exec (.flashEnd key) s = .next t ∧ t.base = s.base ∧ t.scd = s.scd ∧ t.pending = s.pending ∧
      t.work.settled = s.work.settled ∧ (∀ y ∈ t.work.svt.services, y.key = key → y.flash = 0) := by
  refine ⟨(s.mapWork (Work.endFlash s.base key)).finish, rfl, rfl, rfl, rfl, ?_, ?_⟩
  · rw [finish_settled, State.mapWork_work]
    exact kept_settled (Work.endFlash_kept ..)
  · have heq : s.work.endFlash s.base key =
        (s.work.updateService key fun x => { x with flash := 0 }).derive s.base (s.work.lists key) := by
      unfold Work.endFlash
      rw [hx]
      exact if_pos hf
    have hderive := deriveOnly_moves.derive s.base (s.work.lists key) (s.work.updateService key fun x => { x with flash := 0 })
    intro y hy hk
    have hpair : (y.key, y.flash) ∈ (s.work.updateService key fun x => { x with flash := 0 }).svt.services.map
        fun z => (z.key, z.flash) := by
      rw [← hderive.services_map (g := fun z => (z.key, z.flash)) fun _ => rfl, ← heq]
      exact List.mem_map_of_mem (f := fun z : Service => (z.key, z.flash)) hy
    obtain ⟨z, hz, hzy⟩ := List.mem_map.mp hpair
    obtain ⟨hzk, hzf⟩ := Prod.mk.inj hzy
    rw [← hzf]
    exact updateService_all (f := fun x : Service => { x with flash := 0 }) (P := fun x => x.flash = 0) (fun _ => rfl) z hz (hzk.trans hk)

/-- Settles O23: a page expiry and the end of a flash at exec, and the staging of rows at the composer's own acts. -/
theorem pageAndFlashEnd : Obligations.PageAndFlashEnd := by
  refine ⟨pageExpiry_outcome, flashEnd_outcome, fun c list => ⟨dirty_iff c, urgent_iff c list⟩,
    fun bd r c => ⟨rotating_iff bd r, due_iff bd r c⟩, ?_⟩
  intro b bd r w rec' at' cell shows hs hf hstr ha h1 h2
  have hr : r ∈ bd.record.rowList := mem_rowList.mpr ⟨h1, h2⟩
  have hfirst : 1 ≤ bd.record.first := hf
  have hlast : bd.record.first + bd.record.rows - 1 ≤ (w.bcp.cells.getD bd.record.string []).length := ha
  have hcell : ∀ q, 1 ≤ q → q ≤ bd.record.rows → w.HasCell bd.record.string (bd.record.address q) := fun q _ hq =>
    ⟨hs, by unfold BoardRec.address; omega⟩
  have hshows : ∀ q k, shows q k ↔ q ∈ w.rowsShowing bd.record r k := fun q k => by
    rw [mem_rowsShowing, shows_iff]
    exact ⟨fun ⟨p1, p2, p3, p4⟩ => ⟨⟨p1, p2⟩, p3, p4⟩, fun ⟨⟨p1, p2⟩, p3, p4⟩ => ⟨p1, p2, p3, p4⟩⟩
  refine ⟨fun expired returning => releaseRow_released expired returning (hcell r h1 h2), fun hdue e q hd hq hdirty => ?_, fun hdue => ?_,
    fun hdue hno => ?_, fun hdue e q hd hq => ?_⟩
  · obtain ⟨⟨hq1, hq2⟩, -⟩ := mem_rowsShowing.mp ((hshows q e.key).mp hq)
    exact guardReleases_releases hr hdue hd ((hshows q e.key).mp hq) hdirty (hcell q hq1 hq2)
  · exact offerRow_idle hdue
  · have hfree := offerRow_free (b := b) hdue fun e q hd hq => hno e q hd ((hshows q e.key).mpr hq)
    intro p
    dsimp only
    rw [hfree]
    exact ⟨offerDesired_string hstr, offerDesired_own (hcell r h1 h2)⟩
  · obtain ⟨k1, k2, k3, -, k5, k6⟩ := offerRow_held_cell (b := b) hdue hd ((hshows q e.key).mp hq) (hcell r h1 h2) hstr
    exact ⟨k1, k2, k3, k5, k6⟩

end Sys2Proof.Machine
end

section
/-!
PROOF. A TEXT LOAD as its layout spells it (11.7), its checks (R55), and the entries it writes (R56).
-/

namespace Sys2Proof.Machine

/-! ### The layout (11.7) -/

/-- 11.7: the bytes of one item of a TEXT LOAD. -/
def itemBytes (x : TextItem) : List Byte :=
  twoBytes x.index ++ twoBytes (x.phrase.getD 0xFFFF) ++ BitVec.ofNat 8 x.text.length :: x.text

theorem textPayload_eq (items : List TextItem) : textPayload items = BitVec.ofNat 8 items.length :: items.flatMap itemBytes := rfl

/-- R54: what an item of a TEXT LOAD may carry. -/
structure FitItem (x : TextItem) : Prop where
  index : x.index ≤ 1023
  text : x.text.length ≤ 32
  phrase : ∀ p, x.phrase = some p → p ≤ 4095
  printed : ∀ c ∈ x.text, (0x20 ≤ c.toNat ∧ c.toNat ≤ 0x7E) ∨ 0xA0 ≤ c.toNat

theorem word_twoBytes {n : Nat} (h : n < 65536) : word (BitVec.ofNat 8 (n / 256)) (BitVec.ofNat 8 (n % 256)) = n := by
  unfold word
  rw [BitVec.toNat_ofNat, BitVec.toNat_ofNat]
  omega

theorem read_phrase {o : Option Nat} (h : ∀ p, o = some p → p ≤ 4095) : (if o.getD 0xFFFF = 0xFFFF then none else some (o.getD 0xFFFF)) = o := by
  cases o with
  | none => rfl
  | some p =>
    have := h p rfl
    exact if_neg (show ¬ p = 0xFFFF by omega)

/-- 11.7: one item is read back from its bytes. -/
theorem readItems_item {x : TextItem} (hx : FitItem x) (n : Nat) (rest : List Byte) : readItems (n + 1) (itemBytes x ++ rest) =
    (readItems n rest).map fun r => (x :: r.1, 5 + x.text.length + r.2) := by
  have hlen : (BitVec.ofNat 8 x.text.length : Byte).toNat = x.text.length := by
    rw [BitVec.toNat_ofNat]
    have := hx.text
    omega
  have hindex := word_twoBytes (n := x.index) (by have := hx.index; omega)
  have hphrase := word_twoBytes (n := x.phrase.getD 0xFFFF) (by
    cases hp : x.phrase with
    | none => decide
    | some p =>
      have := hx.phrase p hp
      show p < 65536
      omega)
  show (readItems n ((x.text ++ rest).drop (BitVec.ofNat 8 x.text.length : Byte).toNat)).map (fun r =>
    ((⟨word _ _, (x.text ++ rest).take (BitVec.ofNat 8 x.text.length : Byte).toNat,
      if word _ _ = 0xFFFF then none else some (word _ _)⟩ : TextItem) :: r.1, 5 + (BitVec.ofNat 8 x.text.length : Byte).toNat + r.2)) = _
  rw [hlen, hindex, hphrase, read_phrase hx.phrase, List.drop_left, List.take_left]

theorem itemBytes_length (x : TextItem) : (itemBytes x).length = 5 + x.text.length := by
  unfold itemBytes twoBytes
  rw [List.length_append, List.length_append, List.length_cons]
  simp only [List.length_cons, List.length_nil]
  omega

/-- 11.7: the items are read back from their bytes, whatever comes after them. -/
theorem readItems_bytes {items : List TextItem} (h : ∀ x ∈ items, FitItem x) (rest : List Byte) :
    readItems items.length (items.flatMap itemBytes ++ rest) = some (items, (items.flatMap itemBytes).length) := by
  induction items with
  | nil => rfl
  | cons x xs ih =>
    obtain ⟨hx, hxs⟩ := List.forall_mem_cons.mp h
    rw [List.flatMap_cons, List.append_assoc, List.length_cons, readItems_item hx, ih hxs, List.length_append, itemBytes_length]
    rfl

theorem items_short {items : List TextItem} (h : ∀ x ∈ items, FitItem x) : (items.flatMap itemBytes).length ≤ 37 * items.length := by
  induction items with
  | nil => exact Nat.zero_le _
  | cons x xs ih =>
    obtain ⟨hx, hxs⟩ := List.forall_mem_cons.mp h
    have hshort := ih hxs
    have htext := hx.text
    rw [List.flatMap_cons, List.length_append, itemBytes_length, List.length_cons]
    omega

/-- 11.7: what a TEXT LOAD is read as, with bytes after the last item or without. -/
theorem readTexts_bytes {items : List TextItem} (hn : items.length ≤ 16) (h : ∀ x ∈ items, FitItem x) (rest : List Byte) :
    readPayload .textLoad (textPayload items ++ rest) =
      if rest = [] then .request (.textLoad items) else .misfit (textPayload items).length := by
  have hcount : (BitVec.ofNat 8 items.length : Byte).toNat = items.length := by
    rw [BitVec.toNat_ofNat]
    omega
  have hitems := readItems_bytes h rest
  have hshort := items_short h
  have hsize : (textPayload items).length = 1 + (items.flatMap itemBytes).length := by
    rw [textPayload_eq, List.length_cons, Nat.add_comm]
  rw [textPayload_eq, List.cons_append]
  show readTexts (_ :: _) = _
  unfold readTexts
  dsimp only
  rw [hcount, hitems]
  dsimp only
  rw [List.length_append]
  cases rest with
  | nil => rw [if_pos rfl]; exact if_pos (Nat.add_zero _)
  | cons y ys =>
    rw [if_neg (List.cons_ne_nil _ _), ← textPayload_eq, hsize, if_neg (by rw [List.length_cons]; omega)]
    exact congrArg Reading.misfit (if_pos (show 1 + (items.flatMap itemBytes).length ≤ 1024 by omega))

/-! ### The checks (R55) -/

theorem firstRepeat_none {items : List TextItem} {seen : List Nat} (i : Nat) (hn : (items.map TextItem.index).Nodup)
    (hs : ∀ x ∈ items, x.index ∉ seen) : firstRepeat seen i items = none := by
  induction items generalizing seen i with
  | nil => rfl
  | cons x xs ih =>
    rw [List.map_cons, List.nodup_cons] at hn
    obtain ⟨hx, hxs⟩ := List.forall_mem_cons.mp hs
    rw [firstRepeat, if_neg fun h => hx (List.contains_iff_mem.mp h)]
    refine ih (i + 1) hn.2 fun y hy hseen => ?_
    rcases List.mem_cons.mp hseen with h | h
    · exact hn.1 (h ▸ List.mem_map_of_mem hy)
    · exact hxs y hy h

/-- R55: no check refuses such a TEXT LOAD. -/
theorem textRefusal_none {items : List TextItem} (h1 : 1 ≤ items.length) (h2 : items.length ≤ 16)
    (hn : (items.map TextItem.index).Nodup) (h : ∀ x ∈ items, FitItem x) : textRefusal items = none := by
  have hcount : (!(decide (1 ≤ items.length) && decide (items.length ≤ Config.maxItems))) = false := by
    rw [decide_eq_true h1, decide_eq_true (show items.length ≤ Config.maxItems from h2)]
    rfl
  unfold textRefusal
  rw [hcount, if_neg Bool.false_ne_true]
  simp only [Option.map_eq_none_iff, Option.or_eq_none_iff, firstItem_eq_none_iff]
  refine ⟨⟨⟨⟨fun x hx => ?_, firstRepeat_none 0 hn fun _ _ => List.not_mem_nil⟩, fun x hx => ?_⟩, fun x hx => ?_⟩, fun x hx => ?_⟩
  · exact decide_eq_false (Nat.not_le.mpr (Nat.lt_succ_of_le (h x hx).index))
  · exact decide_eq_false (Nat.not_lt.mpr (h x hx).text)
  · refine List.any_eq_false.mpr fun c hc => ?_
    have := (h x hx).printed c hc
    simp only [printable, Bool.not_eq_true, Bool.not_eq_false', Bool.or_eq_true, Bool.and_eq_true, decide_eq_true_eq]
    exact this
  · exact outside_eq_false_iff.mpr fun p hp => ⟨Nat.zero_le p, (h x hx).phrase p hp⟩

/-! ### The entries (R56) -/

theorem putTexts_length (txs : List TextEntry) (items : List TextItem) : (putTexts txs items).length = txs.length := by
  unfold putTexts
  induction items generalizing txs with
  | nil => rfl
  | cons x xs ih => exact (ih _).trans (List.length_set ..)

theorem putTexts_other {txs : List TextEntry} {items : List TextItem} {i : Nat} (h : ∀ x ∈ items, x.index ≠ i) :
    (putTexts txs items)[i]? = txs[i]? := by
  unfold putTexts
  induction items generalizing txs with
  | nil => rfl
  | cons x xs ih =>
    obtain ⟨hx, hxs⟩ := List.forall_mem_cons.mp h
    exact (ih hxs).trans (List.getElem?_set_ne hx)

theorem putTexts_own {txs : List TextEntry} {items : List TextItem} (hn : (items.map TextItem.index).Nodup) {x : TextItem}
    (hx : x ∈ items) (hi : x.index < txs.length) : (putTexts txs items)[x.index]? = some ⟨x.text, x.phrase⟩ := by
  induction items generalizing txs with
  | nil => exact absurd hx List.not_mem_nil
  | cons y ys ih =>
    rw [List.map_cons, List.nodup_cons] at hn
    show (putTexts (txs.set y.index ⟨y.text, y.phrase⟩) ys)[x.index]? = _
    rcases List.mem_cons.mp hx with rfl | hx
    · rw [putTexts_other fun z hz he => hn.1 (List.mem_map.mpr ⟨z, hz, he⟩)]
      exact List.getElem?_set_self hi
    · exact ih hn.2 hx (by rwa [List.length_set])

theorem textEntry_of_getElem? {txs : List TextEntry} {i : Nat} {e : TextEntry} (h : txs[i]? = some e) : textEntry txs i = e := by
  rw [textEntry, List.getD_eq_getElem?_getD, h]
  rfl

/-- R56: the changed set holds the indexes whose characters changed. -/
theorem mem_changedTexts {txs : List TextEntry} {items : List TextItem} (hn : (items.map TextItem.index).Nodup)
    (hi : ∀ x ∈ items, x.index < txs.length) {i : Nat} :
    i ∈ changedTexts txs items ↔ (textEntry (putTexts txs items) i).text ≠ (textEntry txs i).text := by
  have own : ∀ x ∈ items, (textEntry (putTexts txs items) x.index).text = x.text := fun x hx => by
    rw [textEntry_of_getElem? (putTexts_own hn hx (hi x hx))]
  unfold changedTexts
  rw [List.mem_map]
  constructor
  · rintro ⟨x, hx, rfl⟩
    obtain ⟨hx, hne⟩ := List.mem_filter.mp hx
    rw [own x hx]
    exact fun h => (bne_iff_ne.mp hne) h.symm
  · intro h
    obtain ⟨x, hx, rfl⟩ : ∃ x ∈ items, x.index = i := by
      by_contra hno
      refine h ?_
      rw [textEntry, List.getD_eq_getElem?_getD, putTexts_other fun x hx he => hno ⟨x, hx, he⟩, ← List.getD_eq_getElem?_getD, textEntry]
    refine ⟨x, List.mem_filter.mpr ⟨hx, bne_iff_ne.mpr fun he => h ?_⟩, rfl⟩
    rw [own x hx]
    exact he.symm

end Sys2Proof.Machine
end

section
/-!
PROOF. The text change event (R57, R59): which rows read a changed index, what they should show after it, and that every other row keeps
what it should show.
-/

namespace Sys2Proof.Machine

/-! ### What a row reads (R57, R70, R72) -/

/-- R57, R74: a row reads the index `i` when it is among the indexes of its source. -/
theorem reads_iff (w : Work) (i : Nat) (src : RowSource) : src.reads w i ↔ i ∈ indexesOf w src := by
  cases src with
  | blank => exact iff_of_false id List.not_mem_nil
  | banner j => exact List.mem_singleton.symm
  | calling x => exact Iff.rfl
  | service x =>
    show i = x.destination ∨ x.via = some i ∨ _ ↔ i ∈ x.destination :: (x.via.toList ++ (noticeIndex w.nre x).toList)
    rw [List.mem_cons, List.mem_append, Option.mem_toList, Option.mem_toList, noticeIndex_iff]
    have candidate : ∀ (h : Nat) (r : Rule), (h < 64 ∧ h ∈ x.held ∧ w.nre.rule h = some r ∧ r.kind = .head ∧ r.notice ≠ none) ↔
        (h < 64 ∧ w.nre.candidate (noticeFor x) h r) := fun h r => by
      unfold Nre.candidate
      rw [noticeFor_iff]
      exact ⟨fun ⟨h1, h2, h3, h4, h5⟩ => ⟨h1, h3, h4, h5, h2⟩, fun ⟨h1, h3, h4, h5, h2⟩ => ⟨h1, h2, h3, h4, h5⟩⟩
    refine or_congr Iff.rfl (or_congr Iff.rfl (exists_congr fun h => exists_congr fun r => and_congr (candidate h r) (and_congr Iff.rfl ?_)))
    exact forall_congr' fun g => forall_congr' fun q => (imp_congr (candidate g q) Iff.rfl).trans and_imp

/-- R70, R72, R68: the assignment of a board's last derivation, as the model has it at a text change event. -/
theorem assigned_eq {b b' : Base} (hf : b'.fiu = b.fiu) (ht : b'.tbs = b.tbs) (w : Work) (bd : Board) (changed : List Nat) (row : Nat) :
    bd.assigned b w row = w.sourceOf b' bd (some changed) row := by
  unfold Board.assigned Work.sourceOf
  dsimp only
  by_cases ho : b.fiu.override = true
  · rw [if_pos ho, rowSource_override (hf ▸ ho)]
  rw [if_neg ho]
  by_cases hu : b.tbs.state = .unset
  · rw [if_pos hu, rowSource_startUp (hf ▸ ho) (ht ▸ hu)]
  rw [if_neg hu, rowSource_normal (hf ▸ ho) (ht ▸ hu)]
  by_cases hk : bd.record.kind = .list
  · rw [if_pos hk, if_pos hk]
    rfl
  · rw [if_neg hk, if_neg hk]
    rfl

/-- R59: whether a row is derived at a text change event. -/
theorem readsChanged_iff (w : Work) (changed : List Nat) (src : RowSource) :
    readsChanged w (some changed) src = true ↔ ∃ i, src.reads w i ∧ i ∈ changed := by
  show (indexesOf w src).any changed.contains = true ↔ _
  rw [List.any_eq_true]
  simp only [List.contains_iff_mem, reads_iff]

/-! ### The event at one row (R59) -/

/-- What a text change event leaves as it is: the boards, what rows are worked out from, which boards are ONLINE, and the rows there are. -/
structure Work.Reread (w u : Work) : Prop where
  boards : u.bcp.boards = w.bcp.boards
  sources : w.Sources u
  kept : u.kept = w.kept
  shape : u.shape = w.shape

theorem reread_refl (w : Work) : w.Reread w := ⟨rfl, sourcesKept.refl w, rfl, rfl⟩

theorem Work.Reread.after {w v u : Work} (h : w.Reread v) (k : v.Reread u) : w.Reread u :=
  ⟨k.boards.trans h.boards, sourcesKept.trans h.sources k.sources, k.kept.trans h.kept, k.shape.trans h.shape⟩

theorem Work.Reread.online {w u : Work} (h : w.Reread u) (n : Nat) : u.online n = w.online n := by
  cases hb : w.board n with
  | none =>
    unfold Work.online
    rw [board_of_boards h.boards, hb]
  | some bd =>
    have hb' : u.board n = some bd := (board_of_boards h.boards n).trans hb
    unfold Work.online
    rw [hb, hb']
    dsimp only
    rw [settled_enabled (kept_settled h.kept)]

theorem setBoard_self {w : Work} {n : Nat} {bd : Board} (h : w.board n = some bd) : w.setBoard n (fun _ => bd) = w := by
  have same : w.bcp.boards.modify n (Option.map fun _ => bd) = w.bcp.boards := by
    refine List.ext_getElem? fun m => ?_
    rw [List.getElem?_modify]
    by_cases hm : n = m
    · subst hm
      rw [Work.board, List.getD_eq_getElem?_getD] at h
      cases hg : w.bcp.boards[n]? with
      | none => rfl
      | some o =>
        rw [hg, Option.getD_some] at h
        subst h
        exact congrArg some (if_pos rfl)
    · cases w.bcp.boards[m]? with
      | none => rfl
      | some o => exact congrArg some (if_neg hm)
  unfold Work.setBoard
  rw [same]

/-- R59: the derivation of rows alone leaves the board as it was. -/
theorem deriveBoard_reread (b : Base) (changed : List Nat) (e : Bool) (n : Nat) (w : Work) :
    w.Reread (w.deriveBoard b (some changed) e n) := by
  refine ⟨?_, sourcesKept.deriveBoard .., Work.deriveBoard_kept .., shapeKept.deriveBoard ..⟩
  cases hb : w.board n with
  | none =>
    unfold Work.deriveBoard
    rw [hb]
  | some bd =>
    rw [deriveBoard_eq hb]
    refine (boardsKept.offerRows ..).trans ((boardsKept.foldl (boardsKept.releaseRow _ e _) _ _).trans
      ((boardsKept.foldl (boardsKept.deriveRow b _ _) _ _).trans ?_))
    exact congrArg (fun v : Work => v.bcp.boards) (setBoard_self hb)

/-- R59: one board at a text change event that found the work `w`. -/
def Work.rederive (b : Base) (changed : List Nat) (w v : Work) (m : Nat) : Work :=
  if v.online m && w.textTouches b changed m then v.deriveBoard b (some changed) false m else v

theorem textChange_eq (b : Base) (changed : List Nat) (w : Work) :
    w.textChange b changed = ((List.range 16).foldl (w.rederive b changed) w).refreshConfirmations b [] := rfl

theorem rederive_reread (b : Base) (changed : List Nat) (w v : Work) (m : Nat) : v.Reread (w.rederive b changed v m) := by
  unfold Work.rederive
  split
  · exact deriveBoard_reread ..
  · exact reread_refl v

theorem derived_rows (b : Base) (w : Work) (n : Nat) (changed : List Nat) (bd : Board) : bd.derived b w n (some changed) = bd := rfl

/-- R59: what a row should show after a text change event. -/
theorem textChange_cell (b : Base) (changed : List Nat) {n : Nat} {w : Work} {bd : Board} {row : Nat} (hn : n < 16) (ho : w.online n = true)
    (hbd : w.board n = some bd) (hf : 1 ≤ bd.record.first) (hrow : row ∈ bd.record.rowList)
    (hcell : w.HasCell bd.record.string (bd.record.address row))
    (apart : ∀ m other q, m < 16 → m ≠ n → w.board m = some other → q ∈ other.record.rowList →
      ¬ (bd.record.string = other.record.string ∧ bd.record.address row - 1 = other.record.address q - 1)) :
    ((w.textChange b changed).cell bd.record.string (bd.record.address row)).desired =
      if readsChanged w (some changed) (w.sourceOf b bd (some changed) row) then
        contentOf b w bd.record (w.sourceOf b bd (some changed) row)
      else (w.cell bd.record.string (bd.record.address row)).desired := by
  have others : ∀ (l : List Nat), (∀ m ∈ l, m < 16 ∧ m ≠ n) → ∀ v : Work, w.Reread v →
      w.Reread (l.foldl (w.rederive b changed) v) ∧ ((l.foldl (w.rederive b changed) v).cell bd.record.string (bd.record.address row)).desired =
        (v.cell bd.record.string (bd.record.address row)).desired := by
    intro l hl v hv
    refine foldl_keeps (I := fun u => w.Reread u ∧ (u.cell bd.record.string (bd.record.address row)).desired =
      (v.cell bd.record.string (bd.record.address row)).desired) (fun m hm u hu => ⟨hu.1.after (rederive_reread b changed w u m), ?_⟩) ⟨hv, rfl⟩
    refine Eq.trans ?_ hu.2
    unfold Work.rederive
    split
    · exact deriveBoard_other b _ _ fun other q hother hq =>
        apart m other q (hl m hm).1 (hl m hm).2 ((board_of_boards hu.1.boards m).symm.trans hother) hq
    · rfl
  obtain ⟨l, hl, hnl⟩ := range_split hn
  have below : ∀ m ∈ List.range n, m < 16 ∧ m ≠ n := fun m hm => by
    have := List.mem_range.mp hm
    omega
  have above : ∀ m ∈ l, m < 16 ∧ m ≠ n := fun m hm =>
    ⟨List.mem_range.mp (hl ▸ List.mem_append_right _ (List.mem_cons_of_mem _ hm)), fun he => hnl (he ▸ hm)⟩
  obtain ⟨v, hv⟩ : ∃ v, v = (List.range n).foldl (w.rederive b changed) w := ⟨_, rfl⟩
  obtain ⟨hreread, hbefore⟩ := others _ below w (reread_refl w)
  rw [← hv] at hreread hbefore
  have hafter := (others l above (w.rederive b changed v n) (hreread.after (rederive_reread b changed w v n))).2
  rw [textChange_eq, Work.cell, (refreshConfirmations_keeps ..).1, ← Work.cell, hl, List.foldl_append, List.foldl_cons, ← hv, hafter,
    Work.rederive, hreread.online, ho, Bool.true_and]
  by_cases ht : w.textTouches b changed n = true
  · rw [if_pos ht, deriveBoard_cell b (some changed) _ ((board_of_boards hreread.boards n).trans hbd) hf hrow (hcell.of_shape hreread.shape),
      derived_rows, hreread.sources.sourceOf, hreread.sources.readsChanged, hreread.sources.contentOf, hbefore]
  · have hread : readsChanged w (some changed) (w.sourceOf b bd (some changed) row) = false := by
      rw [Work.textTouches, hbd] at ht
      exact Bool.eq_false_iff.mpr fun h => ht (List.any_eq_true.mpr ⟨row, hrow, h⟩)
    rw [if_neg ht, hread, hbefore]
    rfl

end Sys2Proof.Machine
end

section
/-!
PROOF. An accepted TEXT LOAD (R55 to R59).
-/

namespace Sys2Proof.Machine

/-- R56: the part's timebase, inputs and texts after a TEXT LOAD. -/
def Base.loadTexts (items : List TextItem) (b : Base) : Base := { b with txs := putTexts b.txs items }

theorem loadTexts_eq (items : List TextItem) (s : State) : s.loadTexts items =
    { s with
      base := s.base.loadTexts items
      work := if (changedTexts s.base.txs items).isEmpty then s.work
        else s.work.textChange (s.base.loadTexts items) (changedTexts s.base.txs items) } := by
  unfold State.loadTexts
  dsimp only
  split <;> rfl

theorem loadTexts_settled (items : List TextItem) (s : State) : (s.loadTexts items).work.settled = s.work.settled := by
  rw [loadTexts_eq]
  dsimp only
  split
  · rfl
  · exact kept_settled (Work.textChange_kept ..)

/-- R57, R59: what a row should show after a TEXT LOAD. -/
theorem loadTexts_cell (items : List TextItem) (s : State) {n : Nat} {bd : Board} {row : Nat} (hn : n < 16) (ho : s.work.online n = true)
    (hbd : s.work.board n = some bd) (hf : 1 ≤ bd.record.first) (hrow : row ∈ bd.record.rowList)
    (hcell : s.work.HasCell bd.record.string (bd.record.address row))
    (apart : ∀ m other q, m < 16 → m ≠ n → s.work.board m = some other → q ∈ other.record.rowList →
      ¬ (bd.record.string = other.record.string ∧ bd.record.address row - 1 = other.record.address q - 1)) :
    ((s.loadTexts items).work.cell bd.record.string (bd.record.address row)).desired =
      if readsChanged s.work (some (changedTexts s.base.txs items)) (bd.assigned s.base s.work row) then
        contentOf (s.base.loadTexts items) s.work bd.record (bd.assigned s.base s.work row)
      else (s.work.cell bd.record.string (bd.record.address row)).desired := by
  rw [loadTexts_eq, assigned_eq (b := s.base) (b' := s.base.loadTexts items) rfl rfl s.work bd (changedTexts s.base.txs items) row]
  dsimp only
  split
  · next hempty =>
    rw [if_neg fun hread => ?_]
    obtain ⟨i, -, hi⟩ := (readsChanged_iff ..).mp hread
    rw [List.isEmpty_iff.mp hempty] at hi
    exact List.not_mem_nil hi
  · exact textChange_cell (s.base.loadTexts items) (changedTexts s.base.txs items) hn ho hbd hf hrow hcell apart

/-- R61: rows of boards whose records do not overlap stand at different addresses. -/
theorem rows_apart {r q : Nat} {rec other : BoardRec} (hr : r ∈ rec.rowList) (hq : q ∈ other.rowList) (hf : 1 ≤ rec.first)
    (hf' : 1 ≤ other.first) (h : other.first + other.rows ≤ rec.first ∨ rec.first + rec.rows ≤ other.first) :
    rec.address r - 1 ≠ other.address q - 1 := by
  obtain ⟨hr1, hr2⟩ := mem_rowList.mp hr
  obtain ⟨hq1, hq2⟩ := mem_rowList.mp hq
  unfold BoardRec.address
  omega

/-- Settles O19: the layout, the entries, and the rows that read a changed index. -/
theorem textLoadWritesTheEntries : Obligations.TextLoadWritesTheEntries := by
  intro h items s hr hm h1 h16 hnodup hitems htxs
  have hfit : ∀ x ∈ items, FitItem x := fun x hx => by
    obtain ⟨hi, ht, hp, hc⟩ := hitems x hx
    exact ⟨hi, ht, hp, hc⟩
  have hplace : ∀ x ∈ items, x.index < s.base.txs.length := fun x hx => by
    rw [htxs]
    exact Nat.lt_succ_of_le (hfit x hx).index
  have hok : textRefusal items = none := textRefusal_none h1 h16 hnodup hfit
  have whole := readTexts_bytes h16 hfit []
  rw [List.append_nil, if_pos rfl] at whole
  refine ⟨whole, fun x xs => (readTexts_bytes h16 hfit (x :: xs)).trans (if_neg (List.cons_ne_nil _ _)), ?_⟩
  obtain ⟨t, ht1, ht2, hb, hs, hp, hw⟩ := request_answers (q := .textLoad items) hr hm
    (by simp only [Request.owner, ownTextLoad, guarded_eq hok]; rfl)
  have hsettled := (answers_settled hw).trans ((loadTexts_settled ..).trans (arrives_settled ..))
  have hbase : t.base = s.base.loadTexts items := by
    rw [hb, loadTexts_eq, State.arrives_base]
  have htexts : t.base.txs = putTexts s.base.txs items := congrArg Base.txs hbase
  have hchars : ∀ i, i ∈ changedTexts s.base.txs items ↔ (textEntry t.base.txs i).text ≠ (textEntry s.base.txs i).text := fun i => by
    rw [htexts]
    exact mem_changedTexts hnodup hplace
  refine ⟨t, ht1, ht2, ?_, ?_, ?_, hsettled, ?_, fun x hx => ?_, fun i hi => ?_, ?_⟩
  · rw [hbase]
    rfl
  · rw [hs, loadTexts_eq, State.arrives_scd]
  · rw [hp, loadTexts_eq, State.arrives_pending]
  · rw [htexts, putTexts_length, htxs]
  · rw [htexts]
    exact putTexts_own hnodup hx (hplace x hx)
  · rw [htexts]
    exact putTexts_other hi
  · intro n bd row hn ho hbd hdeg hstr hfirst hlast hrow1 hrow2 hapart chars desired src
    have hfresh := arrives_fresh h (.textLoad items) s hr.1 hdeg
    obtain ⟨u, hu⟩ : ∃ u, u = s.arrives h (.textLoad items) := ⟨_, rfl⟩
    have hubase : u.base = s.base := hu ▸ State.arrives_base ..
    rw [← hu] at hw hfresh
    have sources : s.work.Sources u.work := by
      rw [hfresh]
      exact ⟨rfl, rfl, rfl, rfl, rfl, rfl⟩
    have hrow : row ∈ bd.record.rowList := mem_rowList.mpr ⟨hrow1, hrow2⟩
    have hcell : s.work.HasCell bd.record.string (bd.record.address row) := ⟨hstr, by unfold BoardRec.address; omega⟩
    have hrows := loadTexts_cell items u hn (bd := bd) (by rw [hfresh]; exact ho) (by rw [hfresh]; exact hbd) hfirst hrow
      (by rw [hfresh]; exact hcell) fun m other q hm hmn hother hq he => by
        rw [hfresh] at hother
        obtain ⟨hf', hover⟩ := hapart m other hm hmn hother he.1.symm
        exact rows_apart hrow hq hfirst hf' hover he.2
    have hassigned : bd.assigned u.base u.work row = src := by
      rw [assigned_eq (b' := s.base) (by rw [hubase]) (by rw [hubase]) u.work bd [] row, sources.sourceOf]
      exact (assigned_eq rfl rfl s.work bd [] row).symm
    rw [hassigned, hubase, sources.readsChanged, sources.contentOf, ← hbase] at hrows
    have hshown : desired t = if readsChanged s.work (some (changedTexts s.base.txs items)) src then
        contentOf t.base s.work bd.record src else desired s := by
      have hcells : t.work.bcp = (u.loadTexts items).work.bcp := by rw [hw]
      show (t.work.cell bd.record.string (bd.record.address row)).desired = _
      rw [Work.cell, hcells, ← Work.cell, hrows, hfresh]
      rfl
    refine ⟨fun ⟨i, hi, hne⟩ => ?_, fun hsame => ?_⟩
    · rw [hshown, if_pos ((readsChanged_iff ..).mpr ⟨i, hi, (hchars i).mpr hne⟩)]
      cases src <;> rfl
    · rw [hshown, if_neg fun hread => ?_]
      obtain ⟨i, hi, hc⟩ := (readsChanged_iff ..).mp hread
      exact (hchars i).mp hc (hsame i hi)

end Sys2Proof.Machine
end
